-- ==== Sys2Proof/Word.lean ====
section
/-! DEFINITION. The bit-vector words of the BV4 manual (00_scope R7, R8) and the one shape in which the model
holds every indexed piece of state: a sparse map, a list of (key, value) pairs in rising key order. -/

namespace Sys2Proof

/-- A byte (R7). -/
abbrev Byte := BitVec 8

/-- A 16-bit word. -/
abbrev W16 := BitVec 16

/-- A 32-bit register or counter. -/
abbrev W32 := BitVec 32

/-- A 64-bit register or tick. -/
abbrev W64 := BitVec 64

/-- A byte string, lowest address first (R7). -/
abbrev Bytes := List Byte

/-- A sparse map: keys strictly rising, and no entry equal to the map's default value (see Machine/Sparse.lean). -/
abbrev SMap (α : Type) := List (Nat × α)

end Sys2Proof
end

