-- ==== Sys2Proof/Syntax.lean ====
section
/-! DEFINITION. The commands of the block: one constructor of `Instr` per row of spec/opcode_table.json, in the
table's order, and the plain data their operands are made of. The table gives no bits to any row, so an operand is
what the rule of the row says arrives from outside: the function and value of a register write, the flit, frame or
packet that a link delivers, a sensor reading, or the name of the queue, command or tile thread that takes the step.
-/

namespace Sys2Proof

/-- A PCIe function: the physical function or virtual function n (14_host_interface R398). -/
inductive Fn where
  | pf
  | vf (n : Fin 4)
deriving DecidableEq, Repr

/-- The name of a command in progress: partition, queue number (R31) and its admission count in the queue
(the value of HEAD at its admission, R411). -/
structure Cid where
  p : Fin 4
  q : Nat
  n : Nat
deriving DecidableEq, Repr

/-- The name of a tile thread: its sweep and its linear index t (02 "Sweeps"). -/
structure Tid where
  cid : Cid
  t : Nat
deriving DecidableEq, Repr

/-- What the host has stored in its own memory by the time of the step, in order (R7). -/
abbrev HostStores := List (Nat × Byte)

/-- A Seam direction: A to B runs from the lower-ranked end (10_seam R270). -/
inductive Dir where
  | ab
  | ba
deriving DecidableEq, Repr

/-- A main-band flit (Tables 10.4, 10.5): header fields, 248 payload bytes, CRC. -/
structure Flit where
  seq : W16
  stream : BitVec 4
  crStream : BitVec 4
  crCount : BitVec 8
  payload : Bytes
  crc : W32
deriving DecidableEq, Repr

/-- A link frame (Tables 11.2, 11.3): the 64-bit header word, 244 body bytes, CRC. -/
structure Frame where
  header : W64
  body : Bytes
  crc : W32
deriving DecidableEq, Repr

/-- What a hello frame carries (R303). -/
structure Hello where
  endpoint : BitVec 14
  port : BitVec 5
  encrypt : Bool
  retryDepth : Nat
deriving DecidableEq, Repr

/-- A packet: its header bytes (32 addressed, Table 11.5; 16 on a circuit, Table 11.6), its payload, its trailer
(R308), whether the hop authenticated it (R332), the circuit flag that tells the two headers apart and the buffer
class of its frames on the hop (R321; true is class 1). -/
structure Packet where
  circuit : Bool
  header : Bytes
  payload : Bytes
  trailer : W32
  authentic : Bool
  cls : Bool
deriving DecidableEq, Repr

/-- A replayable fault as its detector reports it (Table 13.6): the row of the table counted from 1, the unit
(logical core for rows 1 to 3, Seam, port or stack), the chunk for row 1, and for row 9 whether the buffer was a
collective engine's or reduce unit's, or else a Press unit's or a copy controller's. -/
structure FaultReport where
  p : Fin 4
  cause : Nat
  unit : Nat
  chunk : Nat
  collective : Bool
  press : Bool
deriving DecidableEq, Repr

/-- What one patrol pass meets in a 64-byte sector (R216, R217): its address and row, how many 8-bit symbols are in error
once the on-die code has acted, and whether the errors lie on one data pin. -/
structure ScrubFinding where
  pa : Nat
  row : Nat
  symbols : Nat
  onePin : Bool
deriving DecidableEq, Repr

/-- Features of PCIe that a function may offer or not (14 Table 14.1). -/
inductive PcieCap where
  | msix | aer | doe | sriov | resizableBar | flr | atomicRequester | atomicCompleter | msi | intx | ats | pri | pasid | aspm | l0p
  | tph | other
deriving DecidableEq, Repr

/-- A PCIe configuration request (R394, R398, R460, R468): a read, the question whether a capability is there, a write of VF
Enable and NumVFs, of MSI-X Enable and Function Mask, of the codes of Max Payload Size and Max Read Request Size, or of the
size of BAR2 (log₂; of the PF, or of every VF), or an SPDM measurement request over DOE. -/
inductive CfgReq where
  | read (offset : Nat)
  | capability (c : PcieCap)
  | vfEnable (enable : Bool) (numVfs : Nat)
  | msixControl (enable mask : Bool)
  | deviceControl (payload readSize : Nat)
  | resizeBar (vf : Bool) (size : Nat)
  | measure (block : Nat)
deriving DecidableEq, Repr

/-- The outcome of one lane test: the lanes found failing in a module of a direction (R286, R288, R294): 0 to 67 data,
68 to 70 clock, valid and track, 71 to 73 their redundant copies, 74 the sideband or the training of the module; module
31 is the control lanes, 0 to 3. -/
structure LaneResult where
  dir : Dir
  module : Nat
  lanes : List Nat
deriving DecidableEq, Repr

/-- The findings of a cold boot (R458, R459, R291, R294, R295); a failed HBM wire is named by its stack, channel and
number. -/
structure BootFindings where
  basketValid : Bool
  patchOk : Bool
  patchVersion : BitVec 8
  inlet : Option Nat
  failedCores : List Nat
  failedStacks : List Nat
  wireFailures : List (Nat × Nat × List Nat)
  laneFailures : List (Nat × LaneResult)
  downSeams : List Nat
  dieLevels : List Nat
  dieSteppings : List (Nat × Nat)
deriving DecidableEq, Repr

/-- The balls that the board ties (17 Table 17.15): none is one left open. -/
structure Balls where
  strap0 : Option Bool
  strap1 : Option Bool
  trstN : Option Bool
deriving DecidableEq, Repr

/-- A management message over PCIe VDM, SMBus or I3C (R465, R467, R471): a PLDM firmware update of a Basket slot,
a PLDM calendar setting, or any other MCTP message. -/
inductive MgmtMsg where
  | firmware (version : Nat) (signed : Bool)
  | calendar (seconds : Nat)
  | other (payload : Bytes)
deriving DecidableEq, Repr

/-- An MCTP message: the static address of SMBus or I3C that it is sent to, none over PCIe VDM, and what it says (17 Table 17.15). -/
structure MctpMsg where
  address : Option Nat
  body : MgmtMsg
deriving DecidableEq, Repr

/-- An access of Basket through the Colxis firewall (Table 16.10). -/
inductive BasketReq where
  | frames
  | hostMemory
  | readPartition (p : Fin 4) (offset : Nat)
  | writePartition (p : Fin 4) (offset : Nat)
  | selvageData
  | note (body : Bytes)
  | readPackage (offset : Nat)
  | writePackage (offset : Nat) (value : W32)
  | readTable (circuit : Bool) (index : Nat)
  | pegTrigger (halt : Bool) (fabric : Bool)
  | controlPacket (port : Fin 32) (pkt : Packet)
deriving DecidableEq, Repr

/-- The commands and events of the block: one constructor per row of the table, in its order.
(Log: DESIGN CHOICE, unsafe, entry 125.) -/
inductive Instr where
  | sweep (p : Fin 4) (q : Nat)
  | copy (p : Fin 4) (q : Nat)
  | collective (p : Fin 4) (q : Nat)
  | planSwitch (p : Fin 4) (q : Nat)
  | press (p : Fin 4) (q : Nat)
  | signal (p : Fin 4) (q : Nat)
  | marker (p : Fin 4) (q : Nat)
  | counterWrite (p : Fin 4)
  | selfTest (p : Fin 4)
  | calibrate (p : Fin 4)
  | peg (p : Fin 4)
  | snapshot (p : Fin 4)
  | copyIn (i : Tid)
  | copyOut (i : Tid)
  | copyMesh (i : Tid)
  | arrayLoadB (i : Tid)
  | arrayMma (i : Tid)
  | accInit (i : Tid)
  | chain (i : Tid)
  | rowFwd (i : Tid)
  | rowBwd (i : Tid)
  | wait (i : Tid)
  | waitSatisfied (i : Tid)
  | signalAdd (i : Tid)
  | signalSet (i : Tid)
  | barrier (i : Tid)
  | commandFinish (c : Cid)
  | placeNext (core : Nat)
  | threadRetire (i : Tid)
  | shadowBlockFreed (p : Fin 4)
  | collectiveRegionReady (c : Cid) (region : Nat)
  | arrivalTimeout (c : Cid)
  | hostRequestError (c : Cid)
  | devicePoll (p : Fin 4) (host : HostStores)
  | commandAdmit (p : Fin 4) (q : Nat)
  | epochWatchdogClose (p : Fin 4)
  | cutCapture (p : Fin 4)
  | epochRelease (p : Fin 4)
  | irqTimerExpiry (p : Fin 4) (q : Nat)
  | msixVectorUnmask (fn : Fn) (vector : Nat)
  | recover (f : FaultReport)
  | coreHang (core : Nat)
  | strikeLapse (phys : Nat)
  | stackFailure (stack : Fin 16)
  | patrolScrub (stack : Fin 16) (found : List ScrubFinding)
  | drainRollback (p : Fin 4)
  | stepRecordWrite (p : Fin 4)
  | partitionEnable (fn : Fn) (p : Fin 4)
  | partitionDisable (fn : Fn) (p : Fin 4)
  | partitionReset (fn : Fn) (p : Fin 4)
  | pfFunctionLevelReset
  | groupCreate (fn : Fn) (p : Fin 4) (g : Nat)
  | groupDestroy (fn : Fn) (p : Fin 4) (g : Nat)
  | queueEnable (fn : Fn) (p : Fin 4) (q : Nat)
  | queueDisable (fn : Fn) (p : Fin 4) (q : Nat)
  | queueResume (fn : Fn) (p : Fin 4) (q : Nat)
  | tlbInvalidate (fn : Fn) (p : Fin 4)
  | streamPriorityWrite (fn : Fn) (p : Fin 4) (value : W32)
  | streamShareWrite (fn : Fn) (p : Fin 4) (high : Bool) (value : W32)
  | assignCores (host : HostStores)
  | assignFrames (host : HostStores)
  | releaseFrames (host : HostStores)
  | setEndpoints (host : HostStores)
  | memoryEncryption (host : HostStores)
  | partialResetVelac (index : Nat)
  | partialResetSeamAdapter (index : Nat) (atB : Bool)
  | partialResetCore (index : Nat) (selfTestPassed : Bool)
  | fabTableDataHighWrite (fn : Fn) (value : W64)
  | fabTableCommit (fn : Fn) (value : W64)
  | planLoad (fn : Fn) (plan : Fin 16)
  | planClear (fn : Fn) (plan : Fin 16)
  | portQuotaWrite (fn : Fn) (port : Fin 32) (value : W32)
  | portEnableWrite (fn : Fn) (port : Fin 32) (value : W32)
  | windowTableReload (fn : Fn) (p : Fin 4) (value : W64)
  | telemetryClearMax (fn : Fn)
  | pegTrigger (fn : Fn) (halt : Bool) (fabric : Bool)
  | pegResume (fn : Fn) (fabric : Bool)
  | packageSnapshot (fn : Fn)
  | lifeExport (fn : Fn) (region : Nat)
  | calendarSet (fn : Fn) (value : W64)
  | powerModeRequest (fn : Fn) (value : W32)
  | memProtectRequest (fn : Fn) (value : W32)
  | counterSelectWrite (fn : Fn) (p : Fin 4) (index : Nat) (value : W32)
  | counterSelectApply (p : Fin 4)
  | obsModeWrite (fn : Fn) (p : Fin 4) (value : W32)
  | registerWrite (fn : Fn) (offset : Nat) (size : Nat) (value : W64)
  | bar2Read (fn : Fn) (offset : Nat) (length : Nat)
  | bar2Write (fn : Fn) (offset : Nat) (data : Bytes)
  | configRequest (fn : Fn) (req : CfgReq)
  | seamFlitReceive (seam : Fin 12) (dir : Dir) (flit : Flit)
  | seamAckTimer (seam : Fin 12) (dir : Dir)
  | seamAckReceive (seam : Fin 12) (dir : Dir) (seq : Nat)
  | seamNackReceive (seam : Fin 12) (dir : Dir) (seq : Nat)
  | seamRetryExhausted (seam : Fin 12) (dir : Dir)
  | controlWordReceive (seam : Fin 12) (dir : Dir) (word : BitVec 40)
  | seamRetraining (seam : Fin 12) (failing : List LaneResult)
  | laneMapProposal (seam : Fin 12)
  | laneMapCommit (seam : Fin 12)
  | backgroundLaneTestEnd (seam : Fin 12) (failing : List LaneResult)
  | linkFrameReceive (port : Fin 32) (frame : Frame)
  | linkAckTimer (port : Fin 32)
  | linkNackReceive (port : Fin 32) (seq : Nat)
  | linkDrop (port : Fin 32)
  | helloReceive (port : Fin 32) (hello : Hello)
  | portLost (port : Fin 32)
  | packetReceive (port : Fin 32) (pkt : Packet)
  | packetForward (port : Fin 32) (pkt : Packet)
  | circuitPacket (port : Fin 32) (pkt : Packet)
  | e2eAckTimer (p : Fin 4) (flow : Nat)
  | ackReceive (pkt : Packet)
  | ackTimeout (p : Fin 4) (flow : Nat)
  | fabricStall (port : Fin 32) (stream : Nat) (cls : Nat)
  | circuitSetup (port : Fin 32) (pkt : Packet)
  | keySlotSwitch (port : Fin 32) (tx : Bool)
  | timeSyncSend
  | timeSyncReceive (port : Fin 32) (payload : Bytes)
  | discoveryReceive (port : Fin 32) (payload : Bytes)
  | pegPacketReceive (port : Fin 32) (payload : Bytes)
  | periodicSnapshot (p : Fin 4)
  | traceStream (p : Fin 4)
  | pegCapture
  | pegWindowClose
  | powerModeChangeover (die : Fin 4)
  | thermalThrottleStep (die : Fin 4)
  | thermalSensorRead (index : Fin 25) (temp : Nat) (valid : Bool)
  | coolantSensorRead (inlet : Option Nat) (outlet : Option Nat)
  | brakeAssert
  | brakeRelease
  | vauxGood
  | vinMainLoss
  | coldBoot (found : BootFindings)
  | deviceReady
  | perstNAssert
  | timeBaseCompare (die : Fin 9) (difference : Int)
  | selfTestWindowExpiry (p : Fin 4)
  | backgroundWorkDone (index : Nat) (outcome : Nat)
  | wearSample
  | wearAccumulatorWrite
  | basketHeartbeatCheck (beat : Bool)
  | basketRollbackRaise
  | portTrained (port : Fin 32)
  | vauxLoss
  | managementCoreFault
  | mctpMessage (msg : MctpMsg)
  | basketAccess (req : BasketReq)
  | partitionResetDone (p : Fin 4)
deriving DecidableEq, Repr

end Sys2Proof
end

