-- ==== Sys2Proof/Decode.lean ====
section
/-! DEFINITION. The table of operations and events gives no bits to any of its rows (each row's "fields" is empty):
the 128-byte commands, packets and frames are read from memory or delivered by a link, and their layouts are read where
they are used. No word therefore spells a row. -/

namespace Sys2Proof

/-- The command a table word spells: none, for no row of spec/opcode_table.json has bits.
(Log: DESIGN CHOICE, safe, entry 3.) -/
def decodeTableWord (_nbits _w : Nat) : Option Instr := none

end Sys2Proof
end

