-- ==== Sys2Proof/Config.lean ====
section
/-! DEFINITION. What the manual leaves open as a value (the free values) and what an implementation fixes. A free
value is an opaque constant: nothing can evaluate it, so a statement holds whatever it is. Each takes the plain
counter `State.free` (or the operands the value belongs to), so two uses are not forced equal. -/

namespace Sys2Proof.Config

/-- A byte whose value the manual leaves open: local store no operation wrote (06 R181), and the bytes of an image
field whose count of cycles the model does not time (15 R425 to R432).
(Log: DESIGN CHOICE, safe, entry 6.) -/
opaque freeByte : Nat → Byte

/-- A 64-bit word the manual leaves open (a side-memory row never written, 07 R208; a cycle count).
(Log: DESIGN CHOICE, safe, entry 6.) -/
opaque freeWord : Nat → W64

/-- A choice between two behaviours that the manual allows (the cached or the edited translation, 08 R223; the
retained or the rewritten bytes, 09 R261; which of two unordered writers wins, 08 R225).
(Log: DESIGN CHOICE, safe, entry 6.) -/
opaque freeBool : Nat → Bool

/-- The contents of an anchored accumulator element after more contributions than R101 bounds (03 R101).
(Log: DESIGN CHOICE, safe, entry 24.) -/
opaque freeAnchored : Nat → BitVec 96

/-- The entry that an element of value zero takes in a codebook without a finite entry (05 R138), by the codebook.
(Log: DESIGN CHOICE, safe, entry 143.) -/
opaque freeEntry : Nat → Nat

/-- A configuration-space word of a capability whose contents the manual does not give (14 R394).
(Log: DESIGN CHOICE, safe, entry 96.) -/
opaque configSpace : Nat → W32

/-- A cryptographic output whose algorithm is fixed but whose key the device draws for itself (16 R468, 11 R331).
(Log: DESIGN CHOICE, safe, entry 70.) -/
opaque cryptoByte : Nat → Byte

/-- The SPDM 1.3 message that Selvage sends next in an exchange, none while it waits for the peer's: by its endpoint id, the port
and the messages exchanged, oldest first, each with whether it was sent (16 R468).
(Log: DESIGN CHOICE, unsafe, entry 71.) -/
opaque spdmNext : Nat → Nat → List (Bool × List Byte) → Option (List Byte)

/-- What a complete exchange has proved of a peer whose certificate chain reaches an Omilaore root: the version of its block 2
(16 R468).
(Log: DESIGN CHOICE, unsafe, entry 71.) -/
opaque spdmPeer : List (Bool × List Byte) → Option Nat

/-- The bytes of a receive window at another package, which its own partition sets (11 Table 11.10; 15 R440).
(Log: DEDUCED, unsafe, entry 112.) -/
opaque remoteWindow : Nat → Nat → Nat

/-- Where the bytes of a rank land in an ALL_TO_ALL's window at another rank: the sum of the receive counts that the
receiver's own descriptor lists for the positions below it (12 R349), by endpoint, window and position. -/
opaque receiveBase : Nat → Nat → Nat → Nat

/-- The body of a lifetime record whose layout the manual does not give (16 R471): a function of its kind and of what it
records.
(Log: DESIGN CHOICE, safe, entry 115.) -/
opaque recordBody : Nat → List Nat → Bytes

/-- The credits that a Seam's receiver advertises to a stream at link-up, which the manual does not give (10 R277), by
Seam, direction and stream.
(Log: DESIGN CHOICE, safe, entry 63.) -/
opaque seamCredits : Nat → Bool → Nat → Nat

/-- How many bits of a 40-bit control word are in error: the manual names a code that corrects one error and detects two
and does not give its matrix (10 R279).
(Log: DESIGN CHOICE, safe, entry 63.) -/
opaque codeErrors : Nat → Nat

/-- The 32 data bits, and above them the framing bit, that a 40-bit control word delivers once its code has corrected it: the
manual gives neither their places in the word nor the matrix (10 R279).
(Log: DESIGN CHOICE, safe, entry 63.) -/
opaque codeData : Nat → BitVec 33

/-- The redundant lanes that the HBM4 interface provides for a channel, which the manual does not number (10 R295).
(Log: DESIGN CHOICE, safe, entry 135.) -/
opaque redundantLanes : Nat

/-- A 32-bit word of the keys and salts that Selvage agrees with a partner's Selvage for a port (11 R331).
(Log: DESIGN CHOICE, safe, entry 70.) -/
opaque linkKey : Nat → W32

/-- The serial number of the package (16 Table 16.6).
(Log: DESIGN CHOICE, safe, entry 123.) -/
opaque serial : Nat

end Sys2Proof.Config
end

