-- ==== Sys2Proof/Machine/Sparse.lean ====
section
/-! DEFINITION. Sparse maps in one canonical form: keys strictly rising, and no entry equal to what an unlisted key
reads as. Device memory, host memory, sync counters and every other indexed state of the block are held so. -/

namespace Sys2Proof.Machine

variable {α : Type}

/-- The value at a key; `d` is what an unlisted key reads as. -/
def sget (d : α) : SMap α → Nat → α
  | [], _ => d
  | (k', v) :: r, k => if k' = k then v else sget d r k

/-- The map without key `k`. -/
def serase : SMap α → Nat → SMap α
  | [], _ => []
  | (k', v) :: r, k => if k' = k then serase r k else (k', v) :: serase r k

/-- The map with value `v` at key `k`, whatever `v` is. -/
def sinsert : SMap α → Nat → α → SMap α
  | [], k, v => [(k, v)]
  | (k', v') :: r, k, v =>
    if k' = k then (k, v) :: r else if k < k' then (k, v) :: (k', v') :: r else (k', v') :: sinsert r k v

/-- Write `v` at `k`, keeping the canonical form: writing the unlisted value removes the entry. -/
def sset [DecidableEq α] (d : α) (m : SMap α) (k : Nat) (v : α) : SMap α :=
  if v = d then serase m k else sinsert m k v

/-- Every key of `m` is above `b`, keys rise strictly and no entry is the unlisted value. -/
def swfFrom [DecidableEq α] (d : α) : Nat → SMap α → Bool
  | _, [] => true
  | b, (k, v) :: r => decide (b ≤ k) && decide (v ≠ d) && swfFrom d (k + 1) r

/-- The canonical form. -/
def swf [DecidableEq α] (d : α) (m : SMap α) : Bool := swfFrom d 0 m

/-- Bytes of a memory from an address upward. -/
def sread (m : SMap Byte) (a : Nat) : Nat → Bytes
  | 0 => []
  | n + 1 => sget 0 m a :: sread m (a + 1) n

/-- Store bytes from an address upward. -/
def swrite (m : SMap Byte) (a : Nat) : Bytes → SMap Byte
  | [] => m
  | b :: r => swrite (sset 0 m a b) (a + 1) r

/-- Store the pairs in order (host stores that precede a step). -/
def sstores (m : SMap Byte) : List (Nat × Byte) → SMap Byte
  | [] => m
  | (a, b) :: r => sstores (sset 0 m a b) r

end Sys2Proof.Machine
end

