-- ==== Sys2Proof/Machine/State.lean ====
section
/-! DEFINITION. The state of the block: every register, table, buffer, counter, mode and pin the manual gives the
package, and the queue of waiting commands. Plain data throughout; indexed state is a sparse map in canonical form. -/

namespace Sys2Proof.Machine

/-! ### Queues, commands and sweeps (02, 04, 05, 06, 07, 12) -/

/-- Status codes (14 Table 14.18). -/
inductive Status where
  | ok | cancelled | rolledBack | deferred | notReady | invalid | isolation | unrecoverable
deriving DecidableEq, Repr

/-- Queue states (02 R76, 14 Table 14.15). -/
inductive QState where
  | disabled | enabled | stopped | draining
deriving DecidableEq, Repr

/-- Partition states (14 Table 14.12). -/
inductive PState where
  | disabled | enabled | draining | resetting
deriving DecidableEq, Repr

/-- Where an admitted command stands: not started; started and executing; its work done and its finish to come;
finished, its completion record waiting for a release (02 R37, R73). -/
inductive Phase where
  | waiting | running | executed | finished
deriving DecidableEq, Repr

/-- One occurrence selected for an exception record (04 Table 4.12, R130): its key and what the record holds. -/
structure Exc where
  thread : Nat
  op : Nat
  row : Nat
  col : Nat
  chunk : Nat
  term : Nat
  kind : Nat
  tick : Nat
  fmtA : Nat
  fmtB : Nat
  fmtOut : Nat
  valA : W64
  valB : W64
deriving DecidableEq, Repr

/-- A dyadic rational m × 2^e: the type exact of the pseudocode where every value is a finite binary number. -/
structure Dyadic where
  m : Int
  e : Int
deriving DecidableEq, Repr

/-- A scale controller snapshot of one named entry (05 R151): its number and address, its bytes as the command starts from them, the
exponents of its scale and of the largest corrected scale (every scale is a power of two), whether it is cold, and
what the command has gathered. -/
structure Snap where
  entry : Nat
  va : Nat
  bytes : Bytes
  scale : Int
  cold : Bool
  amax : Dyadic
  raised : Int
  corr : Nat
  endOfUse : Bool
  format : Nat
  emax : Dyadic
deriving DecidableEq, Repr

/-- One 2 MiB page translated at a command's acceptance (08 R222): a device page at a physical address, or a host
page at a bus address. -/
structure Xlat where
  page : Nat
  host : Bool
  base : Nat
  writable : Bool
deriving DecidableEq, Repr

/-- Accumulator modes (06 Table 6.11): FP32, FP64, INT32, anchored fixed point read out as FP32 or FP64. -/
inductive AccMode where
  | fp32 | fp64 | int32 | anchored32 | anchored64
deriving DecidableEq, Repr

/-- An accumulator tile: its first unit, mode, anchor ceiling, its 64 × 64 element codes (unlisted: 0), the counts
of contributions an anchored element has had, and the chunks combined so far (03 R92 counts them from the start of
the accumulation). -/
structure AccTile where
  unit : Nat
  mode : AccMode
  ceiling : Nat
  elems : SMap Nat
  contribs : SMap Nat
deriving DecidableEq, Repr

/-- A tile register (07 R189): number, whether it holds FP64 as the pair of registers, and the elements written.
(Log: DESIGN CHOICE, safe, entry 26.) -/
structure TileReg where
  num : Nat
  wide : Bool
  elems : List (Nat × W64)
deriving DecidableEq, Repr

/-- The first stationary block of an operand, loaded by ARRAY_LOAD_B into the array's idle buffer (06 R178, R170): the slot
that names the operand, its format and orientation, its codebook as read when the load started, and the local tile that
holds the block as loaded: row slots, block scales and the patches in force. -/
structure Stationary where
  slot : Nat
  fmt : Nat
  trans : Bool
  book : Bytes
  rows : List Bytes
  scales : Bytes
  patches : List (Nat × Nat)
deriving DecidableEq, Repr

/-- What a resident thread is doing between operations (02 R53, R54; 07 R189: waiting for its register set). -/
inductive ThreadWait where
  | ready | waiting | arrived | registers
deriving DecidableEq, Repr

/-- A resident tile thread (02 Tile programs): its linear index, its logical core, the serial number of its
placement (02 R51, 07 R189: the longest-resident thread has the lowest), the index of its next operation,
its local store (an absent byte is one nothing wrote), its context on the core (15 Table 15.8), accumulator tiles, tile registers, and its hold on the
register set and on a preloaded stationary block (06 R179, 07 R189); for each byte that a COPY_MESH wrote into its
allocation, the writing thread + 1 (13 R366); whether a capture marked it unrebuildable; the writes that its stalled
operation has still to make, and how many rows a stalled row operation has done (13 R364). -/
structure Thread where
  t : Nat
  core : Nat
  context : Nat
  since : Nat
  op : Nat
  wait : ThreadWait
  ls : List (Nat × Byte)
  acc : List AccTile
  regs : List TileReg
  holdsRegs : Bool
  preload : Option Stationary
  carry : SMap Nat
  unreb : Bool
  events : SMap Nat
  owed : List (Nat × Bytes)
  done : Nat
deriving DecidableEq, Repr

/-- What a SWEEP fixed at its acceptance and how far it has come (02 R48, R55, R66, R68; 04 R125): its program, argument
slots and list of cores, its min/max mode and whether a start has fixed it, the threads placed, resident and retired, the core + 1 of each thread, and
the recompute command it is co-located with. -/
structure Sweep where
  prog : Bytes
  slots : List (Nat × Bytes)
  coreList : List Nat
  compat : Bool
  modeFixed : Bool
  placed : Nat
  threads : List Thread
  retired : List Nat
  coreOf : SMap Nat
  coloc : Option Nat
deriving DecidableEq, Repr

/-- The progress of a COLLECTIVE (12 R341 to R352): the tables read at its acceptance (endpoint ids, counts, and
receive counts or move list), its own contribution encoded with error feedback, whether it runs on circuits, whether
its opening part is done, the regions of its layout whose arrivals it has taken, and the tick its wait began. -/
structure Coll where
  ranks : List Nat
  counts : List Nat
  aux : Bytes
  enc : Bytes
  circuits : Bool
  opened : Bool
  regionsDone : List Nat
  startTick : Nat
deriving DecidableEq, Repr

/-- A command of a queue from its admission until its completion record is written (02 R73, 14 R411): `kept` holds
the tables it read once, at its acceptance or start, for itself and every replay (02 R39); `refused` that it was refused
at its checks or its start; `arrived` that it has come to
the head of its queue, and `coloc` the recompute command it is co-located with and the core + 1 that ran each of its
threads (02 R68).
(Log: DEDUCED, unsafe, entry 41.) -/
structure Entry where
  n : Nat
  cmd : Bytes
  phase : Phase
  accepted : Bool
  refused : Bool
  status : Status
  startTick : Nat
  endTick : Nat
  epoch : Nat
  invalid : Nat
  overflow : Nat
  corr : Nat
  sat : Nat
  excs : List Exc
  queueStopped : Bool
  signalHeld : Bool
  /-- RESUME has come since this command stopped its queue: its signal is applied, not held (02 R77). -/
  resumed : Bool
  replayed : Bool
  afterCut : Bool
  coldScale : Bool
  colocLost : Bool
  counterSat : Bool
  excTruncated : Bool
  threads : Nat
  detail : W32
  xlats : List Xlat
  reads : List (Nat × Nat)
  snaps : List Snap
  kept : Bytes
  arrived : Bool
  coloc : Option (Nat × SMap Nat)
  sweep : Option Sweep
  coll : Option Coll
  unrebuildable : Bool
  /-- A failed stack has ended the command (13 R376): no replay runs it again. -/
  lost : Bool
  /-- What the command's stalled engine has still to write (13 R364), and whether its rule makes each write in place. -/
  owed : List (Bool × Nat × Bytes)
deriving DecidableEq, Repr

/-- A queue: its registers (14 Table 14.15), the doorbell counts last read (14 R411), the drain limit (14 R420),
the commands whose signals are held (02 R77), the
interrupt state of its completion ring (14 R417), whether the last command admitted is a recompute sweep (02 R68)
and its commands in submission order. -/
structure Queue where
  sqBase : W64
  cqBase : W64
  cfg : W32
  irq : W32
  state : QState
  doorbellError : Bool
  /-- A doorbell word in error stopped the queue: RESUME reads it again (14 R413). -/
  reread : Bool
  enableRefused : Bool
  rolledBack : Bool
  head : W32
  tail : W32
  sqTail : W32
  cqHead : W32
  spaceHeld : Bool
  held : List (Nat × Bytes)
  drainDue : Option Nat
  unsignalled : Nat
  irqDue : Option Nat
  prevRecompute : Bool
  entries : List Entry
deriving DecidableEq, Repr

/-- A queue at reset: every register field 0 (14 Table 14.15).
(Log: DESIGN CHOICE, unsafe, entry 20.) -/
def Queue.reset : Queue :=
  { sqBase := 0, cqBase := 0, cfg := 0, irq := 0, state := .disabled, doorbellError := false, reread := false, enableRefused := false,
    rolledBack := false, head := 0, tail := 0, sqTail := 0, cqHead := 0, spaceHeld := false, held := [],
    drainDue := none, unsignalled := 0, irqDue := none, prevRecompute := false,
    entries := [] }

/-- Bank states of the row-engine-owning group (02 R69): FREE, or HELD for a micro-batch. -/
inductive Bank where
  | free
  | held (m : Nat)
deriving DecidableEq, Repr

/-- A queue group (02 R33, R69, R72; 14 Table 14.14): the registers, the attributes fixed at CREATE, the bank states
and the class S phase (true: phase B). -/
structure Group where
  seedReg : W64
  cfgReg : W32
  created : Bool
  error : BitVec 4
  seed : W64
  overlapped : Bool
  owner : Bool
  bankZero : Bank
  bankOne : Bank
  phaseB : Bool
deriving DecidableEq, Repr

/-- A group at reset: WEIGHT 1, every other field 0 (14 Table 14.14).
(Log: DESIGN CHOICE, unsafe, entry 20.) -/
def Group.reset : Group :=
  { seedReg := 0, cfgReg := 4, created := false, error := 0, seed := 0, overlapped := false, owner := false,
    bankZero := .free, bankOne := .free, phaseB := false }

/-! ### Epochs and replay (13) -/

/-- The saved contents of a 64 KiB block of device memory from before its first in-place write (13 R362): its
physical block number, its bytes and poisoned sectors, the epoch of the write, and the threads that R363 keeps it for, each
with the epoch in which it retired. -/
structure Shadow where
  block : Nat
  bytes : List (Nat × Byte)
  poison : List Nat
  epoch : Nat
  kept : List (Tid × Option Nat)
deriving DecidableEq, Repr

/-- An engine stalled at an in-place write for want of a free shadow block (13 R364). -/
inductive Stall where
  | thread (t : Tid)
  | command (c : Cid)
deriving DecidableEq, Repr

/-- A cut (13 R358): the number of the epoch that opens at it and the on-die state and command records captured; the
send half of the flow table as the device addresses it covers and its bytes; the positions of the exception ring and of each
queue's completion ring, which no restore needs, since records leave only at a release. -/
structure Cut where
  epoch : Nat
  counters : SMap W32
  groups : SMap Group
  queues : List (Nat × List Entry)
  plans : SMap Nat
  sendRanges : List (Nat × Nat)
  sendEntries : List (Nat × Byte)
  side : List (Nat × W64)
  press : List (Nat × Cid)
  stalls : List Stall
  excWritten : Nat
  tails : SMap W32
deriving DecidableEq, Repr

/-- A closed epoch not yet released (13 R355, R359, R360). -/
structure Closed where
  epoch : Nat
  cut : Cut
  requested : Nat
deriving DecidableEq, Repr

/-- A packet sent on a numbered flow and not yet acknowledged (11 R310, R315): its flow (8 × endpoint + VC, or 2^20 +
circuit id), the packet, the command it belongs to (none: the streamer's or a remote signal), its epoch (0 when it
belongs to none) and the tick its acknowledgement is due. -/
structure Send where
  flow : Nat
  seq : Nat
  pkt : Packet
  cmd : Option Cid
  epoch : Nat
  due : Nat
deriving DecidableEq, Repr

/-- A receive window read at RELOAD (11 R314): the entry's bytes and its translated pages. -/
structure Window where
  entry : Bytes
  xlats : List Xlat
deriving DecidableEq, Repr

/-- A write held back until its epoch is released: to host memory (13 R367), or the step record (13 R389). -/
structure Staged where
  epoch : Nat
  device : Bool
  addr : Nat
  bytes : Bytes
deriving DecidableEq, Repr

/-- A scheduled counter selection (15 R430): register index (16 is OBS_FILTER), value, due tick. -/
structure SelDue where
  index : Nat
  value : W32
  due : Nat
deriving DecidableEq, Repr

/-! ### A partition -/

/-- A partition: its registers (14 Table 14.5) and everything the device keeps for it. -/
structure Part where
  state : PState
  enableRefused : Bool
  rolledBack : Bool
  streamPriority : W32
  streamShare : W32
  streamShareHigh : W32
  numericDefault : W32
  epochCfg : W32
  pageTableBase : W64
  tlbDone : Bool
  stepRecordBase : W64
  stepRecordCtrl : W64
  streamTable : W64
  scTableBase : W64
  scTableEntries : W32
  scCfg : W32
  flowCfg : W64
  windowTable : W64
  doorbellBase : W64
  summaryBase : W64
  statusLineBase : W64
  pollCfg : W32
  bar2Base : W64
  excRingBase : W64
  excRingCfg : W32
  healthRingBase : W64
  healthRingCfg : W32
  obsCfg : W32
  obsMode : Nat
  obsTraceBase : W64
  obsSnapshotBase : W64
  obsSnapshotCfg : W32
  obsStreamAddr : W64
  obsStreamCfg : W32
  obsStreamHeadAddr : W64
  obsPegBase : W64
  obsFilter : W32
  obsSel : SMap W32
  obsFilterInForce : W32
  obsSelInForce : SMap W32
  selDue : List SelDue
  traceWritten : Nat
  traceDrops : Nat
  traceStreamed : Nat
  snapshotCount : Nat
  snapshotDue : Option Nat
  snapshotBusy : Nat
  -- resources that Selvage assigns (14 R400)
  cores : BitVec 1280
  endpoint : Option Nat
  sendPerm : BitVec 16384
  recvPerm : BitVec 16384
  memKey : Option Nat
  -- sync counters, queues, dispatcher (02)
  counters : SMap W32
  groups : SMap Group
  queues : SMap Queue
  lastGroup : SMap Nat
  drainDue : Option Nat
  -- polling (14 R411, R414)
  pollInterval : Nat
  pollAt : Nat
  busyUntil : Nat
  -- rings (14 R416)
  excWritten : Nat
  excDrops : Nat
  excConsumed : Nat
  excUnsignalled : Nat
  healthWritten : Nat
  healthDrops : Nat
  healthConsumed : Nat
  -- epochs (13)
  openEpoch : Nat
  openedAt : Nat
  released : Nat
  closed : List Closed
  closeRequest : Option Nat
  capShort : Bool
  base : Cut
  faultsFromCut : Nat
  /-- The physical cores whose fault is being replayed (13 R378), and how far each command had come when it was: by queue and
  admission count. -/
  faultedCores : List Nat
  replayMarks : List (Nat × Nat × Nat)
  replays : Nat
  shadows : List Shadow
  readMarks : List (Nat × Nat × Nat × Nat)
  /-- Device bytes that commands wrote since the base cut, as address, length and epoch (13 R374, row 7). -/
  wrote : List (Nat × Nat × Nat)
  /-- Remote signals received since the base cut, as epoch, counter and value (02 R61, R75). -/
  remoteSets : List (Nat × Nat × W32)
  staged : List Staged
  stalls : List Stall
  -- translation and fabric (08, 11)
  tlb : List Xlat
  sends : List Send
  timedOut : List Nat
  windows : List Window
  arrivals : SMap (List (Nat × Nat))
  ackDue : SMap (Nat × Nat)
deriving DecidableEq, Repr

/-- The first cut of a partition: nothing in progress, epoch 1 opens (13 R355).
(Log: DESIGN CHOICE, unsafe, entry 20.) -/
def Cut.first : Cut :=
  { epoch := 1, counters := [], groups := [], queues := [], plans := [], sendRanges := [], sendEntries := [], side := [],
    press := [], stalls := [], excWritten := 0, tails := [] }

/-- A partition after cold reset (14 R408 and the reset column of each register's table).
(Log: DESIGN CHOICE, unsafe, entry 20.) -/
def Part.reset : Part :=
  { state := .disabled, enableRefused := false, rolledBack := false, streamPriority := 0xE1,
    streamShare := 0x42000000, streamShareHigh := 0x210, numericDefault := 0, epochCfg := 0, pageTableBase := 0,
    tlbDone := true, stepRecordBase := 0, stepRecordCtrl := 0, streamTable := 0, scTableBase := 0,
    scTableEntries := 0, scCfg := 2, flowCfg := 0, windowTable := 0, doorbellBase := 0, summaryBase := 0,
    statusLineBase := 0, pollCfg := 0x320A, bar2Base := 0, excRingBase := 0, excRingCfg := 0, healthRingBase := 0,
    healthRingCfg := 0, obsCfg := 0x60, obsMode := 0, obsTraceBase := 0, obsSnapshotBase := 0, obsSnapshotCfg := 0,
    obsStreamAddr := 0, obsStreamCfg := 0, obsStreamHeadAddr := 0, obsPegBase := 0, obsFilter := 0, obsSel := [],
    obsFilterInForce := 0, obsSelInForce := [], selDue := [], traceWritten := 0, traceDrops := 0,
    traceStreamed := 0, snapshotCount := 0, snapshotDue := none, snapshotBusy := 0, cores := 0,
    endpoint := none, sendPerm := 0, recvPerm := 0, memKey := none, counters := [], groups := [], queues := [],
    lastGroup := [], drainDue := none, pollInterval := 50000, pollAt := 0, busyUntil := 0, excWritten := 0,
    excDrops := 0, excConsumed := 0, excUnsignalled := 0, healthWritten := 0, healthDrops := 0, healthConsumed := 0,
    openEpoch := 1, openedAt := 0, released := 0, closed := [], closeRequest := none, capShort := false,
    base := Cut.first, faultsFromCut := 0, faultedCores := [], replayMarks := [], replays := 0, shadows := [], readMarks := [], wrote := [],
    remoteSets := [], staged := [],
    stalls := [], tlb := [], sends := [], timedOut := [], windows := [], arrivals := [], ackDue := [] }

/-! ### Seams (10) -/

/-- A module entry (10 Table 10.8): the four lowest bad data lanes, the bad lanes among clock, valid and track (68 to
70) and their redundant copies (71 to 73), and DISABLED. -/
structure ModEntry where
  bad : List Nat
  aux : List Nat
  disabled : Bool
deriving DecidableEq, Repr

/-- A module entry with no bad lane. -/
def ModEntry.fresh : ModEntry := { bad := [], aux := [], disabled := false }

/-- A lane map (10 Table 10.7): its generation, the entries of each direction's modules and the good control lanes. -/
structure LaneMap where
  generation : W16
  ab : SMap ModEntry
  ba : SMap ModEntry
  ctrlAB : BitVec 4
  ctrlBA : BitVec 4
deriving DecidableEq, Repr

/-- A flit in a retry buffer (10 R276): its sequence number in its direction, its contents once a copy has arrived good
(before that only its transmitter knows them), and how often it has been resent. -/
structure RetryFlit where
  seq : Nat
  flit : Option Flit
  resends : Nat
deriving DecidableEq, Repr

/-- One direction of a Seam between its transmitter and receiver (10 R275, R276, R277): sequence numbers, the retry
buffer in order, the tick acknowledgements last progressed, the receiver's expected number, the flits since its last
acknowledgement and the tick its timer runs out, whether it has asked for a resend that has not begun, how many resent flits
are on their way, the stream credits
the transmitter holds and the payloads delivered, newest first; the stripe, newest first: the flit number from which it
holds and its modules in increasing number (R288); the bad data lanes that each module in use leaves out (R281, R288); and
the active control lanes with the words they have delivered, newest first (R279). -/
structure SeamDir where
  txNext : Nat
  retry : List RetryFlit
  progressAt : Nat
  rxExpected : Nat
  sinceAck : Nat
  ackDue : Option Nat
  nacked : Bool
  resending : Nat
  credits : SMap Nat
  delivered : List (Nat × Bytes)
  stripes : List (Nat × List Nat)
  lanes : SMap (List Nat)
  active : List Nat
  words : List (BitVec 33)
deriving DecidableEq, Repr

/-- A Seam (10 Table 10.11): the working map at each end, the pending proposal at each end, the map committed in
non-volatile memory, its status bits, and its two directions. -/
structure Seam where
  mapA : LaneMap
  mapB : LaneMap
  pendingA : Option LaneMap
  pendingB : Option LaneMap
  committed : LaneMap
  linkUp : Bool
  retraining : Bool
  disputed : List (Dir × Nat)
  down : Bool
  ab : SeamDir
  ba : SeamDir
deriving DecidableEq, Repr

/-! ### Fabric (11) -/

/-- States of a fabric port (11 Table 11.12). -/
inductive PortState where
  | disabled | training | up | down | lost | mismatch
deriving DecidableEq, Repr

/-- A key slot of one direction of an encrypted port (11 R331): whether Selvage has installed a key, the key, the salt and the
packet counter. -/
structure KeySlot where
  installed : Bool
  key : BitVec 256
  salt : W32
  counter : Nat
deriving DecidableEq, Repr

/-- A slot without a key. -/
def KeySlot.empty : KeySlot := { installed := false, key := 0, salt := 0, counter := 0 }

/-- What has begun to leave a stream and class of a port: the circuit of the packet in progress (0 outside the circuit
stream) and the bytes still to go. -/
structure Sending where
  circuit : Nat
  bytes : Bytes
deriving DecidableEq, Repr

/-- Nothing begun. -/
def Sending.none : Sending := { circuit := 0, bytes := [] }

/-- A fabric port and its link (11 R299 to R306, R331, R336; Tables 11.12, 11.14, 11.16). What it sends: the packets that
have not begun, in order (`egress`); the bytes of those that have, by stream and class (`sending`), with the tick since which
the next frame of each waits (`waitSince`); what the last 63 frame slots were given to, newest first (`slots`), and the
stream of the last one dealt in turn (`turn`); the acknowledgement, the resend request and the credits that go out with the
next frames. What it receives: the bytes of each stream and class not yet taken as packets, the frames they stand in (bytes
left, and whether a shared credit brought them), and the credits its partner can hold. -/
structure Port where
  ctrl : W32
  quota : W32
  state : PortState
  held : Bool
  partnerPort : Nat
  encrypted : Bool
  partnerEndpoint : Nat
  trained : Bool
  encryptTrained : Bool
  medium : Nat
  txNext : W16
  retry : List (Frame × Nat)
  progressAt : Nat
  retryDepth : Nat
  rxExpected : W16
  sinceAck : Nat
  ackDue : Option Nat
  nacked : Bool
  ackOut : Bool
  nackOut : Bool
  creditsOut : SMap Nat
  credits : SMap Nat
  rxStreams : SMap Bytes
  rxFrames : SMap (List (Nat × Bool))
  rxOpen : SMap Nat
  drops : List Nat
  lostDue : Option Nat
  txSlot : Bool
  rxSlot : Bool
  txKeys : Vector KeySlot 2
  rxKeys : Vector KeySlot 2
  controlQueue : List Packet
  egress : List Packet
  sending : SMap Sending
  waitSince : SMap Nat
  slots : List Nat
  turn : Nat
  /-- By stream, 1 + the tick at which its queue's depth last changed (R336). -/
  depthSince : SMap Nat
  /-- The stream and class that the last fabric-stall event named (R322). -/
  stall : Option (Nat × Nat)
  keyed : Bool
  /-- The SPDM messages exchanged since the port came UP, oldest first, each with whether it was sent (16 R468). -/
  spdm : List (Bool × Bytes)
  telemetry : SMap Nat
  syncEcho : Option (Nat × Nat × Bytes)
deriving DecidableEq, Repr

/-- States of a circuit plan (11 Table 11.17). -/
inductive PlanState where
  | empty | ready | active | fault
deriving DecidableEq, Repr

/-- A packet held at its source (11 R310, R321, R326). One of a flow has no sequence number yet: with it its partition, the
command it belongs to, its epoch and its flow. -/
structure Held where
  pkt : Packet
  send : Option (Fin 4 × Option Cid × Nat × Nat)
deriving DecidableEq, Repr

/-- Package registers and tables of the fabric (11 Tables 11.15 to 11.24): routing and circuit entries by index, the
package's endpoint id (16 Table 16.6; 0x3FFF is none), the packets held at their source for want of a port (R321,
R326) and those on their way to an endpoint of the package itself. -/
structure Fab where
  tableIndex : W32
  dataLow : W64
  dataHigh : W64
  routes : SMap W64
  circuits : SMap (BitVec 128)
  planOwner : W32
  planState : SMap Nat
  planDetail : W32
  cfg : W32
  telemetryCtrl : W32
  endpoint : Nat
  held : List Held
  loop : List Packet
deriving DecidableEq, Repr

/-! ### Observation, boot, power and lifetime (15, 16, 17) -/

/-- A span of time in which the counters that the model does not time have risen (15 R426, R428): by free amounts, `free` names
where; how many ticks it had; the clocks that stood still all through it (compute dies, stacks, Seams, ports, logical cores);
the programmable counters that were counting such an event, with the logical cores they count on; the streams of ports, as
16 × port + stream, that had a frame queued some time in it; and the ports that were DISABLED or LOST.
(Log: DESIGN CHOICE, safe, entry 107.) -/
structure Drift where
  free : Nat
  ticks : Nat
  dies : BitVec 4
  failed : BitVec 16
  seams : BitVec 12
  ports : BitVec 32
  cores : List Nat
  progs : List (Nat × BitVec 1280)
  queued : List Nat
  off : BitVec 32
deriving DecidableEq, Repr

/-- A Peg (15 R441 to R448): the id and origin of the current or last Peg and the package's own last id, whether its
window is open, the tick it captures at and the tick it carries, when the window closes, its mode and scope, the
partitions an issuing command halts and those halted, each with the T carried, origin and id of the Peg that halted it; the
command that caused it and its six tags; whether it captured, its source and
flags, the fabric Pegs accepted before, the package counters as captured, with the spans of those that drift, and what each
port counted in the window, and the packets with POST_CUT that arrived outside it (tick, port, bytes). -/
structure Peg where
  id : W16
  origin : Nat
  lastId : W16
  open_ : Bool
  t : Nat
  carried : Nat
  closeAt : Nat
  halt : Bool
  fabric : Bool
  issuer : BitVec 4
  halted : BitVec 4
  haltedBy : SMap (Nat × Nat × Nat)
  cause : Option Cid
  tags : Bytes
  captured : Bool
  source : BitVec 4
  late : Bool
  ignored : Bool
  accepted : List (Nat × Nat)
  image : SMap Nat
  drifts : List Drift
  inFlight : SMap Nat
  flagged : List (Nat × Nat × Nat)
deriving DecidableEq, Repr

/-- Package observation registers (15 Tables 15.13, 15.18 to 15.21): every counter of Table 15.2 that the model counts
(by class × 2^20 + unit × 64 + place in its section), the spans in which the others have risen, newest first, and the tick
up to which they reach; each stack's
observation bucket (thousandths of a token spent, and when that was so), the snapshots and images written, and the Peg. -/
structure ObsPkg where
  cfg : W32
  pegMatch : W32
  pegMatchValue : W64
  imageAddr : W64
  count : SMap Nat
  drifts : List Drift
  driftAt : Nat
  buckets : SMap (Nat × Nat)
  written : Nat
  peg : Peg
deriving DecidableEq, Repr

/-- Power and thermal state (17 Tables 17.5 to 17.9): requested and effective mode (0 Linen, 1 Cotton, 2 Silk), the
clock each compute die runs at in MHz, the clock of the mode it applied last, whether throttling has lowered it and when
its next step is due; the partitions that have closed an epoch since the mode changed, by die; the forcing conditions
with the ticks since which their conditions hold; the Velac and Colxis dies that force Silk, with the tick + 1 since
which each has been cool; the reading each stack was calibrated at; the sensors; what shut the package down (a sensor
index, 25 the coolant rise, 26 the missing readings); the pins and supplies, the balls as the board ties them, whether the test
access port is out of reset, and the SMBus and I3C static address sampled from the straps (17 Table 17.15). -/
structure Power where
  request : BitVec 2
  effective : BitVec 2
  clocks : Vector Nat 4
  applied : Vector Nat 4
  throttled : BitVec 4
  throttleAt : Vector Nat 4
  closedSince : BitVec 4
  forcedBrake : Bool
  forcedFlow : Bool
  forcedSensor : Bool
  hotDies : BitVec 9
  coolAt : SMap Nat
  diffSince : Option Nat
  flowOkSince : Option Nat
  inletSince : Option Nat
  bothSince : Option Nat
  forcedFlowAt : Nat
  coolant : W32
  flow : W32
  coolantCfg : W32
  junction : Vector W32 25
  calibratedAt : SMap Nat
  trip : Option Nat
  brakeN : Bool
  thermtripN : Bool
  vaux : Bool
  vinMain : Bool
  perstN : Bool
  balls : Balls
  trstN : Bool
  address : Nat
deriving DecidableEq, Repr

/-- A background self-test or calibration (16 R462 to R464), or the partial reset of a core (target 4; 14 R424): the command (none: Basket's own), its COMMAND_ID, target
and index, the physical core, whether it has started, the tick of the last epoch boundary of the partition that it can
use, to start or to end, when its window ends, when it started, and where its result record goes. -/
structure Background where
  cid : Option Cid
  cmdId : Nat
  target : Nat
  index : Nat
  phys : Nat
  started : Bool
  boundaryAt : Option Nat
  due : Nat
  start : Nat
  result : Nat
  xlats : List Xlat
deriving DecidableEq, Repr

/-- A repair of the die inventory (10 R296): the Seam (or 16 + k: stack Hk), the direction (0 A→B, 1 B→A; 0 for a stack), the
module (31: the control lanes; a stack's channel) and the physical lane or wire. -/
structure Repair where
  unit : Nat
  dir : Nat
  module : Nat
  lane : Nat
deriving DecidableEq, Repr

/-- Boot, firmware and lifetime state (16 Tables 16.5, 16.12, 16.16 to 16.22): the phase; the slewing still to be done and
the tick from which the next count may be slewed, of the time base and of each die's copy of it, with how far it is off; whether the one forward step of fabric time is still open; the
time masters; the calendar; the export registers; whether the
Selvage patch was rejected; the firmware slots (version + 1 of a signed image, 0 for none); the
accumulators as they stand and as region 0 holds them (die × 64 + bin, 60 the thermal cycles; 4096 the seconds with
VIN_MAIN good), the tracking of thermal cycles; and what non-volatile memory holds: records and port media; and the die inventory's repairs since the boot. -/
structure Life where
  bootPhase : BitVec 8
  deviceReady : Bool
  bootAt : Nat
  /-- What the tests of the boot in progress find (16 Table 16.4). -/
  found : Option BootFindings
  mayStep : Bool
  slew : Int
  slewAt : Nat
  dieOffsets : Vector Int 9
  dieSlewAt : Vector Nat 9
  timeCfg : W32
  locked : Bool
  parentPort : Nat
  offset : Int
  offsets : List Int
  distance : Nat
  master : Nat
  calendarAt : Nat
  calendarBase : Nat
  calendarKnown : Bool
  exportAddr : W64
  exportRegion : BitVec 3
  exportResult : Status
  /-- BUSY of LIFE_EXPORT_CTRL: the region and the bus address of the copy in progress. -/
  exportBusy : Option (Nat × Nat)
  patchVersion : BitVec 8
  patchRejected : Bool
  basketSlot : Bool
  basketRestarts : Nat
  basketMisses : Nat
  basketStartedAt : Nat
  /-- The tick by which a restart of Basket is over (16 R467). -/
  basketUpAt : Nat
  firewallBlocks : Nat
  rollbackCounter : Nat
  slotVersion : List Nat
  /-- The slot of an image written since Basket last started (16 R467). -/
  newSlot : Option Nat
  /-- The management messages that wait while Basket restarts (16 R467), oldest first. -/
  waiting : List MgmtMsg
  /-- The least version of a peer's Selvage patch, in non-volatile memory (16 R468, Table 16.12 region 5). -/
  minPeer : Nat
  wearSaved : SMap Nat
  wearNow : SMap Nat
  cycles : SMap Nat
  records : List (Nat × Bytes)
  portMedium : SMap Nat
  inventory : List Repair
  /-- The authentication failures that Selvage has been told of (11 R332): port and tick, newest first. -/
  authNotices : List (Nat × Nat)
deriving DecidableEq, Repr

/-- Host-interface package registers (14 Tables 14.6, 14.8 to 14.10, 14.22) and PCIe state. -/
structure HostIf where
  pfBar2Select : W32
  partialReset : W32
  partialResult : Status
  /-- BUSY of HI_PARTIAL_RESET: TARGET, END and INDEX of the reset in progress, as the register packs them. -/
  partialBusy : Option Nat
  selvageAddr : W64
  /-- BUSY of HI_SELVAGE_REQUEST_CTRL: the bus address of the record being handled. -/
  selvageBusy : Option Nat
  selvageResult : Status
  selvageDetail : W16
  pkgHealthBase : W64
  pkgHealthCfg : W32
  pkgStatusLine : W64
  pkgHealthHead : W64
  pkgHealthWritten : Nat
  pkgHealthDrops : Nat
  pkgHealthConsumed : Nat
  vfEnable : Bool
  numVfs : Nat
  linkUp : Bool
  msix : SMap W32
  msixPending : SMap Nat
  /-- MSI-X Enable (bit 0) and Function Mask (bit 1) of a function. -/
  msixControl : SMap Nat
  /-- The codes of Max Payload Size, and × 8 of Max Read Request Size, of a function. -/
  devControl : SMap Nat
  /-- log₂ of the size of BAR2, of the PF and of each VF. -/
  pfBar : Nat
  vfBar : Nat
  latch : SMap W32
deriving DecidableEq, Repr

/-- What the block has put out, newest first: packets as they begin to leave a port, the
frames that carry them, with acknowledgements and credits in their headers, acknowledgements and flits of Seams, messages and
errors to the host, completions of host reads, and what Basket reads.
(Log: DESIGN CHOICE, safe, entry 7; DESIGN CHOICE, unsafe, entry 125.) -/
inductive Out where
  | packet (port : Nat) (pkt : Packet)
  | frame (port : Nat) (f : Frame)
  | hello (port : Nat) (h : Hello)
  | seamFlit (seam : Nat) (dir : Dir) (module : Nat) (seq : Nat) (f : Option Flit)
  | seamAck (seam : Nat) (dir : Dir) (seq : Nat)
  | seamNack (seam : Nat) (dir : Dir) (seq : Nat)
  | mapProposal (seam : Nat) (map : Bytes)
  | msix (fn : Fn) (vector : Nat) (addr : W64) (data : W32)
  | aer (fn : Fn) (p : Nat)
  | readData (fn : Fn) (data : Bytes)
  | completerAbort (fn : Fn)
  | configReply (data : W32)
  | configRetry
  | measurement (block : Nat) (data : Bytes)
  | management (payload : Bytes)
  | basketData (v : W64)
deriving DecidableEq, Repr

/-- Device memory (08): bytes by physical address, poisoned 64-byte sectors, frame owners (partition + 1, by
stack × 65,536 + frame), failed stacks, repair rows used and corrected-error passes per row, protection modes, the
free count each stack's Press input queue has and the commands in it. -/
structure Mem where
  bytes : SMap Byte
  poison : List Nat
  owner : SMap Nat
  failed : BitVec 16
  repairUsed : SMap Nat
  corrPasses : SMap Nat
  strongActive : Bool
  strongRequest : Bool
  pressQueue : List (Nat × Cid)
  doubleRefresh : BitVec 16
deriving DecidableEq, Repr

/-- A retained copy (09 R259): the recompute command and thread that wrote it, its core, shape record, HBM range and
bytes. -/
structure Retained where
  cid : Cid
  t : Nat
  core : Nat
  shape : Bytes
  range : List (Int × Nat)
  bytes : Bytes
deriving DecidableEq, Repr

/-- The cores (02 R43, 13 R378 to R380, 07 R207): where a logical id lies if not on its first physical core, absent
logical ids, retired physical cores, spares in use, strikes with their ticks, cores that faulted in the replay under
way, side-memory rows by 8,192 × logical core + row, background work, how many threads have
been placed, and retained ranges of recompute threads; by 96-bit code, the most contributions that an anchored element saved
raw with it has had (03 R101, the model's own). -/
structure Cores where
  moved : SMap Nat
  absent : BitVec 1280
  retired : List Nat
  strikes : List (Nat × Nat)
  side : List (Nat × W64)
  background : List Background
  placed : Nat
  retained : List Retained
  replaceRequest : W32
  sums : SMap Nat
deriving DecidableEq, Repr

/-- The state of the block. `pending` is the queue of waiting commands, first in, first out; `tick` the time base
(1 ns); `free` the counter the free values are applied to (the model's own).
(Log: DESIGN CHOICE, safe, entry 6.) -/
structure State where
  pending : List Instr
  tick : Nat
  free : Nat
  parts : Vector Part 4
  mem : Mem
  host : SMap Byte
  cores : Cores
  seams : Vector Seam 12
  dieInfo : Vector W32 9
  packageLevel : W32
  ports : Vector Port 32
  fab : Fab
  obs : ObsPkg
  power : Power
  life : Life
  hi : HostIf
  out : List Out
deriving DecidableEq, Repr

/-- Why a step stops.
(Log: DESIGN CHOICE, safe, entry 4.) -/
inductive Fault where
  /-- Raised by a meaning whose operand is not what the row's rule can deliver (a flit without 248 payload bytes, a
  header of another length): such a term is no event of the device. Safe: the device never sees one. -/
  | malformedOperand
deriving DecidableEq, Repr

/-- Why a step refuses. -/
inductive Refusal where
  /-- Raised only by an arm of `exec` whose row has no meaning yet. Safe: nothing can be proved of a refused row. -/
  | notModelled (mnemonic : String)
deriving DecidableEq, Repr

/-- A lane map with every lane good, generation 0 (10 R281).
(Log: DESIGN CHOICE, unsafe, entry 16.) -/
def LaneMap.fresh : LaneMap :=
  { generation := 0, ab := [], ba := [], ctrlAB := 15, ctrlBA := 15 }

/-- A direction at link bring-up (10 R275, R277).
(Log: DESIGN CHOICE, unsafe, entry 20.) -/
def SeamDir.fresh : SeamDir :=
  { txNext := 0, retry := [], progressAt := 0, rxExpected := 0, sinceAck := 0, ackDue := none, nacked := false,
    resending := 0, credits := [], delivered := [], stripes := [], lanes := [], active := [], words := [] }

/-- A Seam before bring-up. -/
def Seam.reset : Seam :=
  { mapA := .fresh, mapB := .fresh, pendingA := none, pendingB := none, committed := .fresh, linkUp := false,
    retraining := false, disputed := [], down := false, ab := .fresh, ba := .fresh }

/-- A port at cold reset (11 Tables 11.12, 11.14, 11.16): ENABLE 1, state DISABLED, HELD 1.
(Log: DESIGN CHOICE, unsafe, entry 20.) -/
def Port.reset : Port :=
  { ctrl := 1, quota := 0, state := .disabled, held := true, partnerPort := 0, encrypted := false,
    partnerEndpoint := 0, trained := false, encryptTrained := false, medium := 0, txNext := 0, retry := [], progressAt := 0,
    retryDepth := 0, rxExpected := 0, sinceAck := 0, ackDue := none, nacked := false, credits := [], rxStreams := [],
    ackOut := false, nackOut := false, creditsOut := [], rxFrames := [], rxOpen := [],
    drops := [], lostDue := none, txSlot := false, rxSlot := false, txKeys := Vector.replicate 2 .empty,
    rxKeys := Vector.replicate 2 .empty, controlQueue := [], egress := [], sending := [], waitSince := [], depthSince := [], slots := [],
    turn := 8, stall := none, keyed := false, spdm := [], telemetry := [], syncEcho := none }

/-- The fabric package registers at cold reset: ACK_TIMEOUT 20, WINDOW 100, tables zero.
(Log: DESIGN CHOICE, unsafe, entry 17.) -/
def Fab.reset : Fab :=
  { tableIndex := 0, dataLow := 0, dataHigh := 0, routes := [], circuits := [], planOwner := 0, planState := [],
    planDetail := 0, cfg := 0x140000, telemetryCtrl := 100, endpoint := 0x3FFF, held := [], loop := [] }

/-- No Peg. -/
def Peg.reset : Peg :=
  { id := 0, origin := 0, lastId := 0, open_ := false, t := 0, carried := 0, closeAt := 0, halt := false,
    fabric := false, issuer := 0, halted := 0, haltedBy := [], cause := none, tags := [], captured := false, source := 0, late := false,
    ignored := false, accepted := [], image := [], drifts := [], inFlight := [], flagged := [] }

/-- Package observation at cold reset: HBM_CAP 10.
(Log: DESIGN CHOICE, unsafe, entry 20.) -/
def ObsPkg.reset : ObsPkg :=
  { cfg := 10, pegMatch := 0, pegMatchValue := 0, imageAddr := 0, count := [], drifts := [], driftAt := 0, buckets := [],
    written := 0, peg := .reset }

/-- Power after cold reset: Cotton requested and effective, 1,700 MHz on every die, supplies good, PERST_N asserted.
(Log: DESIGN CHOICE, unsafe, entry 13; DESIGN CHOICE, unsafe, entry 154.) -/
def Power.reset : Power :=
  { request := 1, effective := 1, clocks := #v[1700, 1700, 1700, 1700], applied := #v[1700, 1700, 1700, 1700],
    throttled := 0, throttleAt := #v[0, 0, 0, 0], closedSince := 0, forcedBrake := false, forcedFlow := false,
    forcedSensor := false, hotDies := 0, coolAt := [], diffSince := none, flowOkSince := none, inletSince := none,
    bothSince := none, forcedFlowAt := 0, coolant := 0, flow := 0, coolantCfg := 0, junction := Vector.replicate 25 0,
    calibratedAt := [], trip := none, brakeN := true, thermtripN := true, vaux := true, vinMain := true,
    perstN := false, balls := { strap0 := none, strap1 := none, trstN := none }, trstN := false, address := 0x4F }

/-- Lifetime state of a new package in cold reset.
(Log: DESIGN CHOICE, unsafe, entry 16; DESIGN CHOICE, unsafe, entry 71.) -/
def Life.reset : Life :=
  { bootPhase := 0, deviceReady := false, bootAt := 0, found := none, mayStep := true, slew := 0, slewAt := 0, dieSlewAt := Vector.replicate 9 0,
    dieOffsets := Vector.replicate 9 0, timeCfg := 2, locked := false, parentPort := 0, offset := 0, offsets := [],
    distance := 0xFFFF, master := 0, calendarAt := 0, calendarBase := 0, calendarKnown := false, exportAddr := 0,
    exportRegion := 0, exportResult := .ok, exportBusy := none, patchVersion := 0, patchRejected := false, basketSlot := false, basketRestarts := 0,
    basketMisses := 0, basketStartedAt := 0, basketUpAt := 0, firewallBlocks := 0, rollbackCounter := 0, slotVersion := [1, 0],
    newSlot := none, waiting := [], minPeer := 0,
    wearSaved := [], wearNow := [], cycles := [], records := [], portMedium := [], inventory := [], authNotices := [] }

/-- Host-interface package registers and configuration space at cold reset.
(Log: PRESUMED, unsafe, entry 18; DESIGN CHOICE, unsafe, entry 142.) -/
def HostIf.reset : HostIf :=
  { pfBar2Select := 0, partialReset := 0, partialResult := .ok, partialBusy := none, selvageAddr := 0, selvageBusy := none,
    selvageResult := .ok, selvageDetail := 0, pkgHealthBase := 0, pkgHealthCfg := 0, pkgStatusLine := 0,
    pkgHealthHead := 0, pkgHealthWritten := 0, pkgHealthDrops := 0, pkgHealthConsumed := 0, vfEnable := false,
    numVfs := 0, linkUp := false, msix := [], msixPending := [], msixControl := [], devControl := [],
    pfBar := 41, vfBar := 39, latch := [] }

/-- Device memory after HBM training: nothing listed, every byte 0 (16 R458).
(Log: DEDUCED, unsafe, entry 15; DESIGN CHOICE, unsafe, entry 16.) -/
def Mem.reset : Mem :=
  { bytes := [], poison := [], owner := [], failed := 0, repairUsed := [], corrPasses := [], strongActive := false,
    strongRequest := false, pressQueue := [], doubleRefresh := 0 }

/-- The cores after a cold reset of a new package.
(Log: DESIGN CHOICE, unsafe, entry 16; DEDUCED, unsafe, entry 93.) -/
def Cores.reset : Cores :=
  { moved := [], absent := 0, retired := [], strikes := [], side := [], background := [], placed := 0, retained := [],
    replaceRequest := 0, sums := [] }

/-- The block after cold reset.
(Log: DESIGN CHOICE, unsafe, entry 13; DESIGN CHOICE, unsafe, entry 14; DESIGN CHOICE, unsafe, entry 19.) -/
def State.reset : State :=
  { pending := [], tick := 0, free := 0, parts := Vector.replicate 4 Part.reset, mem := .reset, host := [],
    cores := .reset, seams := Vector.replicate 12 Seam.reset, dieInfo := Vector.replicate 9 0, packageLevel := 0,
    ports := Vector.replicate 32 Port.reset, fab := .reset, obs := .reset, power := .reset, life := .reset,
    hi := .reset, out := [] }

end Sys2Proof.Machine
end

