-- ==== Sys2Proof/Machine/Bits.lean ====
section
/-! DEFINITION. Byte order, bit fields and check codes (00 R7, R8; 05 R149; 10 R274; 13 R383). -/

namespace Sys2Proof.Machine

/-- The number that bytes spell, lowest address first (00 R7). -/
def le : Bytes → Nat
  | [] => 0
  | b :: r => b.toNat + 256 * le r

/-- The k bytes of a number, lowest first. -/
def toLe : Nat → Nat → Bytes
  | 0, _ => []
  | k + 1, n => BitVec.ofNat 8 n :: toLe k (n / 256)

/-- Field [lo + w − 1 : lo] of a number (00 R8). -/
def fld (x lo w : Nat) : Nat := x / 2 ^ lo % 2 ^ w

/-- Bit n of a number. -/
def bit (x n : Nat) : Bool := x / 2 ^ n % 2 == 1

/-- The number with field [lo + w − 1 : lo] replaced. -/
def setFld (x lo w v : Nat) : Nat := x - fld x lo w * 2 ^ lo + (v % 2 ^ w) * 2 ^ lo

/-- A byte-string field at an offset, little-endian. -/
def at_ (l : Bytes) (off size : Nat) : Nat := le ((l.drop off).take size)

/-- k zero bytes. -/
def zeros (k : Nat) : Bytes := List.replicate k 0

/-- Every byte is zero. -/
def allZero (l : Bytes) : Bool := l.all (· == 0)

/-- A byte string padded with zeros or cut to k bytes. -/
def fit (k : Nat) (l : Bytes) : Bytes := (l ++ zeros (k - l.length)).take k

/-- The bits of a byte, most significant first. -/
def msbBits (b : Byte) : List Bool := [7, 6, 5, 4, 3, 2, 1, 0].map (fun i => b.getLsbD i)

/-- One bit of a CRC of width w, most significant bit first. -/
def crcBit (w poly : Nat) (c : Nat) (b : Bool) : Nat :=
  let top := bit c (w - 1)
  let sh := c * 2 % 2 ^ w
  if top != b then sh ^^^ poly else sh

/-- A CRC over bytes, most significant bit of each first. -/
def crcMsb (w poly : Nat) : Nat → Bytes → Nat
  | c, [] => c
  | c, b :: r => crcMsb w poly ((msbBits b).foldl (crcBit w poly) c) r

/-- One bit of a reflected CRC. -/
def crcBitR (poly : Nat) (c : Nat) (b : Bool) : Nat :=
  if (c % 2 == 1) != b then (c / 2) ^^^ poly else c / 2

/-- A reflected CRC over bytes, least significant bit of each first. -/
def crcLsb (poly : Nat) : Nat → Bytes → Nat
  | c, [] => c
  | c, b :: r => crcLsb poly ((msbBits b).reverse.foldl (crcBitR poly) c) r

/-- CRC-16 of a scale-table entry (05 R149). -/
def crc16 (l : Bytes) : Nat := crcMsb 16 0x1021 0xFFFF l

/-- CRC-32C (10 R274): polynomial 0x1EDC6F41 reflected, initial and final value all ones. -/
def crc32c (l : Bytes) : Nat := crcLsb 0x82F63B78 0xFFFFFFFF l ^^^ 0xFFFFFFFF

/-- The block checksum of 13 R383: CRC-64 of ECMA-182, initial value 0, no reflection. -/
def crc64 (l : Bytes) : Nat := crcMsb 64 0x42F0E1EBA9EA3693 0 l

/-- Rotation of a 64-bit word. -/
def rotl64 (x k : Nat) : Nat := (x * 2 ^ (k % 64) % 2 ^ 64) ||| (x / 2 ^ (64 - k % 64) )

/-- The fold of 13 R383 over block checksums, from block b. -/
def fingerprintFrom : Nat → List Nat → Nat × Nat → Nat × Nat
  | _, [], r => r
  | b, c :: rest, (lo, hi) =>
    fingerprintFrom (b + 1) rest ((lo + c * (2 * b + 1)) % 2 ^ 64,
      (hi + rotl64 c (1 + b % 63) * (4 * b + 3)) % 2 ^ 64)

/-- fingerprint of 13 R383 as its 16 bytes. -/
def fingerprint (crcs : List Nat) (length : Nat) : Bytes :=
  let (lo, hi) := fingerprintFrom 0 crcs (length % 2 ^ 64, 0)
  toLe 8 lo ++ toLe 8 hi

/-- The 4 KiB blocks of a byte string; fuel bounds their number. -/
def blocks4k : Nat → Bytes → List Bytes
  | 0, _ => []
  | _, [] => []
  | n + 1, l => l.take 4096 :: blocks4k n (l.drop 4096)

/-- The block checksums of a byte string. -/
def blockCrcs (l : Bytes) : List Nat := (blocks4k (l.length / 4096 + 1) l).map crc64

end Sys2Proof.Machine
end

