-- ==== Sys2Proof/Machine/Numeric.lean ====
section
/-! DEFINITION. Exact values, number formats and rounding: 03_reference_order R84 to R105 and
04_formats_special_values R107 to R126. A value is exact (a dyadic rational) until the one rounding a rule gives. -/

namespace Sys2Proof.Machine

/-- A chunk value or operand (03 R84): NaN, an infinity, a zero of either sign, or an exact nonzero dyadic. -/
inductive Val where
  | nan
  | inf (neg : Bool)
  | zero (neg : Bool)
  | num (d : Dyadic)
deriving DecidableEq, Repr

/-- The floating-point formats (04 Table 4.2). -/
inductive FFmt where
  | fp64 | fp32 | bf16 | fp16 | e5m2 | e4m3 | e3m2 | e2m3 | e2m1
deriving DecidableEq, Repr

/-- Exponent field width w. -/
def FFmt.w : FFmt → Nat
  | .fp64 => 11 | .fp32 => 8 | .bf16 => 8 | .fp16 => 5 | .e5m2 => 5 | .e4m3 => 4 | .e3m2 => 3 | .e2m3 => 2 | .e2m1 => 2

/-- Mantissa field width p. -/
def FFmt.p : FFmt → Nat
  | .fp64 => 52 | .fp32 => 23 | .bf16 => 7 | .fp16 => 10 | .e5m2 => 2 | .e4m3 => 3 | .e3m2 => 2 | .e2m3 => 3 | .e2m1 => 1

/-- Exponent bias b. -/
def FFmt.bias : FFmt → Nat
  | .fp64 => 1023 | .fp32 => 127 | .bf16 => 127 | .fp16 => 15 | .e5m2 => 15 | .e4m3 => 7 | .e3m2 => 3 | .e2m3 => 1
  | .e2m1 => 1

/-- Whether all-ones exponents encode infinity and NaN (04 R109). -/
def FFmt.ieee : FFmt → Bool
  | .fp64 | .fp32 | .bf16 | .fp16 | .e5m2 => true
  | .e4m3 | .e3m2 | .e2m3 | .e2m1 => false

/-- Element width in bits. -/
def FFmt.bits (f : FFmt) : Nat := 1 + f.w + f.p

/-- The largest finite code magnitude (04 Table 4.2). -/
def FFmt.maxCode : FFmt → Nat
  | .e4m3 => 0x7E
  | f => if f.ieee then (2 ^ f.w - 1) * 2 ^ f.p - 1 else 2 ^ (f.w + f.p) - 1

/-- The canonical NaN code (04 Table 4.2); 0 for the formats that have none. -/
def FFmt.nanCode : FFmt → Nat
  | .fp64 => 0x7FF8000000000000 | .fp32 => 0x7FC00000 | .bf16 => 0x7FC0 | .fp16 => 0x7E00 | .e5m2 => 0x7E
  | .e4m3 => 0x7F | _ => 0

/-- |m| × 2^e from a magnitude code without specials. -/
def FFmt.magnitude (f : FFmt) (c : Nat) : Nat × Int :=
  let e := c / 2 ^ f.p
  let m := c % 2 ^ f.p
  if e = 0 then (m, 1 - (f.bias : Int) - f.p) else (m + 2 ^ f.p, (e : Int) - f.bias - f.p)

/-- The largest finite magnitude. -/
def FFmt.maxFinite (f : FFmt) : Nat × Int := f.magnitude f.maxCode

/-- The value of a code (04 R109, R112). -/
def FFmt.decode (f : FFmt) (c : Nat) : Val :=
  let s := decide (2 ^ (f.w + f.p) ≤ c % 2 ^ f.bits)
  let a := c % 2 ^ (f.w + f.p)
  if f.ieee && decide (a / 2 ^ f.p = 2 ^ f.w - 1) then
    if a % 2 ^ f.p = 0 then .inf s else .nan
  else if f = .e4m3 ∧ a = 0x7F then .nan
  else if a = 0 then .zero s
  else
    let (m, e) := f.magnitude a
    .num { m := if s then -(m : Int) else m, e := e }

/-- The sign bit set in a code. -/
def FFmt.signed (f : FFmt) (neg : Bool) (c : Nat) : Nat := if neg then c + 2 ^ (f.w + f.p) else c

/-! ### Dyadic arithmetic -/

/-- floor(log2 |x|) of a nonzero dyadic. -/
def Dyadic.log2 (x : Dyadic) : Int := (x.m.natAbs.log2 : Int) + x.e

/-- m × 2^k as an integer, k ≥ 0. -/
def shl (m : Int) (k : Nat) : Int := m * (2 ^ k : Nat)

/-- The sum of two dyadics. -/
def Dyadic.add (x y : Dyadic) : Dyadic :=
  if x.e ≤ y.e then { m := x.m + shl y.m (y.e - x.e).toNat, e := x.e }
  else { m := shl x.m (x.e - y.e).toNat + y.m, e := y.e }

/-- The product of two dyadics. -/
def Dyadic.mul (x y : Dyadic) : Dyadic := { m := x.m * y.m, e := x.e + y.e }

/-- x × 2^k. -/
def Dyadic.scale (x : Dyadic) (k : Int) : Dyadic := { x with e := x.e + k }

/-- The sign of x − y. -/
def Dyadic.cmp (x y : Dyadic) : Ordering :=
  if x.e ≤ y.e then compare x.m (shl y.m (y.e - x.e).toNat) else compare (shl x.m (x.e - y.e).toNat) y.m

/-- x < y. -/
def Dyadic.lt (x y : Dyadic) : Bool := x.cmp y == .lt

/-- |x|. -/
def Dyadic.abs (x : Dyadic) : Dyadic := { x with m := x.m.natAbs }

/-- An exact value from a dyadic: a zero mantissa is +0. -/
def Val.ofDyadic (d : Dyadic) : Val := if d.m = 0 then .zero false else .num d

/-- The value negated. -/
def Val.neg : Val → Val
  | .nan => .nan
  | .inf s => .inf !s
  | .zero s => .zero !s
  | .num d => .num { d with m := -d.m }

/-- The value's sign; NaN has none. -/
def Val.isNeg : Val → Bool
  | .nan => false
  | .inf s => s
  | .zero s => s
  | .num d => decide (d.m < 0)

/-- A value multiplied by 2^k (03 R86): infinities, zeros and NaN unchanged. -/
def Val.scale (v : Val) (k : Int) : Val :=
  match v with
  | .num d => .num (d.scale k)
  | v => v

/-! ### Rounding -/

/-- A positive rational n / d × 2^e, the magnitude that a rounding meets (d = 1 for an exact dyadic). -/
structure Mag where
  n : Nat
  d : Nat
  e : Int
deriving DecidableEq, Repr

/-- floor(log2) of a positive rational magnitude. -/
def Mag.log2 (x : Mag) : Int :=
  let g := (x.n.log2 : Int) - x.d.log2
  let low : Bool := if 0 ≤ g then decide (x.n < x.d * 2 ^ g.toNat) else decide (x.n * 2 ^ (-g).toNat < x.d)
  (if low then g - 1 else g) + x.e

/-- Numerator and denominator of x ÷ 2^q. -/
def Mag.at (x : Mag) (q : Int) : Nat × Nat :=
  if q ≤ x.e then (x.n * 2 ^ (x.e - q).toNat, x.d) else (x.n, x.d * 2 ^ (q - x.e).toNat)

/-- Nearest-even integer to n / d. -/
def rneDiv (n d : Nat) : Nat :=
  let k := n / d
  let r := n % d
  if 2 * r < d then k else if d < 2 * r then k + 1 else if k % 2 = 0 then k else k + 1

/-- The exponent of the unit in the last place at magnitude x: format precision, subnormals kept, no upper bound. -/
def FFmt.ulp (f : FFmt) (x : Mag) : Int := max (x.log2 - f.p) (1 - (f.bias : Int) - f.p)

/-- The code of k × 2^q, where k has at most p + 1 bits or is the next power of two and q is a unit of the format. -/
def FFmt.codeOf (f : FFmt) (k : Nat) (q : Int) : Nat :=
  if k = 0 then 0
  else if k < 2 ^ f.p then k
  else if k = 2 ^ (f.p + 1) then (q + 1 + f.bias + f.p).toNat * 2 ^ f.p
  else (q + f.bias + f.p).toNat * 2 ^ f.p + (k - 2 ^ f.p)

/-- k × 2^q against the largest finite value. -/
def FFmt.over (f : FFmt) (k : Nat) (q : Int) : Bool :=
  let (m, e) := f.maxFinite
  if e ≤ q then decide (m < k * 2 ^ (q - e).toNat) else decide (m * 2 ^ (e - q).toNat < k)

/-- What a rounding gives: a magnitude code, or an overflow judged with an unbounded exponent (03 R88, 04 R116). -/
inductive Rounded where
  | code (c : Nat)
  | overflow
deriving DecidableEq, Repr

/-- Round the magnitude of a value of sign `neg` to format f, nearest-even or with the random word `r` (03 R88):
overflow follows the nearest rounding; beyond the largest finite value the nearest result stands; below it the
word is compared with the fractional distance from the lower neighbour, floor of it × 2^32. -/
def FFmt.roundMag (f : FFmt) (neg : Bool) (x : Mag) (r : Option Nat) : Rounded :=
  let q := f.ulp x
  let (n, d) := x.at q
  let k := rneDiv n d
  if f.over k q then .overflow
  else
    match r with
    | none => .code (f.codeOf k q)
    | some r =>
      let lo := n / d
      let rem := n % d
      if rem = 0 then .code (f.codeOf lo q)
      else if f.over (lo + 1) q then .code (f.codeOf k q)
      else if neg then
        -- a = −(lo + 1) units, b = −lo units: the distance of x from a is d − rem
        if r < (d - rem) * 2 ^ 32 / d then .code (f.codeOf lo q) else .code (f.codeOf (lo + 1) q)
      else
        if r < rem * 2 ^ 32 / d then .code (f.codeOf (lo + 1) q) else .code (f.codeOf lo q)

/-- The magnitude of a dyadic. -/
def Dyadic.mag (x : Dyadic) : Mag := { n := x.m.natAbs, d := 1, e := x.e }

/-- An occurrence that a computation reports (04 Table 4.13): kind, chunk and term where they apply, and the values. -/
structure Evt where
  kind : Nat
  chunk : Nat
  term : Nat
  a : Nat
  b : Nat
deriving DecidableEq, Repr

/-- An occurrence with no chunk and no term. -/
def Evt.plain (kind a b : Nat) : Evt := { kind := kind, chunk := 0xFFFFFFFF, term := 0xFF, a := a, b := b }

/-- The code of a value already in format f's range, or of a special. Magnitudes round to nearest-even. -/
def FFmt.encode (f : FFmt) (v : Val) : Nat :=
  match v with
  | .nan => f.nanCode
  | .inf s => if f.ieee then f.signed s (f.maxCode + 1) else if f = .e4m3 then f.nanCode else 0
  | .zero s => f.signed s 0
  | .num d =>
    match f.roundMag (decide (d.m < 0)) d.mag none with
    | .code c => f.signed (decide (d.m < 0)) c
    | .overflow => if f.ieee then f.signed (decide (d.m < 0)) (f.maxCode + 1) else if f = .e4m3 then f.nanCode else 0

/-- round of 03 R88 on an exact nonzero magnitude with a sign: the value, and whether it overflowed. -/
def FFmt.round (f : FFmt) (neg : Bool) (x : Mag) (r : Option Nat) : Val × Bool :=
  match f.roundMag neg x r with
  | .overflow => (.inf neg, true)
  | .code 0 => (.zero neg, false)
  | .code c => (f.decode (f.signed neg c), false)

/-- Round an exact dyadic. -/
def FFmt.roundD (f : FFmt) (x : Dyadic) (r : Option Nat) : Val × Bool :=
  if x.m = 0 then (.zero false, false) else f.round (decide (x.m < 0)) x.mag r

/-! ### Products and chunk sums (03 R83 to R85) -/

/-- The exact product of two operands and whether it is an invalid product (03 Table 3.3). -/
def mulVal (a b : Val) : Val × Bool :=
  match a, b with
  | .nan, _ => (.nan, false)
  | _, .nan => (.nan, false)
  | .zero _, .inf _ => (.nan, true)
  | .inf _, .zero _ => (.nan, true)
  | .inf s, b => (.inf (s != b.isNeg), false)
  | a, .inf s => (.inf (s != a.isNeg), false)
  | .zero s, b => (.zero (s != b.isNeg), false)
  | a, .zero s => (.zero (s != a.isNeg), false)
  | .num x, .num y => (.num (x.mul y), false)

/-- The exact sum of the finite members of a list of values. -/
def sumExact : List Val → Dyadic
  | [] => { m := 0, e := 0 }
  | .num d :: r => d.add (sumExact r)
  | _ :: r => sumExact r

/-- The largest floor(log2) among the nonzero finite members. -/
def maxLog2 : List Val → Option Int
  | [] => none
  | .num d :: r =>
    match maxLog2 r with
    | none => some d.log2
    | some k => some (max d.log2 k)
  | _ :: r => maxLog2 r

/-- The truncated sum in units of 2^q, and whether anything was cut off (03 R84). -/
def sumWindow (q : Int) : List Val → Int × Bool
  | [] => (0, false)
  | .num d :: r =>
    let (t, st) := sumWindow q r
    if q ≤ d.e then (t + shl d.m (d.e - q).toNat, st)
    else
      let k := (q - d.e).toNat
      let h : Int := if d.m < 0 then -((d.m.natAbs / 2 ^ k : Nat) : Int) else ((d.m.natAbs / 2 ^ k : Nat) : Int)
      (t + h, st || decide (d.m.natAbs % 2 ^ k ≠ 0))
  | _ :: r => sumWindow q r

/-- chunk_sum of 03 R84: `w` is the window width of the class, none for the exact classes. The flag is the one
invalid occurrence of opposite infinities. -/
def chunkSum (w : Option Nat) (p : List Val) : Val × Bool :=
  if p.any (· == .nan) then (.nan, false)
  else
    let pinf := p.any (· == .inf false)
    let ninf := p.any (· == .inf true)
    if pinf && ninf then (.nan, true)
    else if pinf then (.inf false, false)
    else if ninf then (.inf true, false)
    else
      match maxLog2 p with
      | none => (.zero (p.all (· == .zero true)), false)
      | some emax =>
        match w with
        | none => (Val.ofDyadic (sumExact p), false)
        | some w =>
          let q := emax - w
          let (t, st) := sumWindow q p
          if st then (.num { m := if t < 0 then 2 * t - 1 else 2 * t + 1, e := q - 1 }, false)
          else (Val.ofDyadic { m := t, e := q }, false)

/-- combine of 03 R87 in accumulator format f: `r` is the random word when the combination is stochastic. Reports
opposite infinities (kind 3) and overflow (kind 5) with the accumulator's bits. -/
def combine (f : FFmt) (acc v : Val) (r : Option Nat) : Val × List Evt :=
  match acc, v with
  | .nan, _ => (.nan, [])
  | _, .nan => (.nan, [])
  | .inf s, .inf s' => if s = s' then (.inf s, []) else (.nan, [Evt.plain 3 (f.encode acc) 0])
  | .inf s, _ => (.inf s, [])
  | _, .inf s => (.inf s, [])
  | .zero s, .zero s' => (.zero (s && s'), [])
  | .zero _, .num y => fin (f.roundD y r)
  | .num x, .zero _ => fin (f.roundD x r)
  | .num x, .num y => fin (f.roundD (x.add y) r)
where
  /-- Attach the overflow occurrence. -/
  fin (res : Val × Bool) : Val × List Evt :=
    if res.2 then (res.1, [Evt.plain 5 (f.encode acc) (f.encode res.1)]) else (res.1, [])

/-- The window width of 03 Table 3.2 and R94 for a term format. -/
def FFmt.window : FFmt → Nat
  | .fp64 => 224
  | .fp32 => 160
  | _ => 96

/-- Cut a list into chunks of 32 (03 R81); fuel bounds the number of chunks. -/
def chunks32 {β : Type} : Nat → List β → List (List β)
  | 0, _ => []
  | _, [] => []
  | n + 1, l => l.take 32 :: chunks32 n (l.drop 32)

/-- The ordered sum of 03 R94 continued from `acc` at chunk index `c`. -/
def orderedSum (f : FFmt) (acc : Val) (c : Nat) : List (List Val) → Val × List Evt
  | [] => (acc, [])
  | p :: rest =>
    let (v, bad) := chunkSum (some f.window) p
    let ev1 := if bad then [{ Evt.plain 2 0 0 with chunk := c }] else []
    let (acc', ev2) := combine f acc v none
    let (r, ev3) := orderedSum f acc' (c + 1) rest
    (r, ev1 ++ ev2.map (fun e => { e with chunk := c }) ++ ev3)

/-- The ordered sum of n terms from −0 (03 R94). -/
def orderedSumOf (f : FFmt) (t : List Val) : Val × List Evt :=
  orderedSum f (.zero true) 0 (chunks32 t.length t)

/-- Add neighbours once with one rounding each (03 R96). -/
def pairSums (f : FFmt) : List Val → List Val × List Evt
  | a :: b :: r =>
    let (v, e) := combine f a b none
    let (vs, es) := pairSums f r
    (v :: vs, e ++ es)
  | _ => ([], [])

/-- The lane-end tree of 03 R96 on 2^levels values. -/
def laneTree (f : FFmt) : Nat → List Val → Val × List Evt
  | 0, l => (l.headD (.zero false), [])
  | n + 1, l =>
    let (l', e) := pairSums f l
    let (v, e') := laneTree f n l'
    (v, e ++ e')

/-! ### Stochastic rounding (03 R91) -/

/-- One round of Philox-4×32-10 on (key, counter). -/
def philoxRound (k : Nat × Nat) (c : Nat × Nat × Nat × Nat) : Nat × Nat × Nat × Nat :=
  let (c0, c1, c2, c3) := c
  let p := 0xD2511F53 * c0
  let q := 0xCD9E8D57 * c2
  ((q / 2 ^ 32 % 2 ^ 32) ^^^ c1 ^^^ k.1, q % 2 ^ 32, (p / 2 ^ 32 % 2 ^ 32) ^^^ c3 ^^^ k.2, p % 2 ^ 32)

/-- The rounds from the second on, each with its advanced key. -/
def philoxRounds : Nat → Nat × Nat → Nat × Nat × Nat × Nat → Nat × Nat × Nat × Nat
  | 0, _, c => c
  | n + 1, k, c =>
    let k' := ((k.1 + 0x9E3779B9) % 2 ^ 32, (k.2 + 0xBB67AE85) % 2 ^ 32)
    philoxRounds n k' (philoxRound k' c)

/-- philox(key, ctr) of 03 R91. -/
def philox (k0 k1 c0 c1 c2 c3 : Nat) : Nat × Nat × Nat × Nat :=
  philoxRounds 9 (k0, k1) (philoxRound (k0, k1) (c0, c1, c2, c3))

/-- Word j of a quadruple, j mod 4. -/
def quadWord (q : Nat × Nat × Nat × Nat) (j : Nat) : Nat :=
  match j % 4 with
  | 0 => q.1
  | 1 => q.2.1
  | 2 => q.2.2.1
  | _ => q.2.2.2

/-- The array stream's random word for element (i, j), chunk c (03 R92, Table 3.5). -/
def arrayWord (seed : W64) (cmd i j c : Nat) : Nat :=
  quadWord (philox (seed.toNat % 2 ^ 32) (seed.toNat / 2 ^ 32) (cmd % 2 ^ 32) (i % 2 ^ 32) (j / 4 % 2 ^ 32)
    (c % 2 ^ 28)) j

/-- The rank-chain stream's random word (03 R105, Table 3.8). -/
def rankWord (seed : W64) (bucket e q : Nat) : Nat :=
  (philox (seed.toNat % 2 ^ 32) (seed.toNat / 2 ^ 32) bucket e 0 (2 ^ 28 + q % 2 ^ 28)).1

/-! ### Integer and anchored accumulators (03 R89, R99 to R102) -/

/-- An integer code of `bits` bits as a signed integer. -/
def signedOf (bits c : Nat) : Int := if 2 ^ (bits - 1) ≤ c % 2 ^ bits then (c % 2 ^ bits : Int) - 2 ^ bits else c % 2 ^ bits

/-- A signed integer as a two's-complement code. -/
def codeOfInt (bits : Nat) (n : Int) : Nat := (n % (2 ^ bits : Nat)).toNat

/-- Clamp to an integer range; the flag is a saturation. -/
def clampInt (bits : Nat) (n : Int) : Int × Bool :=
  let hi : Int := 2 ^ (bits - 1) - 1
  let lo : Int := -(2 ^ (bits - 1))
  if hi < n then (hi, true) else if n < lo then (lo, true) else (n, false)

/-- The INT32 combination of 03 R89: exact addition, saturated. -/
def combineInt (acc sum : Int) : Int × List Evt :=
  let (n, s) := clampInt 32 (acc + sum)
  (n, if s then [Evt.plain 7 (codeOfInt 32 acc) (codeOfInt 32 n)] else [])

/-- Nearest-even integer to a dyadic. -/
def Dyadic.rneInt (x : Dyadic) : Int :=
  if 0 ≤ x.e then shl x.m x.e.toNat
  else
    let k : Nat := rneDiv x.m.natAbs (2 ^ (-x.e).toNat)
    if x.m < 0 then -(k : Int) else k

/-- Markers of 03 R100. -/
def markNan : Int := -(2 ^ 95)
/-- The +∞ marker. -/
def markPinf : Int := -(2 ^ 95) + 1
/-- The −∞ marker. -/
def markNinf : Int := -(2 ^ 95) + 2

/-- anchored_add of 03 R100: a contribution v into N under ceiling C, with a saturation occurrence (R490). -/
def anchoredAdd (n : Int) (v : Val) (c : Int) : Int × List Evt :=
  if n = markNan then (markNan, [])
  else
    match v with
    | .nan => (markNan, [])
    | .inf false => (if n = markNinf then markNan else markPinf, [])
    | .inf true => (if n = markPinf then markNan else markNinf, [])
    | .zero _ => (n, [])
    | .num d =>
      if n = markPinf ∨ n = markNinf then (n, [])
      else
        let k := (d.scale (79 - c)).rneInt
        let lim : Int := 2 ^ 79 - 1
        if lim < (k.natAbs : Int) then
          let k' := if k < 0 then -lim else lim
          (n + k', [Evt.plain 7 (FFmt.fp64.encode v) (codeOfInt 64 (k' / 2 ^ 32))])
        else (n + k, [])

/-- Readout of an anchored element (03 R102) into FP32 or FP64, with an overflow occurrence (R490).
(Log: DEDUCED, unsafe, entry 30.) -/
def anchoredRead (f : FFmt) (n : Int) (c : Int) : Val × List Evt :=
  if n = markNan then (.nan, [])
  else if n = markPinf then (.inf false, [])
  else if n = markNinf then (.inf true, [])
  else if n = 0 then (.zero false, [])
  else
    let (v, o) := f.roundD { m := n, e := c - 79 } none
    (v, if o then [Evt.plain 5 (codeOfInt 64 (n / 2 ^ 32)) (f.encode v)] else [])

/-! ### Conversions (04 R116) -/

/-- What a conversion gives: the code, occurrences, and whether it marks its block NaN (04 R117). -/
structure Conv where
  code : Nat
  evts : List Evt
  nanBlock : Bool
deriving DecidableEq, Repr

/-- Conversion into an integer format of `bits` bits (04 R116); `src` is the source's bits for the records. -/
def convertInt (bits : Nat) (v : Val) (src : Nat) (r : Option Nat) : Conv :=
  let hi := codeOfInt bits (2 ^ (bits - 1) - 1)
  let lo := codeOfInt bits (-(2 ^ (bits - 1)))
  match v with
  | .nan => { code := 0, evts := [Evt.plain 4 src 0], nanBlock := false }
  | .inf false => { code := hi, evts := [Evt.plain 7 src hi], nanBlock := false }
  | .inf true => { code := lo, evts := [Evt.plain 7 src lo], nanBlock := false }
  | .zero _ => { code := 0, evts := [], nanBlock := false }
  | .num d =>
    let n : Int :=
      match r with
      | none => d.rneInt
      | some r =>
        if 0 ≤ d.e then shl d.m d.e.toNat
        else
          let k := (-d.e).toNat
          let fl := d.m / (2 ^ k : Nat)
          let rem := (d.m % (2 ^ k : Nat)).toNat
          if r < rem * 2 ^ 32 / 2 ^ k then fl + 1 else fl
    let (n', s) := clampInt bits n
    { code := codeOfInt bits n', evts := if s then [Evt.plain 7 src (codeOfInt bits n')] else [], nanBlock := false }

/-- Whether a format has no NaN code, so that a NaN element marks its block (04 R116). -/
def FFmt.blockNan : FFmt → Bool
  | .e3m2 | .e2m3 | .e2m1 => true
  | _ => false

/-- Conversion into a floating-point format (04 R116): `src` is the source's bits for the records.
(Log: DEDUCED, unsafe, entry 30.) -/
def convert (f : FFmt) (v : Val) (src : Nat) (r : Option Nat) : Conv :=
  match v with
  | .nan => { code := f.nanCode, evts := [], nanBlock := f.blockNan }
  | .inf s =>
    if f.ieee then { code := f.signed s (f.maxCode + 1), evts := [], nanBlock := false }
    else if f = .e4m3 then { code := f.nanCode, evts := [Evt.plain 6 src f.nanCode], nanBlock := false }
    else { code := 0, evts := [Evt.plain 6 src 0xFF], nanBlock := true }
  | .zero s => { code := f.signed s 0, evts := [], nanBlock := false }
  | .num d =>
    let s := decide (d.m < 0)
    match f.roundMag s d.mag r with
    | .code c => { code := f.signed s c, evts := [], nanBlock := false }
    | .overflow =>
      if f.ieee then
        let c := f.signed s (f.maxCode + 1)
        { code := c, evts := [Evt.plain 6 src c], nanBlock := false }
      else if f = .e4m3 then { code := f.nanCode, evts := [Evt.plain 6 src f.nanCode], nanBlock := false }
      else { code := 0, evts := [Evt.plain 6 src 0xFF], nanBlock := true }

/-! ### Two-operand operations (04 R119, R121, R123, R126) -/

/-- fusedMultiplyAdd of 04 R119 in format f, with its occurrences. -/
def fma (f : FFmt) (a b c : Val) : Val × List Evt :=
  let (p, bad) := mulVal a b
  if bad then (.nan, [Evt.plain 4 (f.encode a) (f.encode b)])
  else
    match p, c with
    | .nan, _ => (.nan, [])
    | _, .nan => (.nan, [])
    | .inf s, .inf s' => if s = s' then (.inf s, []) else (.nan, [Evt.plain 4 (f.encode a) (f.encode b)])
    | .inf s, _ => (.inf s, [])
    | _, .inf s => (.inf s, [])
    | .zero s, .zero s' => (.zero (s && s'), [])
    | .zero _, .num y => fin (f.roundD y none)
    | .num x, .zero _ => fin (f.roundD x none)
    | .num x, .num y => fin (f.roundD (x.add y) none)
where
  /-- Attach the overflow occurrence: the first input's bits and the result's. -/
  fin (res : Val × Bool) : Val × List Evt :=
    if res.2 then (res.1, [Evt.plain 5 (f.encode a) (f.encode res.1)]) else (res.1, [])

/-- Occurrences whose second input is b: kind 4 records its bits as VALUE_B (04 Table 4.13). -/
def secondIs (f : FFmt) (b : Val) (ev : List Evt) : List Evt :=
  ev.map (fun e => if e.kind = 4 then { e with b := f.encode b } else e)

/-- a + c with one rounding. -/
def addF (f : FFmt) (a c : Val) : Val × List Evt :=
  let (v, ev) := fma f a (.num { m := 1, e := 0 }) c
  (v, secondIs f c ev)

/-- a − b with one rounding: its inputs are a and b. -/
def subF (f : FFmt) (a b : Val) : Val × List Evt :=
  let (v, ev) := addF f a b.neg
  (v, secondIs f b ev)

/-- Occurrences whose first input is a: kinds 4 and 5 record its bits as VALUE_A (04 Table 4.13). -/
def firstIs (f : FFmt) (a : Val) (ev : List Evt) : List Evt := ev.map (fun e => { e with a := f.encode a })

/-- c − a × b with one rounding (fused): its first two inputs are taken to be the factors a and b.
(Log: DEDUCED, unsafe, entry 161.) -/
def fnma (f : FFmt) (a b c : Val) : Val × List Evt :=
  let (v, ev) := fma f a.neg b c
  (v, firstIs f a ev)

/-- a × b with one rounding: Combine with c = −0. -/
def mulF (f : FFmt) (a b : Val) : Val × List Evt := fma f a b (.zero true)

/-- Division with one nearest-even rounding and the special cases of 04 R126. -/
def divF (f : FFmt) (a b : Val) : Val × List Evt :=
  let s := a.isNeg != b.isNeg
  match a, b with
  | .nan, _ => (.nan, [])
  | _, .nan => (.nan, [])
  | .zero _, .zero _ => (.nan, [Evt.plain 4 (f.encode a) (f.encode b)])
  | .inf _, .inf _ => (.nan, [Evt.plain 4 (f.encode a) (f.encode b)])
  | .inf _, _ => (.inf s, [])
  | _, .inf _ => (.zero s, [])
  | .zero _, _ => (.zero s, [])
  | _, .zero _ => (.inf s, [])
  | .num x, .num y =>
    let (v, o) := f.round s { n := x.m.natAbs, d := y.m.natAbs, e := x.e - y.e } none
    (v, if o then [Evt.plain 5 (f.encode a) (f.encode v)] else [])

/-- The integer square root by bits, from bit `i` down. -/
def isqrtFrom : Nat → Nat → Nat → Nat
  | 0, _, acc => acc
  | i + 1, n, acc => if (acc + 2 ^ i) * (acc + 2 ^ i) ≤ n then isqrtFrom i n (acc + 2 ^ i) else isqrtFrom i n acc

/-- floor(sqrt n). -/
def isqrt (n : Nat) : Nat := isqrtFrom (n.log2 / 2 + 1) n 0

/-- Square root with one nearest-even rounding (08 R242): a negative operand is invalid (kind 4); ±0 keeps its sign.
The root is formed to 2p + 6 bits with a sticky bit, which decides every rounding. -/
def sqrtF (f : FFmt) (a : Val) : Val × List Evt :=
  match a with
  | .nan => (.nan, [])
  | .inf false => (.inf false, [])
  | .inf true => (.nan, [Evt.plain 4 (f.encode a) 0])
  | .zero s => (.zero s, [])
  | .num d =>
    if d.m < 0 then (.nan, [Evt.plain 4 (f.encode a) 0])
    else
      let g := 4 * f.p + 16
      let odd : Bool := decide (d.e % 2 ≠ 0)
      let m := (if odd then d.m.natAbs * 2 else d.m.natAbs) * 2 ^ g
      let e := (if odd then d.e - 1 else d.e) - g
      let k := isqrt m
      let k' := if k * k = m then 2 * k else 2 * k + 1
      ((f.round false { n := k', d := 1, e := e / 2 - 1 } none).1, [])

/-- Comparison of two numbers, zeros ordered −0 < +0 when `signedZero` (04 R121, R123); NaN operands excluded. -/
def Val.cmp (signedZero : Bool) (a b : Val) : Ordering :=
  match a, b with
  | .inf s, .inf s' => if s = s' then .eq else if s then .lt else .gt
  | .inf s, _ => if s then .lt else .gt
  | _, .inf s => if s then .gt else .lt
  | .zero s, .zero s' => if s = s' ∨ !signedZero then .eq else if s then .lt else .gt
  | .zero _, .num y => if y.m < 0 then .gt else .lt
  | .num x, .zero _ => if x.m < 0 then .lt else .gt
  | .num x, .num y => x.cmp y
  | _, _ => .eq

/-- Maximum or minimum of 04 R123 in Native or Compat mode. -/
def minMax (compat isMax : Bool) (a b : Val) : Val :=
  if a = .nan ∧ b = .nan then .nan
  else if a = .nan then (if compat then .nan else b)
  else if b = .nan then (if compat then .nan else a)
  else
    match Val.cmp true a b with
    | .lt => if isMax then b else a
    | _ => if isMax then a else b

/-- The predicates of 04 Table 4.8, in the order the Select word numbers them is Mangle's. -/
inductive Pred where
  | eq | ne | lt | le | gt | ge | unord | ord
deriving DecidableEq, Repr

/-- A predicate on two floating-point values (04 R121). -/
def Pred.eval (p : Pred) (a b : Val) : Bool :=
  let u : Bool := (a == .nan) || (b == .nan)
  let c := Val.cmp false a b
  match p with
  | .eq => !u && c == .eq
  | .ne => u || c != .eq
  | .lt => !u && c == .lt
  | .le => !u && c != .gt
  | .gt => !u && c == .gt
  | .ge => !u && c != .lt
  | .unord => u
  | .ord => !u

end Sys2Proof.Machine
end

