-- ==== Sys2Proof/Machine/Narrow.lean ====
section
/-! DEFINITION. Format codes (04 Table 4.1), narrow storage, the expander, block scales, the scale controller's
arithmetic and patches: 05_narrow_formats_scales. -/

namespace Sys2Proof.Machine

/-- Element bits of a format code (04 Table 4.1); 0 for codes that name no stored element. -/
def elemBits (d : Nat) : Nat :=
  match d with
  | 0x01 => 64 | 0x02 => 32 | 0x03 => 16 | 0x04 => 16 | 0x05 => 8 | 0x06 => 8 | 0x08 => 8 | 0x09 => 8 | 0x0A => 6
  | 0x0B => 6 | 0x0C => 4 | 0x0D => 4 | 0x0E => 3 | 0x0F => 2 | 0x10 => 8 | 0x11 => 4 | 0x12 => 32 | _ => 0

/-- The floating-point element format of a format code. -/
def elemFmt (d : Nat) : Option FFmt :=
  match d with
  | 0x01 => some .fp64 | 0x02 => some .fp32 | 0x03 => some .bf16 | 0x04 => some .fp16 | 0x05 => some .e4m3
  | 0x06 => some .e5m2 | 0x08 => some .e4m3 | 0x09 => some .e5m2 | 0x0A => some .e3m2 | 0x0B => some .e2m3
  | 0x0C => some .e2m1 | 0x0D => some .e2m1 | _ => none

/-- A format with E8M0 block scales (codes 0x08 to 0x0F). -/
def isMx (d : Nat) : Bool := decide (0x08 ≤ d ∧ d ≤ 0x0F)

/-- Q3 or Q2. -/
def isBook (d : Nat) : Bool := decide (d = 0x0E ∨ d = 0x0F)

/-- An integer format. -/
def isInt (d : Nat) : Bool := decide (d = 0x10 ∨ d = 0x11 ∨ d = 0x12)

/-- Entries of a codebook (05 R137, R138): 8 for Q3, 4 for Q2, from its 8 bytes. -/
def bookEntries (d : Nat) (book : Bytes) : List Val :=
  (book.take (if d = 0x0E then 8 else 4)).map (fun b => FFmt.e4m3.decode b.toNat)

/-- The value a stored element code stands for, without its block scale (04 R109 to R111, 05 R137, R140). -/
def codeVal (d : Nat) (book : Bytes) (c : Nat) : Val :=
  if isBook d then (bookEntries d book).getD c .nan
  else
    match elemFmt d with
    | some f => f.decode c
    | none =>
      let n := signedOf (elemBits d) c
      Val.ofDyadic { m := n, e := 0 }

/-- The exponent of an E8M0 code (04 R110): none for the NaN code. -/
def e8m0 (c : Nat) : Option Int := if c = 0xFF then none else some ((c : Int) - 127)

/-- A value under its block scale code (04 R114): a NaN scale makes every element NaN. -/
def scaled (v : Val) (s : Nat) : Val :=
  match e8m0 s with
  | none => .nan
  | some k => v.scale k

/-- Element e of an array of `bits`-bit codes packed without gaps (04 R108). -/
def packedCode (bits : Nat) (l : Bytes) (e : Nat) : Nat :=
  let first := bits * e / 8
  le ((l.drop first).take 9) / 2 ^ (bits * e % 8) % 2 ^ bits

/-- Codes packed without gaps from bit 0 (04 R108). -/
def packCodes (bits : Nat) (codes : List Nat) : Bytes :=
  toLe ((bits * codes.length + 7) / 8) (codes.foldr (fun c acc => c % 2 ^ bits + acc * 2 ^ bits) 0)

/-! ### Fit and local scales (05 R144, R145, R492) -/

/-- The largest magnitude among finite values; 0 when there is none. -/
def amaxOf : List Val → Dyadic
  | [] => { m := 0, e := 0 }
  | .num d :: r => let a := amaxOf r; if a.lt d.abs then d.abs else a
  | _ :: r => amaxOf r

/-- Emax of a destination (05 "Fit and local scales"): of a codebook, its largest finite magnitude. -/
def emaxOf (d : Nat) (book : Bytes) : Dyadic :=
  if isBook d then amaxOf (bookEntries d book)
  else
    match elemFmt d with
    | some f => let (m, e) := f.maxFinite; { m := m, e := e }
    | none => { m := 0, e := 0 }

/-- fits of 05 R144 for values whose largest finite magnitude is `a`, at scale 2^k. -/
def fits (d : Nat) (book : Bytes) (a : Dyadic) (k : Int) : Bool :=
  if a.m = 0 then true
  else if isBook d then !((emaxOf d book).lt (a.scale (-k)))
  else
    match elemFmt d with
    | some f =>
      let x := (a.scale (-k)).mag
      let q := f.ulp x
      let (n, dd) := x.at q
      !f.over (rneDiv n dd) q
    | none => true

/-- The first exponent from `k` on at which a value of magnitude `a` fits; fuel counts the exponents left. -/
def firstFit (d : Nat) (book : Bytes) (a : Dyadic) : Nat → Int → Option Int
  | 0, _ => none
  | n + 1, k => if fits d book a k then some k else firstFit d book a n (k + 1)

/-- local_scale of 05 R144: an E8M0 code. -/
def localScale (d : Nat) (book : Bytes) (a : Dyadic) : Nat :=
  if a.m = 0 then 0x7F
  else
    match firstFit d book a 255 (-127) with
    | some k => (k + 127).toNat
    | none => 0xFE

/-! ### Element conversion under a block scale (04 R116, R117) -/

/-- The index of the finite codebook entry nearest x, the lower one on a tie; with no finite entry, which only an element
of value zero asks of, the index is a free value, of the codebook `b`.
(Log: DESIGN CHOICE, safe, entry 143.) -/
def nearestEntry (b : Nat) (x : Val) : List Val → Nat → Option (Nat × Dyadic) → Nat
  | [], n, best => (best.map (·.1)).getD (Config.freeEntry b % n)
  | .nan :: r, i, best => nearestEntry b x r (i + 1) best
  | e :: r, i, best =>
    let num : Val → Dyadic := fun v => match v with | .num d => d | _ => { m := 0, e := 0 }
    let ed := num e
    let xd := num x
    let dist := (xd.add { ed with m := -ed.m }).abs
    match best with
    | none => nearestEntry b x r (i + 1) (some (i, dist))
    | some (_, d) =>
      if dist.lt d then nearestEntry b x r (i + 1) (some (i, dist)) else nearestEntry b x r (i + 1) best

/-- Convert a lane value under block scale code `s` (127 for none) into format d (04 R114, R116). -/
def convertElem (d : Nat) (book : Bytes) (v : Val) (s : Nat) (src : Nat) (r : Option Nat) : Conv :=
  let x := v.scale (127 - (s : Int))
  if isBook d then
    match x with
    | .nan => { code := 0, evts := [], nanBlock := true }
    | .inf _ => { code := 0, evts := [Evt.plain 6 src 0xFF], nanBlock := true }
    | .zero _ => { code := nearestEntry (256 * le book + d) x (bookEntries d book) 0 none, evts := [], nanBlock := false }
    | .num y =>
      if (emaxOf d book).lt y.abs then { code := 0, evts := [Evt.plain 6 src 0xFF], nanBlock := true }
      else { code := nearestEntry (256 * le book + d) x (bookEntries d book) 0 none, evts := [], nanBlock := false }
  else
    match elemFmt d with
    | some f => convert f x src r
    | none => convertInt (elemBits d) x src r

/-! ### Scale-table entries (05 R147 to R151) -/

/-- amax_code of 05 R148. -/
def amaxCode (a : Dyadic) : Nat :=
  if a.m = 0 then 0
  else if a.lt { m := 1, e := -126 } then 0x008
  else
    let e := a.log2
    -- ceil((a / 2^e − 1) × 8) with a / 2^e in [1, 2)
    let x : Dyadic := a.scale (3 - e)
    let n : Nat := if 0 ≤ x.e then x.m.natAbs * 2 ^ x.e.toNat else (x.m.natAbs + 2 ^ (-x.e).toNat - 1) / 2 ^ (-x.e).toNat
    let m := n - 8
    let (e, m) := if m = 8 then (e + 1, 0) else (e, m)
    if 254 < e + 127 then 0x7F7 else (e + 127).toNat * 8 + m

/-- The value of an amax code. -/
def amaxVal (c : Nat) : Dyadic := if c = 0 then { m := 0, e := 0 } else { m := 8 + (c % 8 : Nat), e := (c / 8 : Nat) - 130 }

/-- History slot h of an entry. -/
def entryHist (e : Bytes) (h : Nat) : Nat := fld (at_ e 4 22) (11 * h) 11

/-- The exponent of SCALE when it is a power of two from 2^−127 to 2^127 (05 R149). -/
def entryScale (e : Bytes) : Option Int :=
  let c := at_ e 0 4
  if c = 0x00400000 then some (-127)
  else if c % 2 ^ 23 = 0 ∧ 1 ≤ c / 2 ^ 23 ∧ c / 2 ^ 23 ≤ 254 then some ((c / 2 ^ 23 : Nat) - 127)
  else none

/-- The FP32 code of 2^k, −127 ≤ k ≤ 127. -/
def pow2Code (k : Int) : Nat := if k = -127 then 0x00400000 else (k + 127).toNat * 2 ^ 23

/-- Whether an entry is present (05 R149): its CHECK matches and it is well formed. -/
def entryPresent (e : Bytes) : Bool :=
  decide (crc16 (e.take 30) = at_ e 30 2) && (entryScale e).isSome &&
    (List.range 16).all (fun h => decide (entryHist e h ≤ 0x7F7)) &&
    decide (at_ e 0x1B 1 % 32 ≤ 16) && decide (at_ e 0x1B 1 / 64 = 0)

/-- The bytes of an entry with a correct CHECK. -/
def entryBytes (scale : Int) (hist : Nat) (headroom next coldLeft : Nat) (open_ : Bool) (corr : Nat) : Bytes :=
  let b := toLe 4 (pow2Code scale) ++ toLe 22 hist ++ toLe 1 (headroom % 16 + 16 * (next % 16)) ++
    toLe 1 (coldLeft % 32 + if open_ then 32 else 0) ++ toLe 2 corr
  b ++ toLe 2 (crc16 b)

/-- The entry of a cold start (05 R151): SCALE 1, empty history, COLD_LEFT 16. -/
def coldEntry (headroom : Nat) : Bytes := entryBytes 0 0 headroom 0 16 false 0

/-- sc_start of 05 R151 on the 32 bytes read from the table. -/
def scStart (n va : Nat) (read : Bytes) (headroom : Nat) (endOfUse : Bool) (fmt : Nat) : Snap :=
  let e := if entryPresent read then read else coldEntry headroom
  let k := (entryScale e).getD 0
  { entry := n, va := va, bytes := e, scale := k, cold := decide (0 < at_ e 0x1B 1 % 32), amax := { m := 0, e := 0 },
    raised := k, corr := 0, endOfUse := endOfUse, format := fmt, emax := emaxOf fmt [] }

/-- ceil(log2(a / b)) for positive dyadics. -/
def ceilLog2 (a b : Dyadic) : Int :=
  let g := a.log2 - b.log2
  -- b × 2^(g−1) ≤ … : the smallest k with a ≤ b × 2^k
  if !((b.scale (g - 1)).lt a) then g - 1 else if !((b.scale g).lt a) then g else g + 1

/-- sc_end of 05 R151: the entry's bytes to write back, by Emax of the destination format the command wrote. -/
def scEnd (s : Snap) : Bytes :=
  let emax := s.emax
  let e := s.bytes
  let ctrl := at_ e 0x1A 1
  let next := ctrl / 16
  let headroom := ctrl % 16
  let state := at_ e 0x1B 1
  let open0 := bit state 5
  let cold := state % 32
  let c := amaxCode s.amax
  let hist0 := at_ e 4 22
  let slot := if open0 then max (entryHist e next) c else c
  let hist := setFld hist0 (11 * next) 11 slot
  let scale := max ((entryScale e).getD 0) s.raised
  let corr := min (at_ e 0x1C 2 + s.corr) 65535
  if s.endOfUse then
    let cold' := cold - 1
    let top := (List.range 16).foldl (fun m h => max m (fld hist (11 * h) 11)) 0
    let est := (amaxVal top).scale headroom
    let scale' :=
      if cold' = 0 ∧ est.m ≠ 0 ∧ emax.m ≠ 0 then max (-127) (min 127 (ceilLog2 est emax)) else scale
    entryBytes scale' hist headroom ((next + 1) % 16) cold' false corr
  else entryBytes scale hist headroom next cold true corr

/-- The correction exponent k of sc_tile (05 R151): the first k at which magnitude `a` fits 2^(scale + k), stopping at
2^127. -/
def corrSteps (d : Nat) (book : Bytes) (a : Dyadic) (scale : Int) : Nat → Nat → Nat
  | 0, k => k
  | n + 1, k =>
    if fits d book a (scale + k) then k else if 127 ≤ scale + k then k else corrSteps d book a scale n (k + 1)

/-- sc_tile of 05 R151 for a warm entry: the exponent of the tile's scale and the snapshot after the tile. -/
def scTile (s : Snap) (d : Nat) (book : Bytes) (a : Dyadic) : Int × Snap :=
  let amax := if s.amax.lt a then a else s.amax
  let k := corrSteps d book a s.scale 255 0
  let s' := { s with amax := amax, emax := emaxOf d book }
  if 0 < k ∧ fits d book a (s.scale + k) then
    (s.scale + k, { s' with corr := s.corr + 1, raised := max s.raised (s.scale + k) })
  else (s.scale + k, s')

/-! ### Patches (05 R133 to R136, R157, R158) -/

/-- A candidate of select_patches: error, position, value under the block's scale. -/
structure Cand where
  err : Dyadic
  p : Nat
  u : Val
deriving DecidableEq, Repr

/-- Insert by error descending, then position ascending (05 R158). -/
def Cand.insert (c : Cand) : List Cand → List Cand
  | [] => [c]
  | x :: r => if x.err.lt c.err || (x.err.cmp c.err == .eq && decide (c.p < x.p)) then c :: x :: r else x :: c.insert r

/-- The candidates of a tile: in-extent positions whose finite value is not exact as E2M1 under its block scale. -/
def patchCands : List (Nat × Val × Nat) → List Cand
  | [] => []
  | (p, v, s) :: r =>
    match v.scale (127 - (s : Int)) with
    | .num u =>
      if s = 0xFF then patchCands r
      else
        let q := FFmt.e2m1.decode (FFmt.e2m1.encode (.num u))
        let qd : Dyadic := match q with | .num d => d | _ => { m := 0, e := 0 }
        let err := (u.add { qd with m := -qd.m }).abs
        if err.m = 0 then patchCands r
        else Cand.insert { err := err.scale ((s : Int) - 127), p := p, u := .num u } (patchCands r)
    | _ => patchCands r

/-- Insert a patch word by position. -/
def insertPatch (x : Nat × Nat) : List (Nat × Nat) → List (Nat × Nat)
  | [] => [x]
  | y :: r => if x.1 < y.1 then x :: y :: r else y :: insertPatch x r

/-- select_patches of 05 R158: the B patch words of a tile. Each element is (position, value, block scale code). -/
def selectPatches (elems : List (Nat × Val × Nat)) (budget : Nat) : List Nat :=
  let kept := (patchCands elems).take budget
  let words := kept.foldr (fun c l => insertPatch (c.p, FFmt.e4m3.encode c.u) l) []
  words.map (fun x => x.1 + x.2 * 2 ^ 12) ++ List.replicate (budget - words.length) 0x0007F000

/-- The patches a list brings into force (05 R134): it ends at the first slot marked unused or out of order. -/
def livePatches : List Nat → Option Nat → List (Nat × Nat)
  | [], _ => []
  | w :: r, last =>
    let p := fld w 0 12
    let v := fld w 12 8
    if v = 0x7F ∨ v = 0xFF then []
    else if (match last with | none => false | some l => decide (p ≤ l)) then []
    else (p, v) :: livePatches r (some p)

end Sys2Proof.Machine
end

