-- ==== Sys2Proof/Machine/Gcm.lean ====
section
/-! DEFINITION. AES-256 in Galois/Counter Mode, which 11 R331 names for an encrypted hop: the published algorithm, on
bytes. -/

namespace Sys2Proof.Machine

/-! ### The block cipher -/

/-- Multiplication by x in GF(2^8). -/
def gfDouble (a : Byte) : Byte := (a <<< 1) ^^^ (if a.msb then 0x1B else 0)

/-- Multiplication in GF(2^8). -/
def gfMul (a b : Byte) : Byte :=
  ((List.range 8).foldl (fun (x : Byte × Byte) k => (gfDouble x.1, if b.getLsbD k then x.2 ^^^ x.1 else x.2)) (a, 0)).2

/-- The inverse in GF(2^8), 0 for 0: the 254th power. -/
def gfInv (a : Byte) : Byte :=
  ((List.range 7).foldl (fun (x : Byte × Byte) _ => let y := gfMul x.1 x.1; (y, gfMul x.2 y)) (a, 1)).2

/-- The byte substitution. -/
def aesSub (a : Byte) : Byte :=
  let b := gfInv a
  b ^^^ b.rotateLeft 1 ^^^ b.rotateLeft 2 ^^^ b.rotateLeft 3 ^^^ b.rotateLeft 4 ^^^ 0x63

/-- Exclusive-or of byte strings. -/
def xorBytes (a b : Bytes) : Bytes := List.zipWith (· ^^^ ·) a b

/-- The 60 key words of a 256-bit key, newest first: one more in each round of the fold. -/
def aesWords (key : Bytes) : List Bytes :=
  let first := (List.range 8).map (fun i => (key.drop (4 * i)).take 4)
  (List.range 52).foldl (fun (w : List Bytes) k =>
    let last := w.headD []
    let t :=
      if (k + 8) % 8 = 0 then
        xorBytes ((last.drop 1 ++ last.take 1).map aesSub) [(List.range (k / 8)).foldl (fun r _ => gfDouble r) 1, 0, 0, 0]
      else if (k + 8) % 8 = 4 then last.map aesSub
      else last
    xorBytes (w.getD 7 []) t :: w) first.reverse

/-- The 15 round keys. -/
def aesRoundKeys (key : Bytes) : List Bytes :=
  let w := (aesWords key).reverse
  (List.range 15).map (fun r => ((w.drop (4 * r)).take 4).flatten)

/-- The row shift of a block held column by column. -/
def aesShift (b : Bytes) : Bytes := (List.range 16).map (fun i => b.getD (i % 4 + 4 * ((i / 4 + i % 4) % 4)) 0)

/-- The column mix. -/
def aesMix (b : Bytes) : Bytes :=
  (List.range 16).map (fun i =>
    let at' (r : Nat) : Byte := b.getD (4 * (i / 4) + (i + r) % 4) 0
    gfDouble (at' 0) ^^^ gfDouble (at' 1) ^^^ at' 1 ^^^ at' 2 ^^^ at' 3)

/-- One block enciphered under round keys. -/
def aesBlock (keys : List Bytes) (b : Bytes) : Bytes :=
  let s := xorBytes b (keys.headD [])
  let s := ((keys.drop 1).take 13).foldl (fun s k => xorBytes (aesMix (aesShift (s.map aesSub))) k) s
  xorBytes (aesShift (s.map aesSub)) (keys.getD 14 [])

/-! ### The mode -/

/-- Sixteen bytes as a number, the first byte highest. -/
def bigEndian (b : Bytes) : Nat := b.foldl (fun n x => n * 256 + x.toNat) 0

/-- A number in n bytes, the highest first. -/
def toBig (n v : Nat) : Bytes := (toLe n v).reverse

/-- Multiplication in GF(2^128) with the bits of GCM, highest first. -/
def ghashMul (x y : BitVec 128) : BitVec 128 :=
  ((List.range 128).foldl (fun (a : BitVec 128 × BitVec 128) i =>
    ((a.1 >>> 1) ^^^ (if a.1.getLsbD 0 then 0xE1#128 <<< 120 else 0), if x.getMsbD i then a.2 ^^^ a.1 else a.2)) (y, 0)).2

/-- Cut a byte string into blocks of 16, the last filled with zeros. -/
def blocks16 (b : Bytes) : List Bytes := (List.range ((b.length + 15) / 16)).map (fun i => fit 16 ((b.drop (16 * i)).take 16))

/-- The hash of a byte string in whole blocks. -/
def ghash (h : BitVec 128) (b : Bytes) : BitVec 128 :=
  (blocks16 b).foldl (fun y x => ghashMul (y ^^^ BitVec.ofNat 128 (bigEndian x)) h) 0

/-- AES-GCM-256 with a 96-bit nonce: the ciphertext and its 16-byte tag.
(Log: PRESUMED, unsafe, entry 137.) -/
def gcmSeal (key nonce aad plain : Bytes) : Bytes :=
  let ks := aesRoundKeys key
  let pad (b : Bytes) : Bytes := (blocks16 b).flatten
  let stream := (List.range ((plain.length + 15) / 16)).flatMap (fun i => aesBlock ks (nonce ++ toBig 4 (i + 2)))
  let cipher := xorBytes plain stream
  let h := BitVec.ofNat 128 (bigEndian (aesBlock ks (zeros 16)))
  let s := ghash h (pad aad ++ pad cipher ++ toBig 8 (8 * aad.length) ++ toBig 8 (8 * cipher.length))
  cipher ++ xorBytes (aesBlock ks (nonce ++ toBig 4 1)) (toBig 16 s.toNat)

end Sys2Proof.Machine
end

