-- ==== Sys2Proof/Machine/Packet.lean ====
section
/-! DEFINITION. Packets of the fabric: their headers and trailers (11 R307, R308; Tables 11.5 to 11.7). -/

namespace Sys2Proof

open Machine

/-! ### Header fields -/

/-- KIND of either header. -/
def Packet.kind (p : Packet) : Nat := at_ p.header 0x00 1
/-- PFLAGS of either header. -/
def Packet.flags (p : Packet) : Nat := at_ p.header 0x01 1
/-- POST_CUT. -/
def Packet.postCut (p : Packet) : Bool := bit p.flags 0
/-- DEST of an addressed header. -/
def Packet.dest (p : Packet) : Nat := fld (at_ p.header 0x02 2) 0 14
/-- SRC of an addressed header. -/
def Packet.src (p : Packet) : Nat := fld (at_ p.header 0x04 2) 0 14
/-- VC of an addressed header. -/
def Packet.vc (p : Packet) : Nat := fld (at_ p.header 0x06 1) 0 3
/-- CIRCUIT of a circuit header. -/
def Packet.circuitId (p : Packet) : Nat := fld (at_ p.header 0x02 2) 0 12
/-- SRC_GEN, at the same place in both headers. -/
def Packet.gen (p : Packet) : Nat := at_ p.header 0x08 2
/-- LENGTH, at the same place in both headers. -/
def Packet.len (p : Packet) : Nat := fld (at_ p.header 0x0A 2) 0 14
/-- SEQ: at 0x0C of an addressed header, 0x04 of a circuit header. -/
def Packet.seq (p : Packet) : Nat := if p.circuit then at_ p.header 0x04 4 else at_ p.header 0x0C 4
/-- WINDOW of an addressed header. -/
def Packet.window (p : Packet) : Nat := at_ p.header 0x10 2
/-- OFFSET: six bytes of an addressed header, four of a circuit header. -/
def Packet.offset (p : Packet) : Nat := if p.circuit then at_ p.header 0x0C 4 else at_ p.header 0x12 6
/-- AUX of an addressed header. -/
def Packet.aux (p : Packet) : Nat := at_ p.header 0x18 8
/-- The telemetry slot of a packet (11 R336): its VC, or 8 for the circuit stream. -/
def Packet.slot (p : Packet) : Nat := if p.circuit then 8 else p.vc

/-! ### Building packets -/

/-- A header with PFLAGS replaced. -/
def headerFlags (h : Bytes) (flags : Nat) : Bytes := h.take 1 ++ toLe 1 flags ++ h.drop 2

/-- What the trailer covers (11 R308; 15 R444): header and payload, with PFLAGS[0] taken as 0.
(Log: DEDUCED, unsafe, entry 52.) -/
def trailerOf (header payload : Bytes) : W32 :=
  BitVec.ofNat 32 (crc32c (headerFlags header (fld (at_ header 1 1) 1 7 * 2) ++ payload))

/-- A packet with its trailer written by its source. -/
def mkPacket (circuit : Bool) (header payload : Bytes) : Packet :=
  { circuit := circuit, header := header, payload := payload, trailer := trailerOf header payload, authentic := true,
    cls := false }

/-- An addressed header (11 Table 11.5). -/
def addressed (kind dest src vc gen len seq window offset aux : Nat) : Bytes :=
  toLe 1 kind ++ toLe 1 0 ++ toLe 2 (dest % 2 ^ 14) ++ toLe 2 (src % 2 ^ 14) ++ toLe 1 (vc % 8) ++ toLe 1 0 ++
    toLe 2 gen ++ toLe 2 (len % 2 ^ 14) ++ toLe 4 seq ++ toLe 2 window ++ toLe 6 offset ++ toLe 8 aux

/-- A circuit header (11 Table 11.6). -/
def circuitHeader (kind cid seq gen len offset : Nat) : Bytes :=
  toLe 1 kind ++ toLe 1 0 ++ toLe 2 (cid % 2 ^ 12) ++ toLe 4 seq ++ toLe 2 gen ++ toLe 2 (len % 2 ^ 14) ++ toLe 4 offset

/-- A control packet on VC 6 (11 Tables 11.4, 11.7). -/
def controlPacket (kind dest src : Nat) (payload : Bytes) : Packet :=
  mkPacket false (addressed kind dest src 6 0 payload.length 0 0 0 0) payload

/-- Whether the trailer matches (11 R308).
(Log: DEDUCED, unsafe, entry 52.) -/
def Packet.trailerOk (p : Packet) : Bool := p.trailer == trailerOf p.header p.payload

/-- A packet with a flag bit set. -/
def Packet.setFlag (p : Packet) (n : Nat) (v : Bool) : Packet :=
  { p with header := headerFlags p.header (setFld p.flags n 1 v.toNat) }

/-- KEY_SLOT of a header (11 R331). -/
def Packet.keySlot (p : Packet) : Bool := bit p.flags 1

/-- A packet of a flow with its sequence number (11 R310), and the trailer its source then writes. -/
def Packet.numbered (p : Packet) (seq : Nat) : Packet :=
  let k := if p.circuit then 4 else 12
  let h := p.header.take k ++ toLe 4 seq ++ p.header.drop (k + 4)
  { p with header := h, trailer := trailerOf h p.payload }

/-- A TIME_SYNC packet with the receiving port's stamp (11 R334). -/
def Packet.stamped (p : Packet) (tick : Nat) : Packet :=
  { p with payload := p.payload.take 8 ++ toLe 8 tick ++ p.payload.drop 16 }

/-- Whether a packet is one the link layer can deliver: header of its length, LENGTH naming its payload.
(Log: DESIGN CHOICE, safe, entry 4.) -/
def Packet.wf (p : Packet) : Bool :=
  decide (p.header.length = if p.circuit then 16 else 32) && decide (p.payload.length ≤ 8192) &&
    decide (p.len = p.payload.length)

end Sys2Proof
end

