-- ==== Sys2Proof/Machine/Egress.lean ====
section
/-! DEFINITION. The transmitting side of a fabric port: how packets become frames, which stream a frame slot goes to, credits
and what a frame's header carries back (11 R300, R301, R306, R324, R331, R334; 15 R444). -/

namespace Sys2Proof.Machine

/-! ### Circuit entries (11 Table 11.13) -/

/-- A circuit entry. -/
def Fab.circuit (f : Fab) (id : Nat) : Nat := (sget (0#128) f.circuits id).toNat

/-- ROLE of an entry: 0 unused, 1 source, 2 transit, 3 destination. -/
def ceRole (e : Nat) : Nat := fld e 0 2
/-- DATELINE. -/
def ceDateline (e : Nat) : Bool := bit e 2
/-- PARTITION. -/
def cePartition (e : Nat) : Nat := fld e 8 2
/-- PLAN_MASK. -/
def cePlans (e : Nat) : Nat := fld e 16 16
/-- IN_PORT. -/
def ceIn (e : Nat) : Nat := fld e 32 5
/-- OUT_PORT. -/
def ceOut (e : Nat) : Nat := fld e 40 5
/-- SHARE. -/
def ceShare (e : Nat) : Nat := fld e 48 7
/-- ENDPOINT. -/
def ceEndpoint (e : Nat) : Nat := fld e 64 14
/-- WINDOW. -/
def ceWindow (e : Nat) : Nat := fld e 80 16

/-- Whether a plan of an entry is ACTIVE. -/
def Fab.entryActive (f : Fab) (e : Nat) : Bool := (List.range 16).any (fun n => bit (cePlans e) n && decide (sget 0 f.planState n = 2))

/-- The circuits that leave by a port and whose plan is ACTIVE, each with its SHARE (11 R306, R324, R328). -/
def Fab.shares (f : Fab) (port : Nat) : List (Nat × Nat) :=
  (f.circuits.filter (fun x =>
    let e := x.2.toNat
    decide (ceRole e = 1 ∨ ceRole e = 2) && decide (ceOut e = port) && f.entryActive e)).map (fun x => (x.1, ceShare x.2.toNat))

/-! ### Credits (11 R301) -/

/-- The key of a stream and class: 15 is the shared pool's stream. -/
def creditKey (stream : Nat) (cls : Bool) : Nat := 2 * stream + cls.toNat

/-- The key of the shared pool. -/
def sharedKey : Nat := 30

/-- The key of a packet's stream and class. -/
def packetKey (pkt : Packet) : Nat := creditKey pkt.slot pkt.cls

/-- Spend a credit for a frame: a dedicated one first.
(Log: DEDUCED, unsafe, entry 68.) -/
def Port.spend (P : Port) (k : Nat) : Option Port :=
  if sget 0 P.credits k ≠ 0 then some { P with credits := sset 0 P.credits k (sget 0 P.credits k - 1) }
  else if sget 0 P.credits sharedKey ≠ 0 then
    some { P with credits := sset 0 P.credits sharedKey (sget 0 P.credits sharedKey - 1) }
  else none

/-- Add to a telemetry counter (11 R336: 64 bits, wrapping). -/
def Port.count (P : Port) (k n : Nat) : Port :=
  { P with telemetry := sset 0 P.telemetry k ((sget 0 P.telemetry k + n) % 2 ^ 64) }

/-! ### Packets on a hop (11 R307, R331, R334; 15 R444) -/

/-- The key slot in use for sending. -/
def Port.txKey (P : Port) : KeySlot := if P.txSlot then P.txKeys[1] else P.txKeys[0]

/-- Change the key slot in use for sending. -/
def Port.setTxKey (P : Port) (k : KeySlot) : Port :=
  { P with txKeys := if P.txSlot then P.txKeys.set 1 k else P.txKeys.set 0 k }

/-- A packet as the port transmits it at a tick: the stamp of a TIME_SYNC (R334), which its own port writes and so covers by
the trailer; POST_CUT between T and window close, never cleared; KEY_SLOT on an encrypted hop.
(Log: DEDUCED, unsafe, entry 52.) -/
def Port.outgoing (P : Port) (tick : Nat) (cut : Bool) (pkt : Packet) : Packet :=
  let pkt := if cut then pkt.setFlag 0 true else pkt
  let pkt :=
    if pkt.circuit = false ∧ pkt.vc = 6 ∧ pkt.kind = 0x11 then
      let b := toLe 8 tick ++ pkt.payload.drop 8
      { pkt with payload := b, trailer := trailerOf pkt.header b }
    else pkt
  if P.encrypted then pkt.setFlag 1 P.txSlot else pkt

/-- The bytes of a packet on a hop: in clear, or with payload and trailer encrypted and a tag. The nonce is the salt of the
key slot and its packet counter, each little-endian (00 R7).
(Log: DESIGN CHOICE, safe, entry 70.) -/
def Port.hopBytes (P : Port) (pkt : Packet) : Bytes :=
  let body := pkt.payload ++ toLe 4 pkt.trailer.toNat
  if P.encrypted then
    let k := P.txKey
    pkt.header ++ gcmSeal (toLe 32 k.key.toNat) (toLe 4 k.salt.toNat ++ toLe 8 k.counter) pkt.header body
  else pkt.header ++ body

/-- Whether a packet may begin: a key slot whose counter has reached 2^48 sends nothing more (11 R331). -/
def Port.mayBegin (P : Port) : Bool := !P.encrypted || decide (P.txKey.counter < 2 ^ 48)

/-- A packet begins: it leaves the queue for its stream's bytes, and the port counts it. -/
def Port.begin_ (P : Port) (stamp : Nat) (cut : Bool) (pkt : Packet) : Port × Packet :=
  let sent := P.outgoing stamp cut pkt
  let b := P.hopBytes sent
  let k := packetKey pkt
  let old := sget Sending.none P.sending k
  let P := { P with
    egress := P.egress.erase pkt,
    sending := sset Sending.none P.sending k
      { circuit := if pkt.circuit then pkt.circuitId else 0, bytes := old.bytes ++ b } }
  let P := if P.encrypted then P.setTxKey { P.txKey with counter := P.txKey.counter + 1 } else P
  ((P.count (16 + 8 * pkt.slot) 1).count (17 + 8 * pkt.slot) pkt.payload.length, sent)

/-- The depth of a stream's queue changes at a tick (11 R336).
(Log: DESIGN CHOICE, safe, entry 83.) -/
def Port.depthAt (P : Port) (tick stream : Nat) : Port := { P with depthSince := sset 0 P.depthSince stream (tick + 1) }

/-! ### Frame slots (11 R306) -/

/-- What a frame slot is given to: a stream and class, what the slot counts as (1 and 2: the slots of VC 7 and VC 6; 16 + id:
the share of a circuit; 0: none of these), and the circuit whose packet is to begin, if one must. -/
structure Slot where
  key : Nat
  tag : Nat
  circuit : Option Nat

/-- The packet that would begin on a stream and class: the oldest, of the circuit named if one is. -/
def Port.nextPacket (P : Port) (k : Nat) (circuit : Option Nat) : Option Packet :=
  if P.mayBegin then
    P.egress.find? (fun x => packetKey x == k && (match circuit with | none => true | some c => x.circuitId == c))
  else none

/-- Whether a stream and class can send a frame, of the circuit named if one is: it has bytes or a packet, and a credit. -/
def Port.canSend (P : Port) (k : Nat) (circuit : Option Nat) : Bool :=
  let x := sget Sending.none P.sending k
  (if x.bytes.isEmpty then (P.nextPacket k circuit).isSome
   else match circuit with | none => true | some c => x.circuit == c) && (P.spend k).isSome

/-- How many of the last 63 slots count as `tag`: with the next they make a window of 64. -/
def Port.used (P : Port) (tag : Nat) : Nat := (P.slots.filter (fun x => x == tag)).length

/-- The class of a stream that can send, class 0 first. -/
def Port.sendable (P : Port) (stream : Nat) (circuit : Option Nat) : Option Nat :=
  [2 * stream, 2 * stream + 1].find? (fun k => P.canSend k circuit)

/-- What the next frame slot goes to (11 R306): VC 7, then VC 6, up to 2 slots each in a window of 64; the circuits whose plan
is ACTIVE, each up to its SHARE; then the streams in turn.
(Log: DESIGN CHOICE, unsafe, entry 138.) -/
def Port.pick (P : Port) (shares : List (Nat × Nat)) : Option Slot :=
  let control (vc tag : Nat) : Option Slot :=
    if P.used tag < 2 then (P.sendable vc none).map (fun k => { key := k, tag := tag, circuit := none }) else none
  let circuits : Option Slot := shares.findSome? (fun x =>
    if P.used (16 + x.1) < x.2 then (P.sendable 8 (some x.1)).map (fun k => { key := k, tag := 16 + x.1, circuit := some x.1 })
    else none)
  let turns : Option Slot := (List.range 9).findSome? (fun j =>
    (P.sendable ((P.turn + 1 + j) % 9) none).map (fun k => { key := k, tag := 0, circuit := none }))
  ((control 7 1).or (control 6 2)).or (circuits.or turns)

/-! ### Frames (11 R300, R302) -/

/-- The 252 bytes a frame's CRC covers. -/
def frameBytes (header : W64) (body : Bytes) : Bytes := toLe 8 header.toNat ++ fit 244 body

/-- A frame of a stream with its number, and what its header carries back: an acknowledgement, a resend request and credits
(11 Tables 11.2, 11.3). -/
def Port.frame (P : Port) (stream : Nat) (cls : Bool) (body : Bytes) : Frame :=
  let ack := P.ackOut || P.nackOut
  let (k, n) := (P.creditsOut.head?).getD (sharedKey, 0)
  let h := BitVec.ofNat 64 (P.txNext.toNat + stream * 2 ^ 16 + cls.toNat * 2 ^ 20 + body.length * 2 ^ 24 +
    (if ack then P.rxExpected.toNat * 2 ^ 32 else 0) + ack.toNat * 2 ^ 48 + P.nackOut.toNat * 2 ^ 49 +
    (k / 2) * 2 ^ 52 + (k % 2) * 2 ^ 56 + min n 127 * 2 ^ 57)
  { header := h, body := fit 244 body, crc := BitVec.ofNat 32 (crc32c (frameBytes h body)) }

/-- What a frame carried back no longer waits. -/
def Port.carried (P : Port) : Port :=
  { P with
    ackOut := false, nackOut := false,
    creditsOut := match P.creditsOut with
      | [] => []
      | (k, n) :: r => if n ≤ 127 then r else (k, n - 127) :: r }

/-- A frame leaves: it takes its number, stays in the retry buffer, and is counted. -/
def Port.sendFrame (P : Port) (tick : Nat) (f : Frame) : Port :=
  let P := P.carried
  { P with
    txNext := P.txNext + 1, progressAt := if P.retry.isEmpty then tick else P.progressAt, retry := P.retry ++ [(f, 0)] }.count 0 1

/-- Begin packets of a stream and class until they fill a frame; on the circuit stream only packets of the circuit in progress
join a frame. Fuel bounds the packets. -/
def Port.fill (stamp : Nat) (cut : Bool) (k : Nat) : Nat → Option Nat → Port → List Packet → Port × List Packet
  | 0, _, P, out => (P, out)
  | n + 1, circuit, P, out =>
    let x := sget Sending.none P.sending k
    if 244 ≤ x.bytes.length then (P, out)
    else
      let circuit := if x.bytes.isEmpty then circuit else if k / 2 = 8 then some x.circuit else none
      match P.nextPacket k circuit with
      | none => (P, out)
      | some pkt =>
        let (P, sent) := P.begin_ stamp cut pkt
        Port.fill stamp cut k n none P (out ++ [sent])

/-- One frame slot: the frame that goes out and the packets that begin in it, stamped, or none when there is nothing to send or
no room to keep it; a circuit's frame counts against its circuit's share, whatever slot it takes. A frame without bytes goes out for an acknowledgement, a resend request or credits (STREAM 15).
(Log: DEDUCED, unsafe, entry 68; DESIGN CHOICE, unsafe, entry 138.) -/
def Port.slot (P : Port) (tick stamp : Nat) (cut : Bool) (shares : List (Nat × Nat)) : Option (Port × Frame × List Packet) :=
  if P.state ≠ .up ∨ 1024 ≤ P.retry.length then none
  else
    match P.pick shares with
    | some c =>
      match P.spend c.key with
      | none => none
      | some P =>
        let (P, pkts) := Port.fill stamp cut c.key 16 c.circuit P []
        let x := sget Sending.none P.sending c.key
        let f := P.frame (c.key / 2) (c.key % 2 == 1) (x.bytes.take 244)
        let rest := x.bytes.drop 244
        let P := P.sendFrame tick f
        some ({ P.depthAt tick (c.key / 2) with
          sending := sset Sending.none P.sending c.key (if rest.isEmpty then Sending.none else { x with bytes := rest }),
          waitSince := sset 0 P.waitSince c.key tick,
          slots := (if c.key / 2 = 8 then 16 + x.circuit else c.tag) :: P.slots.take 62,
          turn := if c.tag = 0 then c.key / 2 else P.turn }, f, pkts)
    | none =>
      if P.ackOut || P.nackOut || !P.creditsOut.isEmpty then
        let f := P.frame 15 false []
        let P := P.sendFrame tick f
        some ({ P with slots := 0 :: P.slots.take 62 }, f, [])
      else none

/-- Fill frame slots while there is something to send; fuel bounds the frames, of which the retry buffer holds 1,024. -/
def Port.pump (tick stamp : Nat) (cut : Bool) (shares : List (Nat × Nat)) : Nat → Port → List Frame → List Packet →
    Port × List Frame × List Packet
  | 0, P, fs, pkts => (P, fs, pkts)
  | n + 1, P, fs, pkts =>
    match P.slot tick stamp cut shares with
    | none => (P, fs, pkts)
    | some (P, f, more) => Port.pump tick stamp cut shares n P (fs ++ [f]) (pkts ++ more)

/-- Frames queued for egress on a stream, both classes (DEPTH_NOW).
(Log: DESIGN CHOICE, safe, entry 83.) -/
def Port.depth (P : Port) (stream : Nat) : Nat :=
  let bytes (pkt : Packet) : Nat := pkt.header.length + pkt.payload.length + 4 + (if P.encrypted then 16 else 0)
  [creditKey stream false, creditKey stream true].foldl (fun n k =>
    n + ((P.egress.filter (fun x => packetKey x == k)).foldl (fun m x => m + bytes x)
      (sget Sending.none P.sending k).bytes.length + 243) / 244) 0

/-- Queue a packet for egress, noting the depth reached (11 R336) and since when its stream and class wait. -/
def Port.queue (P : Port) (tick : Nat) (pkt : Packet) : Port :=
  let k := packetKey pkt
  let idle := (sget Sending.none P.sending k).bytes.isEmpty && !P.egress.any (fun x => packetKey x == k)
  let P := { P with
    egress := P.egress ++ [pkt], waitSince := if idle then sset 0 P.waitSince k tick else P.waitSince }
  { P.depthAt tick pkt.slot with telemetry := sset 0 P.telemetry (96 + pkt.slot) (max (P.depth pkt.slot) (sget 0 P.telemetry (96 + pkt.slot))) }

end Sys2Proof.Machine
end

