-- ==== Sys2Proof/Machine/Ops.lean ====
section
/-! DEFINITION. The named operations every meaning goes through: partitions, queues, commands in progress, sync
counters, threads and their local store, and the counting of occurrences (02 R57, R77; 04 R127 to R132). -/

namespace Sys2Proof.Machine

/-! ### Partitions, groups, queues and commands -/

/-- Partition p. -/
def State.part (s : State) (p : Fin 4) : Part := s.parts[p]

/-- Replace partition p. -/
def State.setPart (s : State) (p : Fin 4) (P : Part) : State := { s with parts := s.parts.set p P }

/-- Change partition p. -/
def State.modPart (s : State) (p : Fin 4) (f : Part → Part) : State := s.setPart p (f (s.part p))

/-- Queue q of a partition. -/
def Part.queue (P : Part) (q : Nat) : Queue := sget Queue.reset P.queues q

/-- Replace queue q. -/
def Part.setQueue (P : Part) (q : Nat) (Q : Queue) : Part := { P with queues := sset Queue.reset P.queues q Q }

/-- Group g of a partition. -/
def Part.group (P : Part) (g : Nat) : Group := sget Group.reset P.groups g

/-- Replace group g. -/
def Part.setGroup (P : Part) (g : Nat) (G : Group) : Part := { P with groups := sset Group.reset P.groups g G }

/-- The group of a queue number (02 R31). -/
def groupOf (q : Nat) : Nat := q / 16

/-- The slot of a queue number (02 R31). -/
def slotOf (q : Nat) : Nat := q % 16

/-- A queue number that exists (02 R31): the maintenance queue, or slots 0 to 11 of groups 1 to 31. -/
def queueExists (q : Nat) : Bool := decide (q = 0) || (decide (16 ≤ q) && decide (q ≤ 511) && decide (q % 16 ≤ 11))

/-- The stream of a queue's slot (02 Table 2.1): 0 F, 1 B, 2 W, 3 U. -/
def streamOf (q : Nat) : Nat :=
  match slotOf q with
  | 0 | 4 | 8 => 0
  | 1 | 5 | 9 => 1
  | 2 | 6 => 2
  | _ => 3

/-- The engine classes a queue can serve (02 Table 2.1). -/
inductive Engine where
  | sweep | copy | collective | press | maintenance
deriving DecidableEq, Repr

/-- The engine class of a queue number. -/
def engineOf (q : Nat) : Engine :=
  if q = 0 then .maintenance
  else if slotOf q ≤ 3 then .sweep
  else if slotOf q ≤ 7 then .copy
  else if slotOf q ≤ 10 then .collective
  else .press

/-- The command named by its admission count in a queue. -/
def Queue.entry (Q : Queue) (n : Nat) : Option Entry := Q.entries.find? (fun e => e.n == n)

/-- Change the command with admission count n. -/
def Queue.modEntry (Q : Queue) (n : Nat) (f : Entry → Entry) : Queue :=
  { Q with entries := Q.entries.map (fun e => if e.n = n then f e else e) }

/-- The command with a given name. -/
def State.entry (s : State) (c : Cid) : Option Entry := ((s.part c.p).queue c.q).entry c.n

/-- Change the command with a given name. -/
def State.modEntry (s : State) (c : Cid) (f : Entry → Entry) : State :=
  s.modPart c.p (fun P => P.setQueue c.q ((P.queue c.q).modEntry c.n f))

/-- Change queue q of partition p. -/
def State.modQueue (s : State) (p : Fin 4) (q : Nat) (f : Queue → Queue) : State :=
  s.modPart p (fun P => P.setQueue q (f (P.queue q)))

/-- An output leaves the block.
(Log: DESIGN CHOICE, safe, entry 7.) -/
def State.emit (s : State) (o : Out) : State := { s with out := o :: s.out }

/-! ### Counters (15 R428 to R430) -/

/-- The key of a counter: its class (15 Table 15.7), unit and place in its section. -/
def ctrKey (cls unit idx : Nat) : Nat := cls * 2 ^ 20 + unit * 64 + idx

/-- Add to a counter (64 bits, wrapping). -/
def State.tally (s : State) (cls unit idx k : Nat) : State :=
  let key := ctrKey cls unit idx
  let v := (sget 0 s.obs.count key + k) % 2 ^ 64
  { s with obs := { s.obs with count := sset 0 s.obs.count key v } }

/-! ### Command header fields (02 Table 2.3) -/

/-- COMMAND_ID. -/
def cmdId (c : Bytes) : Nat := at_ c 0x00 4
/-- STEP. -/
def cmdStep (c : Bytes) : Nat := at_ c 0x04 4
/-- MICRO_BATCH. -/
def cmdMicro (c : Bytes) : Nat := fld (at_ c 0x0C 2) 0 12
/-- PASS. -/
def cmdPass (c : Bytes) : Nat := fld (at_ c 0x0C 2) 12 2
/-- KIND. -/
def cmdKind (c : Bytes) : Nat := at_ c 0x0E 1
/-- A bit of FLAGS (02 Table 2.5): 0 RECOMPUTE, 1 EPOCH_BOUNDARY, 2 FENCE, 3 IRQ, 4 RELEASE_BANK. -/
def cmdFlag (c : Bytes) (n : Nat) : Bool := bit (at_ c 0x0F 1) n
/-- WAIT_EN. -/
def cmdWaitEn (c : Bytes) : Bool := bit (at_ c 0x12 1) 0
/-- N of EXC_LIMIT: the number of full exception records. -/
def cmdExcLimit (c : Bytes) : Nat := at_ c 0x13 1 % 16 + 1
/-- SIGNAL_EN. -/
def cmdSignalEn (c : Bytes) : Bool := bit (at_ c 0x1A 1) 0
/-- SIGNAL_MODE: true is monotonic set. -/
def cmdSignalSet (c : Bytes) : Bool := bit (at_ c 0x1A 1) 1

/-! ### Sync counters (02 R56 to R58, R62) -/

/-- A counter's value. -/
def Part.counter (P : Part) (c : Nat) : W32 := sget 0 P.counters c

/-- Set a counter. -/
def Part.setCounter (P : Part) (c : Nat) (v : W32) : Part := { P with counters := sset 0 P.counters c v }

/-- wait of 02 R57: satisfied while counter ≥ value, unsigned. -/
def Part.satisfied (P : Part) (c : Nat) (v : W32) : Bool := decide (v.toNat ≤ (P.counter c).toNat)

/-- The saturating sum of add (02 R57) and whether it saturated. -/
def addSat (a v : W32) : W32 × Bool :=
  if 0xFFFFFFFF < a.toNat + v.toNat then (0xFFFFFFFF, true) else (a + v, false)

/-- add of 02 R57. -/
def Part.counterAdd (P : Part) (c : Nat) (v : W32) : Part := P.setCounter c (addSat (P.counter c) v).1

/-- The monotonic set's value. -/
def maxW (a v : W32) : W32 := if a.toNat ≤ v.toNat then v else a

/-- set of 02 R57. -/
def Part.counterSet (P : Part) (c : Nat) (v : W32) : Part := P.setCounter c (maxW (P.counter c) v)

/-- k consecutive counters from c set to v (02 R62). -/
def Part.counterFill (P : Part) (c : Nat) (v : W32) : Nat → Part
  | 0 => P
  | k + 1 => (P.setCounter c v).counterFill (c + 1) v k

/-- Whether the header wait of a command is satisfied (02 R37). -/
def Part.waitOk (P : Part) (c : Bytes) : Bool :=
  !cmdWaitEn c || P.satisfied (at_ c 0x10 2) (BitVec.ofNat 32 (at_ c 0x14 4))

/-! ### Counting occurrences (04 R127, R130, R132; 02 R77) -/

/-- Keys compare field by field from the left (04 R130). -/
def Exc.key (x : Exc) : List Nat := [x.thread, x.op, x.row, x.col, x.chunk, x.term, x.kind]

/-- Lexicographic order of keys. -/
def keyLt : List Nat → List Nat → Bool
  | a :: r, b :: q => decide (a < b) || (decide (a = b) && keyLt r q)
  | _, _ => false

/-- Insert an occurrence by key; of two with one key (several steps of one element can count the same kind) the one counted
first comes first.
(Log: DESIGN CHOICE, unsafe, entry 144.) -/
def excInsert (x : Exc) : List Exc → List Exc
  | [] => [x]
  | y :: r => if keyLt x.key y.key then x :: y :: r else y :: excInsert x r

/-- Saturating count (04 R127). -/
def count16 (n k : Nat) : Nat := min (n + k) 65535

/-- One occurrence counted in its command: counts, and the N smallest keys selected (04 R127, R130). -/
def Entry.count (e : Entry) (x : Exc) : Entry :=
  let l := excInsert x e.excs
  let e := { e with excs := l.take (cmdExcLimit e.cmd), excTruncated := e.excTruncated || decide (cmdExcLimit e.cmd < l.length) }
  if x.kind ≤ 4 then { e with invalid := count16 e.invalid 1 }
  else if x.kind ≤ 6 then { e with overflow := count16 e.overflow 1 }
  else { e with sat := count16 e.sat 1 }

/-- The occurrences of an operation counted in order. -/
def Entry.countAll (e : Entry) : List Exc → Entry
  | [] => e
  | x :: r => (e.count x).countAll r

/-- Whether an occurrence is an invalid operation (kinds 1 to 4). -/
def Exc.invalidKind (x : Exc) : Bool := decide (1 ≤ x.kind ∧ x.kind ≤ 4)

/-- Count occurrences in a command; the first invalid one stops a queue set to stop (02 R77, 04 R132). -/
def Queue.note (Q0 : Queue) (n : Nat) (xs : List Exc) : Queue :=
  let Q := Q0.modEntry n (fun e => e.countAll xs)
  if xs.any Exc.invalidKind && bit Q.cfg.toNat 8 && Q.state == .enabled &&
      (Q0.entry n).any (fun e => decide (e.invalid = 0) && !e.queueStopped) then
    { Q.modEntry n (fun e => { e with queueStopped := true }) with state := .stopped }
  else Q

/-- The exception record data of an occurrence. -/
def Evt.exc (e : Evt) (thread op row col tick fmtA fmtB fmtOut : Nat) : Exc :=
  { thread := thread, op := op, row := row, col := col, chunk := e.chunk, term := e.term, kind := e.kind, tick := tick,
    fmtA := fmtA, fmtB := fmtB, fmtOut := fmtOut, valA := BitVec.ofNat 64 e.a, valB := BitVec.ofNat 64 e.b }

/-! ### Sweeps and threads (02 "Sweeps", R50, R51) -/

/-- Grid extents of a SWEEP command (02 Table 2.7). -/
def gridX (c : Bytes) : Nat := at_ c 0x28 4 + 1
/-- Y. -/
def gridY (c : Bytes) : Nat := at_ c 0x2C 4 + 1
/-- Z. -/
def gridZ (c : Bytes) : Nat := at_ c 0x30 4 + 1
/-- The number of threads. -/
def gridSize (c : Bytes) : Nat := gridX c * gridY c * gridZ c

/-- Coordinates of a thread (02 "Sweeps"). -/
def coords (c : Bytes) (t : Nat) : Nat × Nat × Nat := (t % gridX c, t / gridX c % gridY c, t / (gridX c * gridY c))

/-- OP_COUNT of a tile program. -/
def opCount (prog : Bytes) : Nat := at_ prog 0 1

/-- Operation i of a tile program: 32 bytes (02 R47). -/
def opAt (prog : Bytes) (i : Nat) : Bytes := (prog.drop (0x40 + 32 * i)).take 32

/-- Chain word j of a tile program. -/
def chainAt (prog : Bytes) (j : Nat) : Bytes := (prog.drop (0x40 + 32 * opCount prog + 32 * j)).take 32

/-- The copy of an argument slot that the sweep keeps (06 R175). -/
def Sweep.slot (w : Sweep) (n : Nat) : Bytes := ((w.slots.find? (fun x => x.1 == n)).map (·.2)).getD (zeros 32)

/-- The resident thread t of a sweep. -/
def Sweep.thread (w : Sweep) (t : Nat) : Option Thread := w.threads.find? (fun h => h.t == t)

/-- Change resident thread t. -/
def Sweep.modThread (w : Sweep) (t : Nat) (f : Thread → Thread) : Sweep :=
  { w with threads := w.threads.map (fun h => if h.t = t then f h else h) }

/-- Change the sweep of a command. -/
def Entry.modSweep (e : Entry) (f : Sweep → Sweep) : Entry := { e with sweep := e.sweep.map f }

/-- Thread `i` in state `s`. -/
def State.threadOf (s : State) (i : Tid) : Option Thread := (s.entry i.cid).bind (fun e => e.sweep.bind (fun w => w.thread i.t))

/-- Change a thread named by its command and index. -/
def State.modThread (s : State) (i : Tid) (f : Thread → Thread) : State :=
  s.modEntry i.cid (fun e => e.modSweep (fun w => w.modThread i.t f))

/-- A thread about to perform an operation: its command, sweep, itself and the operation's bytes. -/
structure Running where
  e : Entry
  w : Sweep
  h : Thread
  op : Bytes

/-- Whether a partition owns a logical core. -/
def Part.ownsCore (P : Part) (l : Nat) : Bool := decide (l < 1280) && P.cores.getLsbD l

/-- The threads resident on the cores of a partition, with their queue and command. -/
def Part.residents (P : Part) : List (Nat × Entry × Thread) :=
  P.queues.flatMap (fun q => q.2.entries.flatMap (fun e =>
    match e.sweep with
    | none => []
    | some w => w.threads.map (fun h => (q.1, e, h))))

/-- Whether an engine is stalled at an in-place write (13 R364). -/
def Part.threadStalled (P : Part) (i : Tid) : Bool := P.stalls.contains (.thread i)

/-- The unit of its core that an operation needs (02 R51; 06, 07, 08): 1 the array, 2 the Mangle chain, 3 the row engine, 4 the
copy unit; 0 for synchronisation, which needs none. -/
def opUnit (opcode : Nat) : Nat :=
  if 0x10 ≤ opcode ∧ opcode ≤ 0x12 then 1
  else if opcode = 0x20 then 2
  else if opcode = 0x30 ∨ opcode = 0x31 then 3
  else if 1 ≤ opcode ∧ opcode ≤ 3 then 4
  else 0

/-- The registers a chain word with its location record names (07 R189). -/
def chainRegs (w : Nat) (loc : Bytes) : List Nat :=
  let pair (n : Nat) : List Nat := if fld w 0 2 = 1 then [n, n + 1] else [n]
  (if fld w 2 3 = 1 then pair (at_ loc 0 4 % 4) else []) ++ (if fld w 5 3 = 1 then pair (at_ loc 4 4 % 4) else []) ++
    (if fld w 224 2 = 1 then pair (at_ loc 8 4 % 4) else [])

/-- The registers operation i of a program names. -/
def opRegs (w : Sweep) (i : Nat) : List Nat :=
  let op := opAt w.prog i
  if at_ op 0 1 = 0x20 then chainRegs (le (chainAt w.prog (at_ op 2 1))) (w.slot (at_ op 6 2)) else []

/-- A tile program's register set (07 R189). -/
def registerSet (w : Sweep) : List Nat := (List.range (opCount w.prog)).flatMap (opRegs w)

/-- Whether a thread of a sweep may acquire its register set: no other thread of the core holds one that overlaps, and no
longer-resident thread of the core waits for one that overlaps (07 R189). -/
def Part.registersFor (P : Part) (w : Sweep) (h : Thread) : Bool :=
  let mine := registerSet w
  P.residents.all (fun y =>
    match y.2.1.sweep with
    | none => true
    | some w' =>
      let h' := y.2.2
      !(decide (h'.core = h.core) && decide (h'.since ≠ h.since) &&
        (h'.holdsRegs || (decide (h'.wait = .registers) && decide (h'.since < h.since))) &&
        (registerSet w').any (fun r => mine.contains r)))

/-- The unit that a thread of a running command is ready to use; 0 for none. One at a CHAIN whose registers it neither holds nor
may acquire is not ready. -/
def Part.nextUnit (P : Part) (q : Nat) (c : Fin 4) (e : Entry) (h : Thread) : Nat :=
  match e.sweep with
  | none => 0
  | some w =>
    if e.phase = .running ∧ (h.wait = .ready ∨ h.wait = .registers) ∧ h.op < opCount w.prog ∧
        P.threadStalled { cid := { p := c, q := q, n := e.n }, t := h.t } = false ∧
        ((opRegs w h.op).isEmpty || h.holdsRegs || P.registersFor w h) = true then
      opUnit (at_ (opAt w.prog h.op) 0 1)
    else 0

/-- Whether a longer-resident thread of the core needs the unit next (02 R51): it goes first, except before the holder of a
preloaded block, whose reservation overrides (06 R179).
(Log: DESIGN CHOICE, unsafe, entry 10.) -/
def Part.yields (P : Part) (p : Fin 4) (h : Thread) (opcode : Nat) : Bool :=
  decide (opUnit opcode ≠ 0) && h.preload.isNone && P.residents.any (fun y =>
    decide (y.2.2.core = h.core) && decide (y.2.2.since < h.since) &&
      decide (P.nextUnit y.1 p y.2.1 y.2.2 = opUnit opcode))

/-- The named thread, when it is resident, not waiting (but for `wait`, when given) and not stalled, its next operation has
the opcode, and no longer-resident thread of its core needs the unit. -/
def State.runningOr (s : State) (i : Tid) (opcode : Nat) (wait : ThreadWait) : Option Running :=
  match s.entry i.cid with
  | none => none
  | some e =>
    match e.sweep with
    | none => none
    | some w =>
      match w.thread i.t with
      | none => none
      | some h =>
        if e.phase = .running ∧ (h.wait = .ready ∨ h.wait = wait) ∧ h.op < opCount w.prog ∧
            at_ (opAt w.prog h.op) 0 1 = opcode ∧ (s.part i.cid.p).threadStalled i = false ∧
            (s.part i.cid.p).yields i.cid.p h opcode = false then
          some { e := e, w := w, h := h, op := opAt w.prog h.op }
        else none

/-- The named thread, when it is ready to perform an operation with the opcode.
(Log: DESIGN CHOICE, unsafe, entry 10.) -/
def State.running (s : State) (i : Tid) (opcode : Nat) : Option Running := s.runningOr i opcode .ready

/-- The operation retires: the thread goes on to its next one (02 R50). -/
def Thread.retireOp (h : Thread) : Thread := { h with op := h.op + 1, wait := .ready, owed := [], done := 0 }

/-! ### Local store (02 R47, 06 R165) -/

/-- A number that names a location of one thread, for the free values of what nothing wrote. -/
def Thread.mark (h : Thread) (a : Nat) : Nat := (h.core * 2 ^ 32 + h.t) * 2 ^ 24 + a

/-- A byte of the thread's local store; one that nothing wrote has a free value (06 R181).
(Log: DESIGN CHOICE, safe, entry 25.) -/
def Thread.lsByte (h : Thread) (a : Nat) : Byte :=
  match h.ls.find? (fun x => x.1 == a) with
  | some x => x.2
  | none => Config.freeByte (h.mark a)

/-- k bytes of local store. -/
def Thread.lsRead (h : Thread) (a : Nat) : Nat → Bytes
  | 0 => []
  | k + 1 => h.lsByte a :: h.lsRead (a + 1) k

/-- Store bytes into a local store held as its written bytes. -/
def lsPut (ls : List (Nat × Byte)) (a : Nat) : Bytes → List (Nat × Byte)
  | [] => ls
  | b :: r => lsPut (sinsert ls a b) (a + 1) r

/-- Store bytes into the thread's local store. -/
def Thread.lsWrite (h : Thread) (a : Nat) (b : Bytes) : Thread := { h with ls := lsPut h.ls a b }

end Sys2Proof.Machine
end

