-- ==== Sys2Proof/Machine/Memory.lean ====
section
/-! DEFINITION. Physical memory, translation, and reads and writes through translated pages, with Darn's in-place
shadows (08 R214 to R225; 13 R361 to R364, R367). -/

namespace Sys2Proof.Machine

/-! ### Physical memory (08 R214, R217) -/

/-- Frames of 2 MiB in a stack's data region (08 Table 8.1).
(Log: DEDUCED, unsafe, entry 53.) -/
def framesPerStack (strong : Bool) : Nat := if strong then 39648 else 40928

/-- The stack of a physical address. -/
def stackOf (pa : Nat) : Nat := pa / 2 ^ 37

/-- The frame within its stack of a physical address. -/
def frameOf (pa : Nat) : Nat := pa % 2 ^ 37 / 2 ^ 21

/-- Whether a physical address lies in a data frame of its stack under the mode in force. -/
def Mem.decoded (m : Mem) (pa : Nat) : Bool := decide (pa < 2 ^ 41) && decide (frameOf pa < framesPerStack m.strongActive)

/-- The partition that owns the frame of a physical address; a failed stack's frames are withheld (13 R376). -/
def Mem.ownerOf (m : Mem) (pa : Nat) : Option Nat :=
  if m.failed.getLsbD (stackOf pa) then none
  else
    match sget 0 m.owner (stackOf pa * 65536 + frameOf pa) with
    | 0 => none
    | k => some (k - 1)

/-- Whether partition p owns the frame. -/
def Mem.ownedBy (m : Mem) (p : Fin 4) (pa : Nat) : Bool := m.ownerOf pa == some p.val

/-- A byte of device memory.
(Log: DEDUCED, unsafe, entry 15.) -/
def Mem.byte (m : Mem) (pa : Nat) : Byte := sget 0 m.bytes pa

/-- Bytes of device memory. -/
def Mem.read (m : Mem) (pa n : Nat) : Bytes := sread m.bytes pa n

/-- Whether a whole 64-byte sector lies in [pa, pa + n). -/
def coversSector (pa n sec : Nat) : Bool := decide (pa ≤ sec * 64 ∧ sec * 64 + 64 ≤ pa + n)

/-- Write bytes to device memory; a write of a whole sector clears its poison (08 R217). -/
def Mem.write (m : Mem) (pa : Nat) (b : Bytes) : Mem :=
  { m with bytes := swrite m.bytes pa b, poison := m.poison.filter (fun sec => !coversSector pa b.length sec) }

/-- The first poisoned sector that [pa, pa + n) touches. -/
def Mem.poisonIn (m : Mem) (pa n : Nat) : Option Nat :=
  m.poison.find? (fun sec => decide (sec * 64 < pa + n ∧ pa < sec * 64 + 64))

/-! ### Page tables (08 R219 to R222) -/

/-- A byte range a command can reach. -/
structure Rng where
  va : Int
  len : Nat
  write : Bool
deriving DecidableEq, Repr

/-- A pointer entry's target when it is valid (08 R220). -/
def ptePointer (e : Nat) : Option Nat :=
  if bit e 0 && !bit e 1 && decide (fld e 2 10 = 0) && decide (fld e 41 23 = 0) then some (fld e 12 29 * 4096) else none

/-- Whether a page of 2^size bytes at a device address lies in the data frames of one stack (08 R220). -/
def Mem.wholeDecoded (m : Mem) (a size : Nat) : Bool := m.decoded a && m.decoded (a + 2 ^ size - 1)

/-- A leaf entry of 2^size bytes: the page it gives for offset `off` of the page (08 R220); of a device leaf the whole page
is in data frames, whatever part of it a command reaches (R222). -/
def pteLeaf (m : Mem) (e size off page : Nat) : Option Xlat :=
  if bit e 0 && bit e 1 && decide (fld e 4 8 = 0) then
    let a := fld e 12 52 * 4096
    if a % 2 ^ size = 0 ∧ (bit e 3 = true ∨ m.wholeDecoded a size = true) then
      some { page := page, host := bit e 3, base := a + off, writable := bit e 2 }
    else none
  else none

/-- A table entry read by the walk: only from a frame the partition owns (08 R221). -/
def readPte (m : Mem) (p : Fin 4) (pa : Nat) : Option Nat :=
  if m.decoded pa && m.ownedBy p pa then some (le (m.read pa 8)) else none

/-- The walk of one 2 MiB page of a partition's address space (08 R219, R220). -/
def walk (m : Mem) (p : Fin 4) (base : W64) (page : Nat) : Option Xlat :=
  let va := page * 2 ^ 21
  let root := fld base.toNat 16 25 * 2 ^ 16
  match readPte m p (root + 8 * (va / 2 ^ 39)) with
  | none => none
  | some e1 =>
    match ptePointer e1 with
    | none => none
    | some t2 =>
      match readPte m p (t2 + 8 * (va / 2 ^ 30 % 512)) with
      | none => none
      | some e2 =>
        if bit e2 1 then pteLeaf m e2 30 (va % 2 ^ 30) page
        else
          match ptePointer e2 with
          | none => none
          | some t3 =>
            match readPte m p (t3 + 8 * (va / 2 ^ 21 % 512)) with
            | none => none
            | some e3 => pteLeaf m e3 21 0 page

/-- The table entries that the walk of a page reads, as physical addresses. -/
def walkReads (m : Mem) (p : Fin 4) (base : W64) (page : Nat) : List Nat :=
  let va := page * 2 ^ 21
  let a1 := fld base.toNat 16 25 * 2 ^ 16 + 8 * (va / 2 ^ 39)
  match (readPte m p a1).bind ptePointer with
  | none => [a1]
  | some t2 =>
    let a2 := t2 + 8 * (va / 2 ^ 30 % 512)
    match (readPte m p a2).bind ptePointer with
    | none => [a1, a2]
    | some t3 => [a1, a2, t3 + 8 * (va / 2 ^ 21 % 512)]

/-- The checks of 08 R221 and R222 on a translation: a device page in data frames that the partition owns.
(Log: DEDUCED, unsafe, entry 54.) -/
def Mem.allowed (m : Mem) (p : Fin 4) (x : Xlat) (write : Bool) : Bool :=
  (x.host || (m.decoded x.base && m.ownedBy p x.base)) && (!write || x.writable)

/-- The translation in use for a page: the walk's, or a cached one that an edit has made stale, which of the two is
not defined (08 R223) and left to a free choice.
(Log: DESIGN CHOICE, safe, entry 47.) -/
def State.pageXlat (s : State) (p : Fin 4) (page : Nat) : Option Xlat :=
  let P := s.part p
  let w := walk s.mem p P.pageTableBase page
  match P.tlb.find? (fun x => x.page == page) with
  | none => w
  | some c => if w = some c then w else if Config.freeBool (s.free + page) then w else some c

/-- The 2 MiB pages a range touches; none when it leaves the 52-bit space. -/
def Rng.pages (r : Rng) : Option (List Nat) :=
  if r.len = 0 then some []
  else if r.va < 0 ∨ (2 : Int) ^ 52 < r.va + r.len then none
  else
    let a := r.va.toNat / 2 ^ 21
    let b := (r.va.toNat + r.len - 1) / 2 ^ 21
    some ((List.range (b + 1 - a)).map (· + a))

/-- The 2 MiB pages that a range of addresses meets. -/
def pagesOf (a n : Nat) : List Nat :=
  if n = 0 then [] else (List.range ((a + n - 1) / 2 ^ 21 + 1 - a / 2 ^ 21)).map (· + a / 2 ^ 21)

/-- Translate the pages of one range, adding them to those known. -/
def State.xlatPages (s : State) (p : Fin 4) (write : Bool) : List Nat → List Xlat → Option (List Xlat)
  | [], acc => some acc
  | pg :: r, acc =>
    match acc.find? (fun x => x.page == pg) with
    | some x => if s.mem.allowed p x write then s.xlatPages p write r acc else none
    | none =>
      match s.pageXlat p pg with
      | none => none
      | some x => if s.mem.allowed p x write then s.xlatPages p write r (x :: acc) else none

/-- Translate every byte range a command can reach (08 R222): none is an ISOLATION_FAULT. -/
def State.xlatAll (s : State) (p : Fin 4) : List Rng → List Xlat → Option (List Xlat)
  | [], acc => some acc
  | r :: rest, acc =>
    match r.pages with
    | none => none
    | some pgs =>
      match s.xlatPages p r.write pgs acc with
      | none => none
      | some acc' => s.xlatAll p rest acc'

/-- The first poisoned sector that the walks of ranges read (08 R217). -/
def State.walkPoison (s : State) (p : Fin 4) (rs : List Rng) : Option Nat :=
  if s.mem.poison.isEmpty then none
  else
    (rs.flatMap (fun r => r.pages.getD [])).eraseDups.findSome? (fun g =>
      (walkReads s.mem p (s.part p).pageTableBase g).findSome? (fun a => s.mem.poisonIn a 8))

/-- The translation of ranges at an admission: with translation off a command that names any faults, whatever their length
(08 Table 8.5). -/
def State.translate (s : State) (p : Fin 4) (rs : List Rng) : Option (List Xlat) :=
  if rs = [] then some []
  else if bit (s.part p).pageTableBase.toNat 0 then s.xlatAll p rs [] else none

/-- Translations enter the partition's cache, and the free choices made are spent.
(Log: DESIGN CHOICE, safe, entry 47.) -/
def State.cacheXlats (s : State) (p : Fin 4) (xs : List Xlat) : State :=
  { s with free := s.free + 2 ^ 31 }.modPart p (fun P =>
    { P with tlb := xs ++ P.tlb.filter (fun (c : Xlat) => !(xs.any (fun x => x.page == c.page))) })

/-! ### Access through translated pages -/

/-- Where a virtual address lies. -/
def locate (xs : List Xlat) (va : Nat) : Option (Bool × Nat) :=
  match xs.find? (fun x => x.page == va / 2 ^ 21) with
  | none => none
  | some x => some (x.host, x.base + va % 2 ^ 21)

/-- A byte read through translations: host pages are read from host memory.
(Log: DEDUCED, unsafe, entry 48.) -/
def State.readVaByte (s : State) (xs : List Xlat) (va : Nat) : Byte :=
  match locate xs va with
  | none => 0
  | some (true, a) => sget 0 s.host a
  | some (false, a) => s.mem.byte a

/-- Bytes read through translations. -/
def State.readVa (s : State) (xs : List Xlat) (va : Nat) : Nat → Bytes
  | 0 => []
  | n + 1 => s.readVaByte xs va :: s.readVa xs (va + 1) n

/-- The first poisoned sector a read of n bytes would meet. -/
def State.poisonVa (s : State) (xs : List Xlat) (va n : Nat) : Option Nat :=
  s.mem.poison.find? (fun sec =>
    xs.any (fun x => !x.host && decide (x.base / 2 ^ 21 = sec * 64 / 2 ^ 21) &&
      (let v := x.page * 2 ^ 21 + sec * 64 % 2 ^ 21
       decide (v < va + n ∧ va < v + 64))))

/-! ### In-place writes and shadows (13 R361 to R364) -/

/-- The listed bytes of a 64 KiB block. -/
def Mem.block (m : Mem) (b : Nat) : List (Nat × Byte) := m.bytes.filter (fun x => x.1 / 65536 == b)

/-- A shadowed block put back (13 R362). -/
def Mem.restoreBlock (m : Mem) (x : Shadow) : Mem :=
  { m with
    bytes := x.bytes.foldl (fun l y => sset 0 l y.1 y.2) (m.bytes.filter (fun y => y.1 / 65536 != x.block)),
    poison := x.poison ++ m.poison.filter (fun sec => decide (sec / 1024 ≠ x.block)) }

/-- Bytes written to device memory that no restore takes back (13 R367): the shadows of the blocks hold them too. -/
def Shadow.patch (a : Nat) (b : Bytes) (x : Shadow) : Shadow :=
  { x with
    bytes := (b.mapIdx (fun k v => (a + k, v))).foldl (fun l y => if y.1 / 65536 = x.block then sset 0 l y.1 y.2 else l) x.bytes,
    poison := x.poison.filter (fun sec => !coversSector a b.length sec) }

/-- Write bytes to device memory under no command: received data and observation records (13 R367, 15 R435).
(Log: DEDUCED, unsafe, entry 99.) -/
def State.writeOutside (s : State) (a : Nat) (b : Bytes) : State :=
  { s with
    mem := s.mem.write a b,
    parts := s.parts.map (fun P => { P with shadows := P.shadows.map (fun x =>
      if a / 65536 ≤ x.block ∧ x.block ≤ (a + b.length) / 65536 then x.patch a b else x) }) }

/-- Shadow blocks in use on a stack, over all partitions (13 R364). -/
def State.shadowsOn (s : State) (stack : Nat) : Nat :=
  (List.finRange 4).foldl (fun n p => n + ((s.part p).shadows.filter (fun x => stackOf (x.block * 65536) == stack)).length) 0

/-- Whether a write by a command to a physical block at virtual bytes [va, va + n) is in place by 13 R361's first two
classes: the command reads those bytes itself, or another command has read the block since the last released cut. -/
def inPlaceRead (P : Part) (q n : Nat) (reads : List (Nat × Nat)) (block va len : Nat) : Bool :=
  reads.any (fun r => decide (va < r.1 + r.2 ∧ r.1 < va + len)) ||
    P.readMarks.any (fun m => decide (m.1 = block ∧ ¬(m.2.1 = q ∧ m.2.2.1 = n)))

/-- Whether a shadow is kept for a thread. -/
def Shadow.keptBy (x : Shadow) (i : Tid) : Bool := x.kept.any (fun k => k.1 == i)

/-- A thread writes over what it read itself: of its block, the open epoch's shadow is kept for it, unless one is already
(13 R363). -/
def Part.keepShadow (P : Part) (block : Nat) (i : Tid) : Part :=
  if P.shadows.any (fun x => x.block == block && x.keptBy i) then P
  else { P with shadows := P.shadows.map (fun x =>
    if x.block = block ∧ x.epoch = P.openEpoch then { x with kept := (i, none) :: x.kept } else x) }

/-- Threads end: the shadows kept for them are freed once the epoch after the one open now is released (13 R363). -/
def Part.freeKeptOf (P : Part) (ended : Tid → Bool) : Part :=
  { P with shadows := P.shadows.map (fun x => { x with kept := x.kept.map (fun k =>
      if ended k.1 ∧ k.2 = none then (k.1, some P.openEpoch) else k) }) }

/-- Shadow a block for the open epoch unless it has a shadow of that epoch (13 R362), and keep that for the thread whose own
reads the write meets (R363).
(Log: DEDUCED, unsafe, entry 53.) -/
def State.shadow (s : State) (p : Fin 4) (block : Nat) (keptFor : Option Tid) : State :=
  let P := s.part p
  let s :=
    if P.shadows.any (fun x => x.block == block && x.epoch == P.openEpoch) then s
    else
      let s := s.tally 3 (stackOf (block * 65536)) 5 1
      s.setPart p { P with shadows :=
        { block := block, bytes := s.mem.block block, poison := s.mem.poison.filter (fun sec => decide (sec / 1024 = block)),
          epoch := P.openEpoch, kept := [] } :: P.shadows }
  match keptFor with
  | none => s
  | some i => s.modPart p (fun P => P.keepShadow block i)

/-- Request a close of a partition's open epoch (13 R356); a request already standing keeps its tick. -/
def Part.requestClose (P : Part) (tick : Nat) : Part :=
  match P.closeRequest with
  | some _ => P
  | none => { P with closeRequest := some tick }

/-- When the free shadow blocks of a stack have fallen to 256, a close of every partition that holds blocks there is
requested (13 R364). -/
def State.lowShadows (s : State) (stack : Nat) : State :=
  if 1024 ≤ s.shadowsOn stack + 256 then
    { s with parts := s.parts.map (fun P =>
      if P.shadows.any (fun x => stackOf (x.block * 65536) == stack) then P.requestClose s.tick else P) }
  else s

/-- A piece of a write within one 64 KiB block. -/
structure Piece where
  va : Nat
  bytes : Bytes

/-- Cut a write at 64 KiB boundaries; fuel bounds the pieces. -/
def pieces : Nat → Nat → Bytes → List Piece
  | 0, _, _ => []
  | _, _, [] => []
  | f + 1, va, b =>
    let k := 65536 - va % 65536
    { va := va, bytes := b.take k } :: pieces f (va + k) (b.drop k)

/-- Who writes: the command, the ranges it reads, whether its rule makes every write in place, and for a thread, which it is
and what it has read itself (13 R363). -/
structure Writer where
  p : Fin 4
  q : Nat
  n : Nat
  reads : List (Nat × Nat)
  always : Bool
  thread : Option Tid
  own : List (Nat × Nat)

/-- Write one piece through a translation: to device memory with its shadow, or staged for the host (13 R367). A piece that
holds whole sectors is remembered until its epoch is released: a replay writes it again. -/
def State.writePiece (s : State) (w : Writer) (xs : List Xlat) (pc : Piece) : State :=
  match locate xs pc.va with
  | none => s
  | some (true, a) =>
    s.modPart w.p (fun P => { P with staged := P.staged ++ [{ epoch := P.openEpoch, device := false, addr := a, bytes := pc.bytes }] })
  | some (false, a) =>
    let block := a / 65536
    let own := w.own.any (fun r => decide (pc.va < r.1 + r.2 ∧ r.1 < pc.va + pc.bytes.length))
    let s := if w.always || inPlaceRead (s.part w.p) w.q w.n w.reads block pc.va pc.bytes.length then
        (s.shadow w.p block (if own then w.thread else none)).lowShadows (stackOf a)
      else s
    { s with mem := s.mem.write a pc.bytes }.modPart w.p (fun P => { P with
      wrote := if 64 ≤ pc.bytes.length then (a, pc.bytes.length, P.openEpoch) :: P.wrote else P.wrote })

/-- Write bytes through translations. -/
def State.writeVa (s : State) (w : Writer) (xs : List Xlat) (va : Nat) (b : Bytes) : State :=
  (pieces (b.length / 65536 + 2) va b).foldl (fun s pc => s.writePiece w xs pc) s

/-- The blocks a write would newly shadow. -/
def State.newBlocks (s : State) (w : Writer) (xs : List Xlat) (va len : Nat) : List Nat :=
  (List.range ((va + len - 1) / 65536 + 1 - va / 65536)).filterMap (fun k =>
    let v := max va ((va / 65536 + k) * 65536)
    let l := min (va + len) ((va / 65536 + k + 1) * 65536) - v
    match locate xs v with
    | some (false, a) =>
      let b := a / 65536
      let P := s.part w.p
      if (w.always || inPlaceRead P w.q w.n w.reads b v l) &&
          !(P.shadows.any (fun x => x.block == b && x.epoch == P.openEpoch)) then some b else none
    | _ => none)

/-- Whether blocks that are newly shadowed find free shadow blocks on every stack (13 R364). -/
def State.roomFor (s : State) (blocks : List Nat) : Bool :=
  (List.range 16).all (fun st =>
    let need := (blocks.eraseDups.filter (fun b => stackOf (b * 65536) == st)).length
    decide (need = 0) || decide (s.shadowsOn st + need ≤ 1024))

/-- Whether the in-place writes of an operation to ranges of bytes find free shadow blocks (13 R364). -/
def State.shadowRoom (s : State) (w : Writer) (xs : List Xlat) (ws : List (Nat × Nat)) : Bool :=
  s.roomFor ((ws.filter (fun r => decide (r.2 ≠ 0))).flatMap (fun r => s.newBlocks w xs r.1 r.2))

/-- The writer of a write that its rule makes in place, or not. -/
def Writer.whose (w : Writer) (inPlace : Bool) : Writer := { w with always := w.always || inPlace }

/-- Whether writes that an engine has to make find free shadow blocks (13 R364). -/
def State.dueRoom (s : State) (w : Writer) (xs : List Xlat) (ws : List (Bool × Nat × Bytes)) : Bool :=
  s.roomFor ((ws.filter (fun d => decide (d.2.2 ≠ []))).flatMap (fun d => s.newBlocks (w.whose d.1) xs d.2.1 d.2.2.length))

/-- Write what an engine has to. -/
def State.writeDue (s : State) (w : Writer) (xs : List Xlat) (ws : List (Bool × Nat × Bytes)) : State :=
  ws.foldl (fun s d => s.writeVa (w.whose d.1) xs d.2.1 d.2.2) s

/-- Write pieces in order up to the first that finds no free shadow block, and what is left (13 R364). -/
def State.piecesUntil (w : Writer) (xs : List Xlat) : List Piece → State → State × List Piece
  | [], s => (s, [])
  | pc :: r, s =>
    if s.roomFor (s.newBlocks w xs pc.va pc.bytes.length) then State.piecesUntil w xs r (s.writePiece w xs pc) else (s, pc :: r)

/-- Write in order up to the first write that finds no free shadow block, and what is left (13 R364). -/
def State.writeUntil (w : Writer) (xs : List Xlat) : List (Bool × Nat × Bytes) → State → State × List (Bool × Nat × Bytes)
  | [], s => (s, [])
  | d :: r, s =>
    match State.piecesUntil (w.whose d.1) xs (pieces (d.2.2.length / 65536 + 2) d.2.1 d.2.2) s with
    | (s, []) => State.writeUntil w xs r s
    | (s, l) => (s, l.map (fun pc => (d.1, pc.va, pc.bytes)) ++ r)

/-- Mark the 64 KiB blocks a command reads, at its admission (13 R361). -/
def State.markReads (s : State) (p : Fin 4) (q n : Nat) (xs : List Xlat) (rs : List Rng) : State :=
  let blocks := (rs.filter (fun r => !r.write && decide (r.len ≠ 0))).flatMap (fun r =>
    let va := r.va.toNat
    (List.range ((va + r.len - 1) / 65536 + 1 - va / 65536)).filterMap (fun k =>
      match locate xs (max va ((va / 65536 + k) * 65536)) with
      | some (false, a) => some (a / 65536, q, n, (s.part p).openEpoch)
      | _ => none))
  s.modPart p (fun P => { P with readMarks := (blocks.filter (fun b => !P.readMarks.contains b)).eraseDups ++ P.readMarks })

end Sys2Proof.Machine
end

