-- ==== Sys2Proof/Machine/Report.lean ====
section
/-! DEFINITION. How the block reports: host writes, MSI-X messages, counters, Peg triggers, trace records, health
records and the replacement request (13 R377, R382; 14 R398, R416, R417; 15 R428, R436 to R444). -/

namespace Sys2Proof.Machine

/-! ### Ports and host memory -/

/-- Port i. -/
def State.port (s : State) (i : Nat) : Port := s.ports.toList.getD i Port.reset

/-- Change port i. -/
def State.modPort (s : State) (i : Nat) (f : Port → Port) : State :=
  if h : i < 32 then { s with ports := s.ports.set i (f s.ports[i]) } else s

/-- Add to a telemetry counter of a port (11 R336: 64 bits, wrapping). -/
def State.tele (s : State) (i : Nat) (k n : Nat) : State := s.modPort i (fun P => P.count k n)

/-- Write bytes to host memory.
(Log: DESIGN CHOICE, safe, entry 141.) -/
def State.hostWrite (s : State) (a : Nat) (b : Bytes) : State := { s with host := swrite s.host a b }

/-- The 64-bit word of host memory at an address.
(Log: DESIGN CHOICE, unsafe, entry 14.) -/
def State.hostWord (s : State) (a : Nat) : Nat := le (sread s.host a 8)

/-- Time passes to a tick that a timed row carries.
(Log: DESIGN CHOICE, unsafe, entry 5.) -/
def State.advance (s : State) (t : Nat) : State := { s with tick := max s.tick t }

/-! ### Functions and MSI-X (14 R398, R417) -/

/-- The function that serves a partition (14 R398). -/
def State.servingFn (s : State) (p : Fin 4) : Fn :=
  if s.hi.vfEnable ∧ p.val < s.hi.numVfs then .vf p else .pf

/-- A number for a function: 0 for the PF, n + 1 for VF n. -/
def fnIndex : Fn → Nat
  | .pf => 0
  | .vf n => n.val + 1

/-- MSI-X vectors of a function (14 Table 14.1). -/
def fnVectors : Fn → Nat
  | .pf => 2048
  | .vf _ => 512

/-- Word k of a function's MSI-X table: four 32-bit words a vector; the fourth has the mask bit, which is 1 until
software clears it.
(Log: PRESUMED, unsafe, entry 18.) -/
def HostIf.msixWord (h : HostIf) (fn : Fn) (k : Nat) : W32 :=
  sget 0 h.msix (fnIndex fn * 2 ^ 16 + k) ^^^ (if k % 4 = 3 then 1 else 0)

/-- Replace word k of a function's MSI-X table. -/
def HostIf.setMsixWord (h : HostIf) (fn : Fn) (k : Nat) (v : W32) : HostIf :=
  { h with msix := sset 0 h.msix (fnIndex fn * 2 ^ 16 + k) (v ^^^ (if k % 4 = 3 then 1 else 0)) }

/-- Whether a vector is masked. -/
def HostIf.masked (h : HostIf) (fn : Fn) (v : Nat) : Bool := (h.msixWord fn (4 * v + 3)).getLsbD 0

/-- Whether a vector's pending bit is set. -/
def HostIf.pendingBit (h : HostIf) (fn : Fn) (v : Nat) : Bool := sget 0 h.msixPending (fnIndex fn * 2 ^ 16 + v) == 1

/-- Set or clear a vector's pending bit. -/
def HostIf.setPending (h : HostIf) (fn : Fn) (v : Nat) (x : Bool) : HostIf :=
  { h with msixPending := sset 0 h.msixPending (fnIndex fn * 2 ^ 16 + v) x.toNat }

/-- The message of a vector leaves. -/
def State.sendMsix (s : State) (fn : Fn) (v : Nat) : State :=
  s.emit (.msix fn v (BitVec.ofNat 64 ((s.hi.msixWord fn (4 * v)).toNat + (s.hi.msixWord fn (4 * v + 1)).toNat * 2 ^ 32))
    (s.hi.msixWord fn (4 * v + 2)))

/-- Whether a function has MSI-X enabled. -/
def HostIf.msixOn (h : HostIf) (fn : Fn) : Bool := bit (sget 0 h.msixControl (fnIndex fn)) 0

/-- Whether all vectors of a function are masked. -/
def HostIf.fnMasked (h : HostIf) (fn : Fn) : Bool := bit (sget 0 h.msixControl (fnIndex fn)) 1

/-- Raise a vector: masked, alone or with its function, it becomes pending (14 R417); a function that has not enabled MSI-X sends
nothing.
(Log: PRESUMED, unsafe, entry 18.) -/
def State.raiseMsix (s : State) (fn : Fn) (v : Nat) : State :=
  if !s.hi.msixOn fn then s
  else if s.hi.fnMasked fn || s.hi.masked fn v then { s with hi := s.hi.setPending fn v true } else s.sendMsix fn v

/-- Log an error of a function through AER. -/
def State.aer (s : State) (p : Fin 4) : State := s.emit (.aer (s.servingFn p) p.val)

/-! ### Transmission on a port (10 R289; 11 R300, R306) -/

/-- Whether a port can be reached: the Seam of its Velac die is not down (10 R289). -/
def State.reachable (s : State) (i : Nat) : Bool := !(s.seams.toList.getD (8 + i / 8) Seam.reset).down

/-- Whether a port carries traffic: it is UP and can be reached. -/
def State.portUp (s : State) (i : Nat) : Bool := decide (i < 32) && (s.port i).state == .up && s.reachable i

/-- Whether a packet that begins to leave now is flagged POST_CUT (15 R444). -/
def State.postCutNow (s : State) : Bool := s.obs.peg.open_ && decide (s.obs.peg.t ≤ s.tick)

/-- The copy of the time base of a die: 0 Colxis, 1 to 4 compute, 5 to 8 Velac (16 R452). -/
def State.dieTick (s : State) (die : Nat) : Nat := ((s.tick : Int) + s.life.dieOffsets.toList.getD die 0).toNat

/-- The tick that port i stamps: its Velac die's (11 R334). -/
def State.portTick (s : State) (i : Nat) : Nat := s.dieTick (5 + i / 8)

/-- A port sends what it can: frames, and in them the packets that begin. -/
def State.pump (s : State) (i : Nat) : State :=
  if s.portUp i then
    let (P, fs, pkts) := (s.port i).pump s.tick (s.portTick i) s.postCutNow (s.fab.shares i) 1024 [] []
    let s := pkts.foldl (fun s x => s.emit (.packet i x)) (s.modPort i (fun _ => P))
    fs.foldl (fun s f => s.emit (.frame i f)) s
  else s

/-- A packet goes to a port's egress. -/
def State.transmit (s : State) (i : Nat) (pkt : Packet) : State := (s.modPort i (fun P => P.queue s.tick pkt)).pump i

/-- Send a control packet on every UP port but one. -/
def State.flood (s : State) (kind : Nat) (payload : Bytes) (except : Option Nat) : State :=
  (List.range 32).foldl (fun s i =>
    if s.portUp i && except != some i then
      s.transmit i (controlPacket kind (s.port i).partnerEndpoint s.fab.endpoint payload)
    else s) s

/-! ### Peg triggers (15 R441, R442, R446) -/

/-- The payload of a PEG packet (15 Table 15.10). -/
def pegPayload (t origin id mode hops : Nat) : Bytes :=
  toLe 8 t ++ toLe 2 (origin % 2 ^ 14) ++ toLe 2 id ++ toLe 1 mode ++ toLe 1 hops ++ zeros 18

/-- What each port counts as EARLY_POST_CUT of the current or last Peg (15 R445), its packets at the port's number and their bytes
at 32 + it: the packets with POST_CUT that arrived before the package's own T, and no more than 20 ns before the T carried.
(Log: DESIGN CHOICE, safe, entry 110.) -/
def Peg.earlyPort (g : Peg) : SMap Nat :=
  (g.flagged.filter (fun x => decide (x.1 < g.t) && decide (g.carried ≤ x.1 + 20))).foldl (fun m x =>
    sset 0 (sset 0 m x.2.1 (sget 0 m x.2.1 + 1)) (32 + x.2.1) (sget 0 m (32 + x.2.1) + x.2.2)) []

/-- Whether a port counted one (15 Table 15.20, EARLY_POST_CUT). -/
def Peg.early (g : Peg) : Bool := !g.earlyPort.isEmpty

/-- The Peg that opens takes the flagged packets of an earlier one out.
(Log: DESIGN CHOICE, safe, entry 110.) -/
def Peg.fresh (g : Peg) (carried : Nat) : List (Nat × Nat × Nat) := g.flagged.filter (fun x => decide (carried ≤ x.1 + 20))

/-- Trigger a Peg (15 R441): with a window open, the trigger is ignored and noted (R442). Every Peg triggered here
takes the next id of the package's own sequence.
(Log: DEDUCED, unsafe, entry 109.) -/
def State.pegTrigger (s : State) (source : Nat) (halt fabric : Bool) (issuer : BitVec 4) (cause : Option Cid) : State :=
  let g := s.obs.peg
  if g.open_ then { s with obs := { s.obs with peg := { g with ignored := true } } }
  else
    let t := s.tick + if fabric then 8192 else 2048
    let id := g.lastId + 1
    let g := { g with
      id := id, origin := s.fab.endpoint, lastId := id, open_ := true, t := t, carried := t, closeAt := t + 1000000,
      halt := halt, fabric := fabric, issuer := issuer, cause := cause,
      tags := ((cause.bind s.entry).map (fun e => e.cmd.take 14)).getD [], captured := false, flagged := g.fresh t,
      source := BitVec.ofNat 4 source, late := false, image := [], drifts := [], inFlight := [],
      accepted := if fabric then (s.fab.endpoint, id.toNat) :: g.accepted else g.accepted }
    let s := { s with obs := { s.obs with peg := g } }
    if fabric then s.flood 0x14 (pegPayload t s.fab.endpoint id.toNat halt.toNat 0) none else s

/-- Fire the armed match when it is set to a source and its condition holds (15 Table 15.21). -/
def State.pegMatch (s : State) (source : Nat) (hit : Nat → Bool) : State :=
  let m := s.obs.pegMatch.toNat
  if bit m 29 && decide (fld m 0 2 = source) && hit m then
    { s with obs := { s.obs with pegMatch := BitVec.ofNat 32 (setFld m 29 1 0) } }.pegTrigger 3 (bit m 2) (bit m 3) 0 none
  else s

/-! ### Counters (15 R428 to R430) -/

/-- Whether a programmable counter counts an event of a command (15 R430). -/
def progCounts (sel filter : W32) (event : Nat) (cmd : Option Bytes) : Bool :=
  let x := sel.toNat
  decide (fld x 0 8 = event) &&
    (decide (fld x 8 4 = 0) ||
      match cmd with
      | none => false
      | some c => bit (fld x 8 4) (cmdPass c) && (!bit x 12 || decide (at_ c 8 2 = fld filter.toNat 0 16)) &&
          (!bit x 13 || decide (at_ c 10 2 = fld filter.toNat 16 16)))

/-- Core events whose count is a count of cycles or of what the model does not time (15 Table 15.3).
(Log: DEDUCED, unsafe, entry 34.) -/
def eventTimed (event : Nat) : Bool := [1, 3, 4, 6, 7, 12, 13, 15, 16, 17].contains event

/-- Whether a counter of Table 15.2 rises by what the model does not time: cycles, busy time, memory traffic, corrections of
accesses (15 R428). -/
def counterDrifts (cls idx : Nat) : Bool :=
  match cls with
  | 0 => decide (idx = 3 ∨ idx = 4)
  | 2 => decide (idx = 2)
  | 3 => decide (idx ≤ 1 ∨ idx = 3)
  | 4 => decide (idx = 2)
  | _ => false

/-- Whether the clock of a unit ran in a span. -/
def Drift.runs (d : Drift) (cls unit : Nat) : Bool :=
  match cls with
  | 0 => !d.dies.getLsbD (unit / 320) && !d.cores.contains unit
  | 2 => !d.dies.getLsbD unit
  | 3 | 4 => !d.failed.getLsbD unit
  | 5 => !d.seams.getLsbD unit
  | 7 => !d.ports.getLsbD unit
  | _ => true

/-- What a counter of a unit rose by in a span; place 63 is the unit's cycle counter, of a clock of at most 2 GHz (15 R426;
16 Table 16.1), which CYCLES of a core or die reads. RUN_TICKS counts the ticks with the clock running. -/
def Drift.rise (d : Drift) (cls unit idx : Nat) : Nat :=
  let amount (k : Nat) : Nat := (Config.freeWord (d.free + ctrKey cls unit k)).toNat
  if !d.runs cls unit then 0
  else if idx = 63 ∨ ((cls = 0 ∨ cls = 2) ∧ idx = 0) then amount 63 % (2 * d.ticks + 2)
  else if (cls = 0 ∨ cls = 2) ∧ idx = 1 then d.ticks
  else if cls = 0 ∧ 5 ≤ idx ∧ d.progs.any (fun x => decide (x.1 + 5 = idx) && x.2.getLsbD unit) = true then amount idx
  else if counterDrifts cls idx then amount idx
  else 0

/-- A counter: what the model counted, and what it rose by in the spans (15 R428: 64 bits, wrapping). -/
def counterOf (count : SMap Nat) (drifts : List Drift) (cls unit idx : Nat) : Nat :=
  drifts.foldl (fun n d => (n + d.rise cls unit idx) % 2 ^ 64) (sget 0 count (ctrKey cls unit idx))

/-- A counter now. -/
def State.counter (s : State) (cls unit idx : Nat) : Nat := counterOf s.obs.count s.obs.drifts cls unit idx

/-- A match on PROG n of a core fires when its count passes from below the match value (15 Table 15.21). -/
def State.progMatch (s : State) (hit : Nat → Nat → Bool) (was : Nat) : State :=
  s.pegMatch 3 (fun m => hit (fld m 14 4) (fld m 18 11) && decide (was < s.obs.pegMatchValue.toNat) &&
    decide (s.obs.pegMatchValue.toNat ≤ s.counter 0 (fld m 18 11) (5 + fld m 14 4)))

/-- k occurrences of a core event (15 Table 15.3) on a logical core of partition p, caused by a command or by none;
a programmable counter that reaches the match value fires the match (15 Table 15.21).
(Log: DEDUCED, unsafe, entry 34.) -/
def State.coreEvent (s : State) (p : Fin 4) (core event k : Nat) (cmd : Option Bytes) : State :=
  let P := s.part p
  (List.range 16).foldl (fun s n =>
    if progCounts (sget 0 P.obsSelInForce n) P.obsFilterInForce event cmd && decide (0 < k) then
      let was := s.counter 0 core (5 + n)
      (s.tally 0 core (5 + n) k).progMatch (fun m c => decide (m = n) && decide (c = core)) was
    else s) s

/-- An occurrence that an operation of a thread causes, kept with the thread under `key` so that a rebuild counts it again
(15 R429). -/
def State.threadEvent (s : State) (i : Tid) (key core event k : Nat) (cmd : Bytes) : State :=
  (s.coreEvent i.cid.p core event k (some cmd)).modThread i (fun h => { h with events := sset 0 h.events key (sget 0 h.events key + k) })

/-- Whether a selection counts a timed event at all: with PASS_MASK set a sweep must have caused it that the filter passes, and
cycles with no resident thread no command causes (15 R430, Table 15.3 event 17). A partition's sweeps that have started are in
its queues at every span's end.
(Log: DEDUCED, unsafe, entry 34.) -/
def Part.timedBy (P : Part) (sel : W32) : Bool :=
  let event := fld sel.toNat 0 8
  eventTimed event && (decide (fld sel.toNat 8 4 = 0) || decide (event ≠ 17) && P.queues.any (fun q => q.2.entries.any (fun e =>
    decide (cmdKind e.cmd = 0x01) && (decide (e.phase ≠ .waiting) || e.replayed) &&
      progCounts sel P.obsFilterInForce event (some e.cmd))))

/-- The programmable counters that count what the model does not time, each with the cores of its partition.
(Log: DEDUCED, unsafe, entry 34.) -/
def State.timedProgs (s : State) : List (Nat × BitVec 1280) :=
  s.parts.toList.flatMap (fun P => (P.obsSelInForce.filter (fun x => P.timedBy x.2)).map (fun x => (x.1, P.cores)))

/-- The logical cores whose clocks are gated: vacated for a self-test or a partial reset (15 Table 15.1).
(Log: DESIGN CHOICE, safe, entry 107; DESIGN CHOICE, unsafe, entry 152.) -/
def Cores.gated (k : Cores) : List Nat :=
  (k.background.filter (fun b => b.started && (decide (b.target ≤ 1) || decide (b.target = 4)))).map (·.index)

/-- The streams of ports that have had a frame queued since the counters last rose, as 16 × port + stream. -/
def State.queuedSlots (s : State) : List Nat :=
  (List.range 32).flatMap (fun i =>
    let P := s.port i
    (P.depthSince.filter (fun x => decide (s.obs.driftAt < x.2) || decide (P.depth x.1 ≠ 0))).map (fun x => 16 * i + x.1))

/-- The counters that the model does not time rise, over the time since they last did: the clocks of the dies given stood still,
those of gated cores, of failed stacks, of Seams that carry no flits and of ports that are not UP as well; a port's slot that
had no frame queued did not stall.
(Log: DEDUCED, unsafe, entry 34; DESIGN CHOICE, safe, entry 107.) -/
def State.driftWith (s : State) (dies : BitVec 4) : State :=
  if s.tick ≤ s.obs.driftAt then s
  else
    let m := s.obs.pegMatch.toNat
    let was := s.counter 0 (fld m 18 11) (5 + fld m 14 4)
    let d : Drift :=
      { free := s.free, ticks := s.tick - s.obs.driftAt, dies := dies, failed := s.mem.failed,
        seams := (BitVec.ofBoolListLE (s.seams.toList.map (fun x => !x.linkUp))).setWidth 12,
        ports := (BitVec.ofBoolListLE ((List.range 32).map (fun i => !s.portUp i))).setWidth 32,
        cores := s.cores.gated, progs := s.timedProgs, queued := s.queuedSlots,
        off := (BitVec.ofBoolListLE ((List.range 32).map (fun i =>
          decide ((s.port i).state = .disabled ∨ (s.port i).state = .lost)))).setWidth 32 }
    { s with
      free := s.free + 2 ^ 24, obs := { s.obs with drifts := d :: s.obs.drifts, driftAt := s.tick } }.progMatch (fun _ _ => true) was

/-- They rise with every clock that runs running: before an image, a trace record or a change of what they count. -/
def State.drift (s : State) : State := s.driftWith 0

/-- What a port's FEC or stall counter, at a place of its telemetry block, rose by, up to now (11 R336): codewords come on a
port that is neither DISABLED nor LOST, and a stream stalls only with a frame queued.
(Log: DESIGN CHOICE, safe, entry 83.) -/
def State.portDrift (s : State) (i place : Nat) : Nat :=
  s.drift.obs.drifts.foldl (fun n d =>
    if d.off.getLsbD i || (decide (16 ≤ place) && !d.queued.contains (16 * i + (place - 16))) then n
    else (n + (Config.freeWord (d.free + ctrKey 8 i place)).toNat) % 2 ^ 64) 0

/-! ### Occurrences counted in a command -/

/-- Count occurrences in the named command: one selected for a record fires a match on its kind. -/
def State.note (s : State) (c : Cid) (xs : List Exc) : State :=
  let s := s.modQueue c.p c.q (fun Q => Q.note c.n xs)
  xs.foldl (fun s x => s.pegMatch 2 (fun m => decide (fld m 4 8 = x.kind) && decide (fld m 12 2 = c.p.val))) s

/-! ### Trace records (15 R436 to R439) -/

/-- What is spent of a stack's observation bucket, in thousandths of a token, refilled to now (15 R439). -/
def State.bucket (s : State) (stack : Nat) : Nat :=
  let (spent, at') := sget (0, 0) s.obs.buckets stack
  spent - fld s.obs.cfg.toNat 0 5 * 3072 * (s.tick - at')

/-- Every bucket is settled at the rate in force, before HBM_CAP changes (15 R439). -/
def State.settleBuckets (s : State) : State :=
  { s with obs := { s.obs with buckets := s.obs.buckets.foldl (fun m x =>
      if x.2.2 ≤ s.tick then sset (0, 0) m x.1 (s.bucket x.1, s.tick) else m) s.obs.buckets } }

/-- Take tokens from a stack's bucket when it holds them. -/
def State.takeTokens (s : State) (stack n : Nat) : Option State :=
  let spent := s.bucket stack + n * 1000
  if spent ≤ 65536000 ∧ (sget (0, 0) s.obs.buckets stack).2 ≤ s.tick then
    some { s with obs := { s.obs with buckets := sset (0, 0) s.obs.buckets stack (spent, s.tick) } }
  else none

/-- The device address of an observation region's byte, by the page tables in force. -/
def State.obsAddr (s : State) (p : Fin 4) (va : Nat) : Option Nat :=
  match s.pageXlat p (va / 2 ^ 21) with
  | none => none
  | some x => if !x.host && s.mem.allowed p x true && bit (s.part p).pageTableBase.toNat 0 then some (x.base + va % 2 ^ 21) else none

/-- Write bytes to an observation region: no shadow, no poison left (15 R435). -/
def State.obsWrite (s : State) (pa : Nat) (b : Bytes) : State :=
  (s.writeOutside pa b).tally 3 (stackOf pa) 7 b.length

/-- Count a trace record dropped. -/
def State.traceDrop (s : State) (p : Fin 4) : State :=
  (s.modPart p (fun P => { P with traceDrops := P.traceDrops + 1 })).tally 1 p.val 3 1

/-- Put one 32-byte record into the trace region of p, if its bucket and the region's mode allow (15 R438, R439). -/
def State.tracePut (s : State) (p : Fin 4) (r : Bytes) : Option State :=
  let P := s.part p
  let n := 2 ^ (15 + fld P.obsCfg.toNat 8 4)
  let k := P.traceWritten
  let unstreamed := decide (n ≤ k - P.traceStreamed)
  if bit P.obsCfg.toNat 7 && unstreamed then none
  else
    match s.obsAddr p (P.obsTraceBase.toNat + 32 * (k % n)) with
    | none => none
    | some pa =>
      match s.takeTokens (stackOf pa) 32 with
      | none => none
      | some s =>
        let lost := unstreamed && decide (fld P.obsStreamCfg.toNat 0 2 ≠ 0)
        let s := s.modPart p (fun P => { P with
          traceWritten := k + 1, traceStreamed := if unstreamed then k + 1 - n else P.traceStreamed })
        let s := (s.obsWrite pa r).tally 1 p.val 2 1
        some (if lost then s.tally 1 p.val 5 1 else s)

/-- The bytes of a trace record (15 Table 15.6); `tags` are its bytes 0x08 to 0x15, `cycle` the unit's cycle counter. -/
def traceBytes (cycle tick kind : Nat) (after replayed : Bool) (tags : Bytes) (unit data : Nat) : Bytes :=
  toLe 8 tick ++ fit 14 tags ++ toLe 1 (kind + (if after then 64 else 0) + (if replayed then 128 else 0)) ++ [0] ++
    toLe 4 cycle ++ toLe 2 unit ++ toLe 2 data

/-- UNIT of a record (15 Table 15.7). -/
def unitOf (cls idx : Nat) : Nat := cls * 4096 + idx % 4096

/-- The cycle counter of the unit that a record names. -/
def State.cycle (s : State) (unit : Nat) : Nat := s.counter (unit / 4096) (unit % 4096) 63

/-- The DROPPED record of a partition, once tokens have returned (15 R439, Table 15.8): none when nothing was dropped or there
are no tokens yet. -/
def State.dropped (s : State) (p : Fin 4) : Option State :=
  let drops := (s.part p).traceDrops
  if drops = 0 then none
  else (s.tracePut p (traceBytes (s.cycle (unitOf 1 p.val)) s.tick 8 false false (toLe 8 drops) (unitOf 1 p.val) 0)).map
    (fun s => s.modPart p (fun P => { P with traceDrops := 0 }))

/-- Time has passed: a partition in Tracing whose records were dropped writes its DROPPED record when tokens have returned. -/
def State.retryDropped (s : State) (p : Fin 4) : State :=
  if (s.part p).obsMode ≠ 2 ∨ (s.part p).traceDrops = 0 then s else let s := s.drift; (s.dropped p).getD s

/-- Write a trace record in a partition in Tracing: after drops, a DROPPED record goes first (15 Table 15.8).
(Log: DEDUCED, unsafe, entry 112.) -/
def State.trace (s : State) (p : Fin 4) (tick kind : Nat) (after replayed : Bool) (tags : Bytes) (unit data : Nat) : State :=
  if (s.part p).obsMode ≠ 2 then s
  else
    let s := s.drift
    match (if (s.part p).traceDrops = 0 then some s else s.dropped p) with
    | none => s.traceDrop p
    | some s =>
      match s.tracePut p (traceBytes (s.cycle unit) tick kind after replayed tags unit data) with
      | none => s.traceDrop p
      | some s => s

/-- CMD_BEGIN or CMD_END of a command (15 R437). -/
def State.traceCmd (s : State) (c : Cid) (kind : Nat) : State :=
  match s.entry c with
  | none => s
  | some e =>
    if bit (s.part c.p).obsCfg.toNat 6 then s.trace c.p s.tick kind e.afterCut e.replayed e.cmd (unitOf 1 c.p.val) c.q
    else s

/-- THREAD_BEGIN or THREAD_END of a sampled thread (15 R437); `ctx` is its context on the core. -/
def State.traceThread (s : State) (c : Cid) (kind t core ctx : Nat) : State :=
  match s.entry c with
  | none => s
  | some e =>
    let k := fld (s.part c.p).obsCfg.toNat 2 4
    if k ≠ 15 ∧ t % 2 ^ k = 0 then s.trace c.p s.tick kind e.afterCut e.replayed e.cmd (unitOf 0 core) (ctx % 1024)
    else s

/-- A clock region of the given unit stopped at `stop` and restarts now: its record goes to the partitions given
(15 R427). -/
def State.clockStop (s : State) (unit stop : Nat) (who : Fin 4 → Bool) : State :=
  (List.finRange 4).foldl (fun s p => if who p then s.trace p stop 7 false false (toLe 8 s.tick) unit 0 else s) s

/-! ### Lifetime records (16 R470, R471) -/

/-- Seconds of the calendar now (16 Table 16.16). -/
def State.calendarSeconds (s : State) : Nat :=
  if s.life.calendarKnown then (s.life.calendarBase + (s.tick - s.life.calendarAt) / 1000000000) % 2 ^ 63 else 0

/-- POWER_ON_MINUTES: minutes with VIN_MAIN good. -/
def Life.powerOnMinutes (l : Life) : Nat := sget 0 l.wearNow 4096 / 60

/-- LIFE_CALENDAR. -/
def State.calendar (s : State) : Nat := s.calendarSeconds + (if s.life.calendarKnown then 2 ^ 63 else 0)

/-- The region of the log that takes a kind of record (16 Table 16.12). -/
def recordRegion (kind : Nat) : Nat :=
  match kind with
  | 3 => 2
  | 4 | 5 => 1
  | 6 => 3
  | _ => 4

/-- The log a record belongs to: its region, and in the HBM row history its stack; the REPLACEMENT log is none. -/
def logOf (x : Nat × Bytes) : Option (Nat × Nat) :=
  if at_ x.2 0x0C 1 = 7 then none else some (x.1, if x.1 = 1 then at_ x.2 0x0D 1 else 0)

/-- Bytes of a log (16 Table 16.12).
(Log: DESIGN CHOICE, safe, entry 115.) -/
def logSize (region : Nat) : Nat := if region = 4 then 2 ^ 20 else 2 ^ 19

/-- Overwrite the oldest records of a log until `need` bytes are free. -/
def dropOldest (log : Option (Nat × Nat)) : Nat → List (Nat × Bytes) → List (Nat × Bytes)
  | _, [] => []
  | need, x :: r =>
    if need = 0 then x :: r
    else if logOf x = log then dropOldest log (need - x.2.length) r
    else x :: dropOldest log need r

/-- Append a record to its log.
(Log: DESIGN CHOICE, safe, entry 115.) -/
def appendRecord (l : List (Nat × Bytes)) (x : Nat × Bytes) : List (Nat × Bytes) :=
  let used := (l.filter (fun y => decide (logOf y = logOf x))).foldl (fun n y => n + y.2.length) 0
  if (logOf x).isNone then
    (if 512 ≤ (l.filter (fun y => decide (logOf y = none))).length then l else l ++ [x])
  else dropOldest (logOf x) (used + x.2.length - logSize x.1) l ++ [x]

/-- Append a lifetime record (16 Table 16.13); the REPLACEMENT log keeps its first 512 records, the others overwrite
their oldest. -/
def State.lifeRecord (s : State) (kind die : Nat) (body : Bytes) : State :=
  let body := body.take 240
  let r := toLe 8 s.calendar ++ toLe 4 s.life.powerOnMinutes ++ toLe 1 kind ++ toLe 1 die ++ toLe 2 body.length ++ body
  { s with life := { s.life with records := appendRecord s.life.records (recordRegion kind, r) } }

/-- A record of what happened, in a body whose layout is free.
(Log: DESIGN CHOICE, safe, entry 115.) -/
def State.lifeNote (s : State) (kind die : Nat) (facts : List Nat) : State :=
  s.lifeRecord kind die (Config.recordBody kind facts)

/-! ### Health records (13 R377, R382; 14 R416, R417) -/

/-- A health record (13 Table 13.7). -/
structure Health where
  kind : Nat
  cause : Nat
  parts : Nat
  flags : Nat
  unit : Nat
  spare : Nat
  tick : Nat
  epoch : Nat
  recovery : Nat
  chunk : Nat
  addr : Nat
  vaddr : Nat
  cmd : Nat
  queue : Nat
  reasons : Nat

/-- A record of a kind with nothing else said. -/
def Health.plain (kind cause parts unit tick : Nat) : Health :=
  { kind := kind, cause := cause, parts := parts, flags := 0, unit := unit, spare := 0, tick := tick, epoch := 0,
    recovery := 0, chunk := 0xFFFFFFFF, addr := 0, vaddr := 0, cmd := 0, queue := 0, reasons := 0 }

/-- Its 64 bytes. -/
def Health.bytes (h : Health) : Bytes :=
  toLe 1 h.kind ++ toLe 1 h.cause ++ toLe 1 h.parts ++ toLe 1 h.flags ++ toLe 2 h.unit ++ toLe 2 h.spare ++
    toLe 8 h.tick ++ toLe 8 h.epoch ++ toLe 4 h.recovery ++ toLe 4 h.chunk ++ toLe 8 h.addr ++ toLe 8 h.vaddr ++
    toLe 4 h.cmd ++ toLe 2 h.queue ++ toLe 2 h.reasons ++ zeros 8

/-- Records of a ring of a LOG2_M6 code. -/
def ringSize (log2m6 : Nat) : Nat := 2 ^ (6 + log2m6)

/-- Write the partition's status line (14 Table 14.16); a base of 0 sets none up. -/
def State.statusLine (s : State) (p : Fin 4) : State :=
  let P := s.part p
  if P.statusLineBase = 0 then s
  else s.hostWrite P.statusLineBase.toNat
    (toLe 8 P.excWritten ++ toLe 8 P.excDrops ++ toLe 8 P.healthWritten ++ toLe 8 P.healthDrops ++ zeros 32)

/-- A record goes to the health ring of p: dropped and counted when the ring is off or full (14 R416); none is
written while the partition resets (14 R423). -/
def State.healthPart (s : State) (p : Fin 4) (b : Bytes) : State :=
  let P := s.part p
  let cfg := P.healthRingCfg.toNat
  if P.state = .resetting then s
  else
    let used := s.hostWord (P.doorbellBase.toNat + 16)
    let size := ringSize (fld cfg 0 4)
    let P := { P with healthConsumed := used }
    if !bit cfg 4 || decide (size ≤ P.healthWritten - used) then
      (s.setPart p { P with healthDrops := P.healthDrops + 1 }).statusLine p
    else
      let s := s.setPart p { P with healthWritten := P.healthWritten + 1 }
      ((s.hostWrite (P.healthRingBase.toNat + 64 * (P.healthWritten % size)) b).statusLine p).raiseMsix
        (s.servingFn p) (fld cfg 5 11)

/-- Write the package status line. -/
def State.pkgStatusLine (s : State) : State :=
  if s.hi.pkgStatusLine = 0 then s
  else s.hostWrite s.hi.pkgStatusLine.toNat
    (zeros 16 ++ toLe 8 s.hi.pkgHealthWritten ++ toLe 8 s.hi.pkgHealthDrops ++ zeros 32)

/-- A record goes to the package health ring of the PF. -/
def State.healthPkg (s : State) (b : Bytes) : State :=
  let h := s.hi
  let cfg := h.pkgHealthCfg.toNat
  let used := s.hostWord h.pkgHealthHead.toNat
  let size := ringSize (fld cfg 0 4)
  let h := { h with pkgHealthConsumed := used }
  if !bit cfg 4 || decide (size ≤ h.pkgHealthWritten - used) then
    { s with hi := { h with pkgHealthDrops := h.pkgHealthDrops + 1 } }.pkgStatusLine
  else
    let s := { s with hi := { h with pkgHealthWritten := h.pkgHealthWritten + 1 } }
    (s.hostWrite (h.pkgHealthBase.toNat + 64 * (h.pkgHealthWritten % size)) b).pkgStatusLine.raiseMsix .pf (fld cfg 5 11)

/-- Write a health record to the rings it names, and fire a match on its kind (13 R377; 14 R416; 15 Table 15.21). -/
def State.health (s : State) (h : Health) : State :=
  let s := (List.finRange 4).foldl (fun s p => if bit h.parts p.val then s.healthPart p h.bytes else s) s
  (s.healthPkg h.bytes).pegMatch 1 (fun m => decide (fld m 4 8 = h.kind))

/-- Set reason bits of HLTH_REPLACE_REQUEST; newly set ones write a REPLACEMENT record (13 R382). -/
def State.replace (s : State) (cause : Nat) (reasons : W32) : State :=
  let new := reasons &&& ~~~s.cores.replaceRequest
  if new = 0 then s
  else
    let s := { s with cores := { s.cores with replaceRequest := s.cores.replaceRequest ||| new } }.lifeNote 7 0 [cause, new.toNat]
    s.health { Health.plain 6 cause 0 0 s.tick with reasons := new.toNat }

end Sys2Proof.Machine
end

