-- ==== Sys2Proof/Machine/Array.lean ====
section
/-! DEFINITION. The tensor array: operands, chunk sums, accumulator tiles, and the operations ARRAY_LOAD_B,
ARRAY_MMA and ACC_INIT (06_tensor_array R165 to R187). -/

namespace Sys2Proof.Machine

/-! ### Operands (06 R166, R169; Tables 6.3, 6.4, 6.6, 6.8) -/

/-- Row pitch P of a local tile (06 Table 6.4). -/
def rowPitch (d : Nat) : Nat :=
  match elemBits d with
  | 2 => 16 | 3 => 32 | 4 => 32 | 6 => 64 | 8 => 64 | 16 => 128 | 32 => 256 | _ => 512

/-- Size of a local tile (06 Table 6.3). -/
def localTileSize (d budget : Nat) : Nat :=
  64 * rowPitch d + (if isMx d then 128 else 0) + (if d = 0x0D then 4 * budget else 0)

/-- An operand descriptor read from its slot (06 Table 6.8). -/
structure Operand where
  fmt : Nat
  trans : Bool
  budget : Nat
  data : Nat
  stride : Nat
  book : Bytes
deriving DecidableEq, Repr

/-- The descriptor of a slot, with the codebook read once as the operation starts (06 R170). -/
def operandOf (h : Thread) (slot : Bytes) : Operand :=
  let fmt := at_ slot 0 1
  { fmt := fmt, trans := bit (at_ slot 1 1) 0, budget := at_ slot 2 1, data := at_ slot 4 4, stride := at_ slot 8 4,
    book := if isBook fmt then h.lsRead (at_ slot 12 4) 8 else [] }

/-- A local tile as read: its row slots, scales and the patches in force. -/
structure LTile where
  rows : List Bytes
  scales : Bytes
  patches : List (Nat × Nat)

/-- Patch words of a byte string. -/
def patchWords : Nat → Bytes → List Nat
  | 0, _ => []
  | n + 1, l => le (l.take 4) :: patchWords n (l.drop 4)

/-- Read local tile number `t` of an operand. -/
def readTile (h : Thread) (o : Operand) (t : Nat) : LTile :=
  let base := o.data + t * o.stride
  let P := rowPitch o.fmt
  { rows := (List.range 64).map (fun r => h.lsRead (base + r * P) (8 * elemBits o.fmt)),
    scales := if isMx o.fmt then h.lsRead (base + 64 * P) 128 else [],
    patches := if o.fmt = 0x0D then livePatches (patchWords o.budget (h.lsRead (base + 64 * P + 128) (4 * o.budget))) none
      else [] }

/-- An element as stored: its code for the records (R491: bit 8 set for a patch) and its expanded value. -/
structure Elem where
  code : Nat
  val : Val
deriving DecidableEq, Repr

/-- Element (row, col) of a local tile (06 R170, 05 R134, R135, R140). -/
def tileElem (o : Operand) (t : LTile) (row col : Nat) : Elem :=
  match t.patches.find? (fun x => x.1 == 64 * row + col) with
  | some (_, v) => { code := 256 + v, val := FFmt.e4m3.decode v }
  | none =>
    let c := packedCode (elemBits o.fmt) (t.rows.getD row []) col
    { code := c, val := codeVal o.fmt o.book c }

/-- Whether an operand's blocks lie along K (06 Table 6.6): A untransposed, B transposed. -/
def Operand.alongK (o : Operand) (isA : Bool) : Bool := if isA then !o.trans else o.trans

/-- The element of an operand at line `i` (row of A, column of B) and local k within its tile. -/
def Operand.elem (o : Operand) (isA : Bool) (t : LTile) (i k : Nat) : Elem :=
  if o.alongK isA then tileElem o t i k else tileElem o t k i

/-- The scale exponent of a chunk (06 R169, 03 R86, 05 R141): along K the one block's; across K the common code. -/
inductive ChunkScale where
  | exp (k : Int)
  | nan
  | differ (a b : Nat)
deriving DecidableEq, Repr

/-- The common code of crossed blocks: the first code that is not 0xFF, and the first later one that differs. -/
def commonScale : List Nat → Option Nat → Bool → ChunkScale
  | [], first, sawNan =>
    match first with
    | none => if sawNan then .nan else .exp 0
    | some c => if sawNan then .nan else .exp ((c : Int) - 127)
  | c :: r, first, sawNan =>
    if c = 0xFF then commonScale r first true
    else
      match first with
      | none => commonScale r (some c) sawNan
      | some a => if a = c then commonScale r first sawNan else .differ a c

/-- The scale of a chunk for line `i`, terms k₀ to k₀ + n − 1 of the tile. -/
def Operand.chunkScale (o : Operand) (isA : Bool) (t : LTile) (i k0 n : Nat) : ChunkScale :=
  if !isMx o.fmt then .exp 0
  else if o.alongK isA then
    match e8m0 (t.scales.getD (2 * i + k0 / 32) 0).toNat with
    | none => .nan
    | some k => .exp k
  else commonScale ((List.range n).map (fun j => (t.scales.getD (2 * (k0 + j) + i / 32) 0).toNat)) none false

/-! ### The chunk sum of one output element (03 R83 to R86, 05 R141) -/

/-- Operand classes (03 Table 3.2). -/
inductive OpClass where
  | exact8 | integer | windowed (f : FFmt)
deriving DecidableEq, Repr

/-- The class of a pairing; none for a pairing that 03 R80 does not allow. -/
def classOf (a b : Nat) : Option OpClass :=
  let narrow (d : Nat) : Bool := decide (d = 5 ∨ d = 6 ∨ (8 ≤ d ∧ d ≤ 15))
  let int (d : Nat) : Bool := decide (d = 0x10 ∨ d = 0x11)
  if narrow a && narrow b then some .exact8
  else if int a && int b then some .integer
  else if a = b then
    match a with
    | 1 => some (.windowed .fp64)
    | 2 => some (.windowed .fp32)
    | 3 => some (.windowed .bf16)
    | 4 => some (.windowed .fp16)
    | _ => none
  else none

/-- The window of a class: none where the sum is exact. -/
def OpClass.window : OpClass → Option Nat
  | .windowed f => some f.window
  | _ => none

/-- Products of a chunk with their invalid-product occurrences (kind 1), terms in order from position `pos`. -/
def products (c : Nat) : Nat → List (Elem × Elem) → List Val × List Evt
  | _, [] => ([], [])
  | pos, (a, b) :: r =>
    let (v, bad) := mulVal a.val b.val
    let (vs, es) := products c (pos + 1) r
    (v :: vs, if bad then { kind := 1, chunk := c, term := pos, a := a.code, b := b.code } :: es else es)

/-- The scaled chunk sum of terms (a_k, b_k) under two chunk scales, with its occurrences. -/
def scaledChunk (w : Option Nat) (c : Nat) (terms : List (Elem × Elem)) (sa sb : ChunkScale) : Val × List Evt :=
  let (p, ev1) := products c 0 terms
  let (v, bad) := chunkSum w p
  let ev2 := if bad then [{ Evt.plain 2 0 0 with chunk := c }] else []
  match sa, sb with
  | .differ x y, _ => (.nan, ev1 ++ ev2 ++ [{ Evt.plain 4 x y with chunk := c }])
  | _, .differ x y => (.nan, ev1 ++ ev2 ++ [{ Evt.plain 4 x y with chunk := c }])
  | .exp x, .exp y => (v.scale (x + y), ev1 ++ ev2)
  | _, _ => (.nan, ev1 ++ ev2)

/-! ### Accumulator tiles (06 R177, Table 6.11) -/

/-- Mode of a MODE code. -/
def accMode (m : Nat) : AccMode :=
  match m with
  | 0 => .fp32 | 1 => .fp64 | 2 => .int32 | 3 => .anchored32 | _ => .anchored64

/-- Units a mode takes. -/
def AccMode.units : AccMode → Nat
  | .fp32 => 1 | .fp64 => 2 | .int32 => 1 | .anchored32 => 3 | .anchored64 => 3

/-- Element size of the load form in bytes. -/
def AccMode.size : AccMode → Nat
  | .fp32 => 4 | .fp64 => 8 | .int32 => 4 | .anchored32 => 12 | .anchored64 => 12

/-- The code the zero form writes. -/
def AccMode.zero : AccMode → Nat
  | .fp32 => 0x80000000 | .fp64 => 0x8000000000000000 | _ => 0

/-- Whether two unit ranges overlap. -/
def unitsOverlap (a n b m : Nat) : Bool := decide (a < b + m) && decide (b < a + n)

/-- The thread's accumulator tile whose first unit is `u`. -/
def Thread.tile (h : Thread) (u : Nat) : Option AccTile := h.acc.find? (fun a => a.unit == u)

/-- Put a tile in the accumulator buffer: it takes the place of whatever overlapped its units. -/
def Thread.putTile (h : Thread) (a : AccTile) : Thread :=
  { h with acc := a :: h.acc.filter (fun b => !unitsOverlap a.unit a.mode.units b.unit b.mode.units) }

/-- The element codes of a tile. -/
def AccTile.code (a : AccTile) (r c : Nat) : Nat := sget 0 a.elems (64 * r + c)

/-- A signed 96-bit integer as an element code. -/
def anchoredCode (n : Int) : Nat := codeOfInt 96 n

/-- An element code as a signed 96-bit integer. -/
def anchoredInt (c : Nat) : Int := signedOf 96 c

/-- Elements 0 to 4,095 with a given code each, as a sparse map. -/
def elemMap (f : Nat → Nat) : SMap Nat :=
  (List.range 4096).filterMap (fun e => if f e = 0 then none else some (e, f e))

/-- anchored_merge of 06 R177; the total of contributions is bounded by R101, beyond which N is left free.
(Log: DESIGN CHOICE, safe, entry 24.) -/
def anchoredMerge (free : Nat) (n l : Int) : Int :=
  if n = markNan ∨ l = markNan then markNan
  else if l = markPinf ∨ l = markNinf then
    if n = markPinf ∨ n = markNinf then (if n = l then n else markNan) else l
  else if n = markPinf ∨ n = markNinf then n
  else if ((n + l).natAbs : Int) ≤ 2 ^ 95 - 2 ^ 16 then n + l
  else (Config.freeAnchored free).toInt

/-- Codes of a load from local store: element e at SOURCE + e × size. -/
def loadCodes (h : Thread) (src size : Nat) : SMap Nat :=
  elemMap (fun e => le (h.lsRead (src + e * size) size))

/-- The fewest contributions that leave an anchored element at N, each being below 2^79 units in magnitude (03 R100, R101);
a marker takes one.
(Log: DESIGN CHOICE, unsafe, entry 149.) -/
def leastContribs (n : Int) : Nat :=
  if n = markNan ∨ n = markPinf ∨ n = markNinf then 1 else (n.natAbs + (2 ^ 79 - 2)) / (2 ^ 79 - 1)

/-- The contributions of an anchored element loaded from local store (06 R177): what an element raw-saved with this code has
had, and at least as many as the sum shows.
(Log: DESIGN CHOICE, unsafe, entry 149.) -/
def knownContribs (sums : SMap Nat) (code : Nat) : Nat := max (sget 0 sums code) (leastContribs (anchoredInt code))

/-- The contributions of the elements of a loaded tile.
(Log: DESIGN CHOICE, unsafe, entry 149.) -/
def loadedContribs (sums : SMap Nat) (mode : AccMode) (l : SMap Nat) : SMap Nat :=
  match mode with
  | .anchored32 | .anchored64 => elemMap (fun e => knownContribs sums (sget 0 l e))
  | _ => []

/-- The contributions of a merged element: the bound of 03 R101 applies to the total.
(Log: DESIGN CHOICE, unsafe, entry 149.) -/
def mergedContribs (sums a l : SMap Nat) : SMap Nat :=
  elemMap (fun e => sget 0 a e + knownContribs sums (sget 0 l e))

/-- The element of a tile after the add form, from what it held, what is merged into it and the contributions that the two
have had together: past 65,536 it is free (03 R101).
(Log: DESIGN CHOICE, safe, entry 24.) -/
def mergedCode (free total old new : Nat) : Nat :=
  if 65536 < total then (Config.freeAnchored free).toNat
  else anchoredCode (anchoredMerge free (anchoredInt old) (anchoredInt new))

/-- ACC_INIT's effect on its thread (06 R177). -/
def accInitThread (sums : SMap Nat) (h : Thread) (op : Bytes) : Thread :=
  let form := fld (at_ op 1 1) 0 2
  let mode := accMode (at_ op 2 1)
  let unit := at_ op 3 1
  let anchor := at_ op 4 2
  let src := at_ op 8 4
  match form with
  | 0 => h.putTile { unit := unit, mode := mode, ceiling := anchor, elems := elemMap (fun _ => mode.zero), contribs := [] }
  | 1 =>
    let l := loadCodes h src mode.size
    h.putTile { unit := unit, mode := mode, ceiling := anchor, elems := l, contribs := loadedContribs sums mode l }
  | _ =>
    match h.tile unit with
    | none => h
    | some a =>
      let l := loadCodes h src 12
      let n := mergedContribs sums a.contribs l
      h.putTile { a with contribs := n, elems := elemMap (fun e =>
        mergedCode (h.mark (2 ^ 23 + e)) (sget 0 n e) (sget 0 a.elems e) (sget 0 l e)) }

/-- ACC_INIT (06 R177). -/
def accInit (i : Tid) (s : State) : State :=
  match s.running i 0x12 with
  | none => s
  | some x => (s.modThread i (fun _ => (accInitThread s.cores.sums x.h x.op).retireOp)).tally 0 x.h.core 2 1

/-! ### Output coordinates and stochastic rounding (06 R176, 03 R90, R92) -/

/-- The output origin of a thread (06 R176). -/
def originOf (cmd slot : Bytes) (t : Nat) : Nat × Nat :=
  let (x, y, z) := coords cmd t
  (at_ slot 0 4 + x * at_ slot 8 4 + y * at_ slot 12 4 + z * at_ slot 16 4,
   at_ slot 4 4 + x * at_ slot 20 4 + y * at_ slot 24 4 + z * at_ slot 28 4)

/-- SR_LONG of NUMERIC. -/
def srLong (cmd : Bytes) : Bool := bit (at_ cmd 0x50 4) 2

/-- The threshold in chunks (03 R90). -/
def srThreshold (cmd : Bytes) : Nat := let k := fld (at_ cmd 0x50 4) 4 12; if k = 0 then 64 else k

/-! ### ARRAY_MMA (06 R180, R182; 03 R87, R89, R100) -/

/-- What an ARRAY_MMA works with. -/
structure Mma where
  a : Operand
  b : Operand
  cls : OpClass
  m : Nat
  n : Nat
  k : Nat
  first : Nat
  unit : Nat
  i0 : Nat
  j0 : Nat
  seed : W64
  cmd : Bytes
  free : Nat
  pre : Option Stationary

/-- One contribution into an accumulator element (03 R87, R89, R100): its new code and occurrences. `cnt` is how
many contributions an anchored element has had; past 65,536 its value is left free (03 R101).
(Log: DESIGN CHOICE, safe, entry 24.) -/
def accumulate (g : Mma) (t : AccTile) (code cnt : Nat) (v : Val) (i j c : Nat) : Nat × List Evt :=
  match t.mode with
  | .int32 =>
    let sum : Int := match v with | .num d => shl d.m d.e.toNat | _ => 0
    let (n, ev) := combineInt (signedOf 32 code) sum
    (codeOfInt 32 n, ev)
  | .anchored32 | .anchored64 =>
    if 65536 ≤ cnt then ((Config.freeAnchored g.free).toNat, [])
    else
      let (n, ev) := anchoredAdd (anchoredInt code) v (signedOf 16 t.ceiling)
      (anchoredCode n, ev)
  | .fp32 =>
    let r := if srLong g.cmd && decide (srThreshold g.cmd ≤ c + 1) then some (arrayWord g.seed (cmdId g.cmd) i j c) else none
    let (x, ev) := combine .fp32 (FFmt.fp32.decode code) v r
    (FFmt.fp32.encode x, ev)
  | .fp64 =>
    let r := if srLong g.cmd && decide (srThreshold g.cmd ≤ c + 1) then some (arrayWord g.seed (cmdId g.cmd) i j c) else none
    let (x, ev) := combine .fp64 (FFmt.fp64.decode code) v r
    (FFmt.fp64.encode x, ev)

/-- The chunks of a stationary block (06 Table 6.7): two of the 8-bit and integer classes, one of every other. -/
def OpClass.blockChunks : OpClass → Nat
  | .windowed _ => 1
  | _ => 2

/-- The operand that a stationary block was loaded from, with the codebook of its load. -/
def Stationary.operand (x : Stationary) : Operand :=
  { fmt := x.fmt, trans := x.trans, budget := 0, data := 0, stride := 0, book := x.book }

/-- The local tile of a stationary block. -/
def Stationary.tile (x : Stationary) : LTile := { rows := x.rows, scales := x.scales, patches := x.patches }

/-- Where B's elements and block scales of local chunk `lc` come from: the preloaded block for its own chunks (06 R178), the
local tile for the others. -/
def Mma.tileB (g : Mma) (tb : LTile) (lc : Nat) : Operand × LTile :=
  match g.pre with
  | some x => if lc < g.cls.blockChunks then (x.operand, x.tile) else (g.b, tb)
  | none => (g.b, tb)

/-- Terms of local chunk `lc` for output element (r, c) of the tile. -/
def mmaTerms (g : Mma) (ta tb : LTile) (lc r c : Nat) : List (Elem × Elem) :=
  let k0 := 32 * (lc % 2)
  let n := min 32 (g.k - 32 * lc)
  (List.range n).map (fun j => (g.a.elem true ta r (k0 + j), (g.tileB tb lc).1.elem false (g.tileB tb lc).2 c (k0 + j)))

/-- The contributions of local chunks to one element, in increasing chunk order (03 R82). -/
def mmaElem (g : Mma) (t : AccTile) (tiles : List (LTile × LTile)) (r c : Nat) :
    Nat → Nat → Nat → Nat → Nat × Nat × List Evt
  | 0, _, code, cnt => (code, cnt, [])
  | left + 1, lc, code, cnt =>
    match tiles[lc / 2]? with
    | none => (code, cnt, [])
    | some (ta, tb) =>
      let n := min 32 (g.k - 32 * lc)
      let k0 := 32 * (lc % 2)
      let (v, ev1) := scaledChunk g.cls.window (g.first + lc) (mmaTerms g ta tb lc r c)
        (g.a.chunkScale true ta r k0 n) ((g.tileB tb lc).1.chunkScale false (g.tileB tb lc).2 c k0 n)
      let (code', ev2) := accumulate g t code cnt v (g.i0 + r) (g.j0 + c) (g.first + lc)
      let (code'', cnt', ev3) := mmaElem g t tiles r c left (lc + 1) code' (cnt + 1)
      (code'', cnt', ev1 ++ ev2.map (fun e => { e with chunk := g.first + lc }) ++ ev3)

/-- Format code of an accumulator mode for the records (04 Table 4.1). -/
def AccMode.fmt : AccMode → Nat
  | .fp32 => 2 | .fp64 => 1 | .int32 => 0x12 | .anchored32 => 0x13 | .anchored64 => 0x13

/-- One element of the tile worked through: the tile after it, and its occurrences located. -/
def mmaStep (g : Mma) (h : Thread) (tick : Nat) (tiles : List (LTile × LTile)) (acc : AccTile × List Exc) (rc : Nat) :
    AccTile × List Exc :=
  let r := rc / 64
  let c := rc % 64
  let t := acc.1
  let (code, cnt, ev) := mmaElem g t tiles r c ((g.k + 31) / 32) 0 (t.code r c) (sget 0 t.contribs rc)
  let anchored := decide (t.mode = .anchored32 ∨ t.mode = .anchored64)
  ({ t with elems := sset 0 t.elems rc code, contribs := if anchored then sset 0 t.contribs rc cnt else t.contribs },
   acc.2 ++ ev.map (fun e => e.exc h.t h.op (g.i0 + r) (g.j0 + c) tick g.a.fmt g.b.fmt t.mode.fmt))

/-- The positions of an M × N tile, row by row. -/
def tilePositions (m n : Nat) : List Nat := (List.range m).flatMap (fun r => (List.range n).map (fun c => 64 * r + c))

/-- The operands of an ARRAY_MMA operation. -/
def mmaOf (x : Running) (seed : W64) : Mma :=
  let a := operandOf x.h (x.w.slot (at_ x.op 2 2))
  let b := operandOf x.h (x.w.slot (at_ x.op 4 2))
  let (i0, j0) := originOf x.e.cmd (x.w.slot (at_ x.op 6 2)) x.h.t
  { a := a, b := b, cls := (classOf a.fmt b.fmt).getD .exact8, m := fld (at_ x.op 9 1) 0 6 + 1,
    n := fld (at_ x.op 10 1) 0 6 + 1, k := at_ x.op 12 4, first := fld (at_ x.op 16 4) 0 28, unit := fld (at_ x.op 8 1) 0 4,
    i0 := i0, j0 := j0, seed := seed, cmd := x.e.cmd, free := x.h.mark (2 ^ 22),
    pre := if bit (at_ x.op 1 1) 1 then x.h.preload else none }

/-- The accumulator tile and occurrences after an ARRAY_MMA (06 R180): elements outside M × N keep their values. -/
def mmaTile (g : Mma) (h : Thread) (tick : Nat) (t : AccTile) : AccTile × List Exc :=
  let tiles := (List.range ((g.k + 63) / 64)).map (fun k => (readTile h g.a k, readTile h g.b k))
  (tilePositions g.m g.n).foldl (mmaStep g h tick tiles) (t, [])

/-- Another resident thread of the same core that holds a preloaded stationary block (06 R179). -/
def preloadElsewhere (s : State) (i : Tid) (core : Nat) : Bool :=
  (List.finRange 4).any (fun p => (s.part p).queues.any (fun q => q.2.entries.any (fun e =>
    match e.sweep with
    | none => false
    | some w => w.threads.any (fun h => decide (h.core = core) && h.preload.isSome &&
        !(decide (p = i.cid.p) && decide (q.1 = i.cid.q) && decide (e.n = i.cid.n) && decide (h.t = i.t))))))

/-- The first stationary block of the operand in a slot, as local store holds it (06 R178).
(Log: DEDUCED, unsafe, entry 148.) -/
def stationaryOf (x : Running) : Stationary :=
  let o := operandOf x.h (x.w.slot (at_ x.op 2 2))
  let t := readTile x.h o 0
  { slot := at_ x.op 2 2, fmt := o.fmt, trans := o.trans, book := o.book, rows := t.rows, scales := t.scales, patches := t.patches }

/-- ARRAY_LOAD_B (06 R178, R179): the thread reserves the idle buffer and loads the block into it; while another thread of the
core holds one preloaded, it does not start.
(Log: DEDUCED, unsafe, entry 148.) -/
def arrayLoadB (i : Tid) (s : State) : State :=
  match s.running i 0x10 with
  | none => s
  | some x =>
    if preloadElsewhere s i x.h.core then s
    else (s.modThread i (fun h => { h with preload := some (stationaryOf x) }.retireOp)).tally 0 x.h.core 2 1

/-- ARRAY_MMA (06 R180): it does not start while another thread of the core holds a preloaded block (R179).
(Log: DESIGN CHOICE, unsafe, entry 10.) -/
def arrayMma (i : Tid) (s : State) : State :=
  match s.running i 0x11 with
  | none => s
  | some x =>
    if preloadElsewhere s i x.h.core then s
    else
      let g := mmaOf x ((s.part i.cid.p).group (groupOf i.cid.q)).seed
      match x.h.tile g.unit with
      | none => s
      | some t =>
        let (t', xs) := mmaTile g x.h s.tick t
        let s := (s.modThread i (fun h => { h.putTile t' with preload := none }.retireOp)).tally 0 x.h.core 2 1
        (s.threadEvent i 2 x.h.core 2 (g.m * g.n * g.k / 64) x.e.cmd).note i.cid xs

/-- The meaning of ACC_INIT. -/
def execAccInit (i : Tid) (s : State) : Host.Outcome State Fault Refusal := .next (accInit i s)

/-- The meaning of ARRAY_LOAD_B. -/
def execArrayLoadB (i : Tid) (s : State) : Host.Outcome State Fault Refusal := .next (arrayLoadB i s)

/-- The meaning of ARRAY_MMA. -/
def execArrayMma (i : Tid) (s : State) : Host.Outcome State Fault Refusal := .next (arrayMma i s)

end Sys2Proof.Machine
end

