-- ==== Sys2Proof/Machine/Flow.lean ====
section
/-! DEFINITION. Sending into the fabric: the flow table, sequence numbers, routes at the source, and the packets a
partition has not had acknowledged (11 R309 to R312, R319 to R321, R326). -/

namespace Sys2Proof.Machine

/-! ### The flow table (11 R311, Table 11.9) -/

/-- FAB_FLOW_CFG.BASE as an address. -/
def Part.flowBase (P : Part) : Nat := fld P.flowCfg.toNat 16 36 * 2 ^ 16

/-- FAB_FLOW_CFG.ENABLE. -/
def Part.flowEnable (P : Part) : Bool := bit P.flowCfg.toNat 63

/-- FAB_FLOW_CFG.GENERATION. -/
def Part.generation (P : Part) : Nat := fld P.flowCfg.toNat 0 16

/-- The device address of a byte of the flow table, where it translates to a frame the partition owns; a partition that
has neither set BASE nor ENABLE has no table.
(Log: DEDUCED, unsafe, entry 75.) -/
def State.flowAddr (s : State) (p : Fin 4) (off : Nat) : Option Nat :=
  let P := s.part p
  let va := P.flowBase + off
  if (P.flowBase = 0 ∧ P.flowEnable = false) ∨ bit P.pageTableBase.toNat 0 = false then none
  else
    match s.pageXlat p (va / 2 ^ 21) with
    | none => none
    | some x => if !x.host && s.mem.allowed p x true then some (x.base + va % 2 ^ 21) else none

/-- An entry of the flow table; one that does not translate reads as zeroed.
(Log: DEDUCED, unsafe, entry 75.) -/
def State.flowEntry (s : State) (p : Fin 4) (off : Nat) : Nat :=
  match s.flowAddr p off with
  | none => 0
  | some a => le (s.mem.read a 8)

/-- Write an entry of the flow table.
(Log: DEDUCED, unsafe, entry 75.) -/
def State.setFlowEntry (s : State) (p : Fin 4) (off v : Nat) : State :=
  match s.flowAddr p off with
  | none => s
  | some a => s.writeOutside a (toLe 8 v)

/-- The flow of an endpoint and a VC. -/
def flowOf (endpoint vc : Nat) : Nat := 8 * endpoint + vc

/-- The flow of a circuit. -/
def circuitFlow (id : Nat) : Nat := 2 ^ 20 + id

/-- Where the send entry of a flow lies. -/
def sendOffset (flow : Nat) : Nat := if flow < 2 ^ 17 then 8 * flow else 0x200000 + 8 * (flow - 2 ^ 20)

/-- Where the receive entry of a flow lies. -/
def recvOffset (flow : Nat) : Nat := if flow < 2 ^ 17 then 0x100000 + 8 * flow else 0x208000 + 8 * (flow - 2 ^ 20)

/-- Permissions of a partition (11 R319).
(Log: DEDUCED, unsafe, entry 61.) -/
def Part.maySend (P : Part) (endpoint : Nat) : Bool := P.sendPerm.getLsbD endpoint

/-! ### Routes (11 R320, R321) -/

/-- The egress of a destination for a VC: its port fields in order of preference, each with its dateline flag; none
for an entry without VALID. -/
def Fab.route (f : Fab) (dest vc : Nat) : Option (List (Nat × Bool)) :=
  let e := (sget 0 f.routes dest).toNat
  if bit e 63 then
    if bit (fld e 32 8) vc then some [(fld e 16 6, bit e 22), (fld e 24 6, bit e 30)]
    else some [(fld e 0 6, bit e 6), (fld e 8 6, bit e 14)]
  else none

/-- The first of the egress ports that can take a packet now: an UP port, or delivery within the package (32). -/
def State.egress (s : State) (r : List (Nat × Bool)) : Option (Nat × Bool) :=
  r.find? (fun x => s.portUp x.1 || decide (x.1 = 32))

/-- Where a packet of the package's own endpoints goes now (11 R320, R321, R326): nowhere ever without a VALID entry; held at
its source for want of an UP port, or on a circuit none of whose plans is ACTIVE or whose ENDPOINT the partition may not send to;
or a port (32: back into the package) with the buffer class it leaves in. -/
inductive Way where
  | discard
  | hold
  | go (port : Nat) (cls : Bool)
deriving DecidableEq, Repr

/-- The way of a packet at its source: a circuit's by a source entry of its own partition. -/
def State.way (s : State) (p : Option (Fin 4)) (pkt : Packet) : Way :=
  if pkt.circuit then
    let e := s.fab.circuit pkt.circuitId
    if decide (ceRole e = 1) && p.any (fun p => decide (cePartition e = p.val)) && s.fab.entryActive e && (s.part (Fin.ofNat 4 (cePartition e))).maySend (ceEndpoint e) && s.portUp (ceOut e) then
      .go (ceOut e) (ceDateline e)
    else .hold
  else
    match s.fab.route pkt.dest pkt.vc with
    | none => .discard
    | some r => match s.egress r with | none => .hold | some (i, dateline) => .go i dateline

/-- A packet takes its way. -/
def State.depart (s : State) (pkt : Packet) : Way → State
  | .go i cls => if i = 32 then { s with fab := { s.fab with loop := s.fab.loop ++ [pkt] } } else s.transmit i { pkt with cls := cls }
  | _ => s

/-- FAB_CFG.ACK_TIMEOUT in ticks. -/
def State.ackTimeout (s : State) : Nat := fld s.fab.cfg.toNat 16 10 * 1000

/-- A started command fails: nothing of it runs any further, its threads end, and it completes with the status. -/
def State.failCmd (s : State) (c : Cid) (st : Status) : State :=
  (s.modEntry c (fun e =>
    if e.phase = .running ∨ e.phase = .executed then
      { e with
        phase := .executed, status := st, owed := [],
        sweep := e.sweep.map (fun w => { w with threads := [], placed := gridSize e.cmd }) }
    else e)).modPart c.p (fun P => P.freeKeptOf (fun i => i.cid == c))

/-- The status with which a command whose packet was refused, or timed out again, completes: it sends nothing more, of what
is held at its source either, and one that finished but has no record yet takes the status too.
(Log: DEDUCED, unsafe, entry 73.) -/
def State.failSend (s : State) (c : Option Cid) (st : Status) : State :=
  match c with
  | none => s
  | some c =>
    let s := { s with fab := { s.fab with held := s.fab.held.filter (fun h => !(h.send.any (fun (x : Fin 4 × Option Cid × Nat × Nat) => x.2.1 == some c))) } }
    (s.failCmd c st).modEntry c (fun e => if e.phase = .finished ∧ e.status = .ok then { e with status := st } else e)

/-- Whether a packet of the flow is held at its source: those behind it wait for it (11 R310, R318). -/
def Fab.holds (f : Fab) (p : Fin 4) (flow : Nat) : Bool := f.held.any (fun h => h.send.any (fun x => decide (x.1 = p ∧ x.2.2.2 = flow)))

/-- Offer a packet to the fabric. One of a flow takes the next sequence number as it leaves (11 R310) and waits for its
acknowledgement; while FAB_FLOW_CFG.ENABLE is 0 it goes nowhere, and its command ends ISOLATION_FAULT (R319). -/
def State.offer (s : State) (h : Held) : State :=
  let wait (s : State) : State := { s with fab := { s.fab with held := s.fab.held ++ [h] } }
  match h.send with
  | none => match s.way none h.pkt with | .hold => wait s | w => s.depart h.pkt w
  | some (p, cmd, epoch, flow) =>
    if !(s.part p).flowEnable then s.failSend cmd .isolation
    else if s.fab.holds p flow then wait s
    else
      match s.way (some p) h.pkt with
      | .hold => wait s
      | w =>
        let e := s.flowEntry p (sendOffset flow)
        let seq := fld e 0 32
        let s := s.setFlowEntry p (sendOffset flow) (setFld e 0 32 (seq + 1))
        let pkt := h.pkt.numbered seq
        let s := s.modPart p (fun P => { P with
          sends := P.sends ++ [{ flow := flow, seq := seq, pkt := pkt, cmd := cmd, epoch := epoch, due := s.tick + s.ackTimeout }] })
        s.depart pkt w

/-- Send a packet that belongs to no flow.
(Log: DESIGN CHOICE, safe, entry 11; DEDUCED, unsafe, entry 78.) -/
def State.inject (s : State) (pkt : Packet) : State := s.offer { pkt := pkt, send := none }

/-- The packets held at their source are offered again, in order, once a port or a plan has come up.
(Log: DEDUCED, unsafe, entry 78.) -/
def State.releaseHeld (s : State) : State :=
  let h := s.fab.held
  h.foldl State.offer { s with fab := { s.fab with held := [] } }

/-! ### Numbered sends (11 R310, R315, R319) -/

/-- Send one packet of a flow of partition p, for a command that still runs well. -/
def State.sendFlow (s : State) (p : Fin 4) (cmd : Option Cid) (epoch flow : Nat) (pkt : Packet) : State :=
  if cmd.any (fun c => (s.entry c).any (fun e => decide (e.status ≠ .ok))) then s
  else s.offer { pkt := pkt, send := some (p, cmd, epoch, flow) }

/-- An addressed packet of a flow. -/
def State.sendAddressed (s : State) (p : Fin 4) (cmd : Option Cid) (epoch kind dest vc window offset aux : Nat)
    (payload : Bytes) : State :=
  let P := s.part p
  s.sendFlow p cmd epoch (flowOf dest vc)
    (mkPacket false (addressed kind dest (P.endpoint.getD 0x3FFF) vc P.generation payload.length 0 window offset aux) payload)

/-- A circuit packet of a flow. -/
def State.sendCircuit (s : State) (p : Fin 4) (cmd : Option Cid) (epoch kind cid offset : Nat) (payload : Bytes) : State :=
  let P := s.part p
  s.sendFlow p cmd epoch (circuitFlow cid)
    (mkPacket true (circuitHeader kind cid 0 P.generation payload.length offset) payload)

/-- Cut a byte string into packets at 8,192-byte boundaries of window offset (11 R309). -/
def cutWrites : Nat → Nat → Bytes → List (Nat × Bytes)
  | 0, _, _ => []
  | _, _, [] => []
  | f + 1, off, b =>
    let k := 8192 - off % 8192
    (off, b.take k) :: cutWrites f (off + k) (b.drop k)

/-- The WRITE packets of bytes to consecutive window offsets (11 R309).
(Log: DESIGN CHOICE, unsafe, entry 159.) -/
def State.sendWrites (s : State) (p : Fin 4) (cmd : Option Cid) (epoch dest vc window off : Nat) (b : Bytes) : State :=
  (cutWrites (b.length / 8192 + 2) off b).foldl (fun s w => s.sendAddressed p cmd epoch 0x01 dest vc window w.1 0 w.2) s

/-- SIGNAL on VC 5 (02 R61, 11 Table 11.7). -/
def State.sendSignal (s : State) (p : Fin 4) (epoch endpoint counter : Nat) (v : W32) : State :=
  s.sendAddressed p none epoch 0x02 endpoint 5 0 0 (counter % 65536 + v.toNat * 65536) []

/-! ### Cuts (13 R358) -/

/-- The device addresses of the send half of the flow table: endpoint entries in 64 KiB runs, then the circuits' 32 KiB;
what does not translate is skipped.
(Log: DEDUCED, unsafe, entry 76.) -/
def State.sendHalf (s : State) (p : Fin 4) : List (Nat × Nat) :=
  ((List.range 16).filterMap (fun k => (s.flowAddr p (65536 * k)).map (fun a => (a, 65536)))) ++
    ((s.flowAddr p 0x200000).map (fun a => [(a, 32768)])).getD []

/-- Whether a byte belongs to the send entries a cut holds (11 R316).
(Log: DEDUCED, unsafe, entry 76.) -/
def inSendHalf (rs : List (Nat × Nat)) (a : Nat) : Bool := rs.any (fun r => decide (r.1 ≤ a ∧ a < r.1 + r.2))

/-- The position of each queue's completion ring. -/
def Part.tails (P : Part) : SMap W32 := P.queues.foldl (fun m q => sset 0 m q.1 q.2.tail) []

/-- The cut of partition p as it stands, for the epoch that opens at it (13 R358). -/
def State.cutOf (s : State) (p : Fin 4) : Cut :=
  let P := s.part p
  let rs := s.sendHalf p
  { epoch := P.openEpoch + 1, counters := P.counters, groups := P.groups,
    queues := P.queues.map (fun q => (q.1, q.2.entries)), plans := s.fab.planState, sendRanges := rs,
    sendEntries := s.mem.bytes.filter (fun x => inSendHalf rs x.1),
    side := s.cores.side.filter (fun x => P.ownsCore (x.1 / 8192)),
    press := s.mem.pressQueue.filter (fun x => x.2.p == p), stalls := P.stalls, excWritten := P.excWritten, tails := P.tails }

/-- A cut with the send entries of the flow table as they stand, unless it holds those of the same table. -/
def Cut.withSends (c : Cut) (rs : List (Nat × Nat)) (m : Mem) : Cut :=
  if c.sendRanges = rs then c else { c with sendRanges := rs, sendEntries := m.bytes.filter (fun x => inSendHalf rs x.1) }

/-- A partition's fabric traffic is enabled: nothing has been sent by that flow table, so that the cuts taken before it
hold its send entries as they stand (11 R311, R316). -/
def State.sendsBegin (s : State) (p : Fin 4) : State :=
  let rs := s.sendHalf p
  s.modPart p (fun P => { P with
    base := P.base.withSends rs s.mem, closed := P.closed.map (fun x => { x with cut := x.cut.withSends rs s.mem }) })

/-- Before its first release a partition goes back to how it was when it was enabled (13 R355, R369). -/
def State.firstCut (s : State) (p : Fin 4) : State :=
  if (s.part p).released = 0 ∧ (s.part p).closed = [] then
    s.modPart p (fun P => { P with base := { s.cutOf p with epoch := P.openEpoch } })
  else s

end Sys2Proof.Machine
end

