-- ==== Sys2Proof/Machine/Command.lean ====
section
/-! DEFINITION. Commands from the head of their queue to their finish: acceptance, refusal, start, failure, escalation
and finish (02 R35 to R39, R60, R70, R73, R77; 13 R356, R375). -/

namespace Sys2Proof.Machine

/-! ### Heads, waits and checks of the header -/

/-- Whether every thread of a sweep has been placed. -/
def Entry.allPlaced (e : Entry) : Bool :=
  match e.sweep with
  | none => true
  | some w => decide (gridSize e.cmd ≤ w.placed)

/-- Whether a command has left the head of its queue: at its start, a sweep once its last thread is placed (02 R37). -/
def Entry.left (e : Entry) : Bool := decide (e.phase ≠ .waiting) && (decide (e.phase ≠ .running) || e.allPlaced)

/-- The command at the head of a queue. -/
def Queue.headEntry (Q : Queue) : Option Entry := Q.entries.find? (fun e => !e.left)

/-- Whether FENCE, if set, is satisfied: every earlier command of the queue has finished (02 R37). -/
def Queue.fenceOk (Q : Queue) (e : Entry) : Bool :=
  !cmdFlag e.cmd 2 || (Q.entries.takeWhile (fun x => x.n != e.n)).all (fun x => decide (x.phase = .finished))

/-- Whether a partition is held by a Halt-Peg (15 R447). -/
def State.pegHalted (s : State) (p : Fin 4) : Bool := s.obs.peg.halted.getLsbD p.val

/-- Whether commands of a queue may start: ENABLED, and not held by a Halt-Peg, which spares the maintenance queue. -/
def State.queueOpen (s : State) (p : Fin 4) (q : Nat) : Bool :=
  decide (((s.part p).queue q).state = .enabled) && (decide (q = 0) || !s.pegHalted p)

/-- Whether an accepted command may start: its queue may start commands, or a restore put it back and its wait and
fence are satisfied again (13 R369). -/
def State.mayStart (s : State) (p : Fin 4) (q : Nat) (e : Entry) : Bool :=
  if e.replayed then (s.part p).waitOk e.cmd && ((s.part p).queue q).fenceOk e else s.queueOpen p q

/-! ### Engines shared by queues (02 R64, R67) -/

/-- Rank of a stream: 0 is RANK_FIRST. -/
def Part.rank (P : Part) (stream : Nat) : Nat :=
  ((List.range 4).find? (fun k => fld P.streamPriority.toNat (2 * k) 2 == stream)).getD 3

/-- Whether the head of queue q can start on the engine class now; `ready` is the condition its kind states. -/
def State.contends (s : State) (p : Fin 4) (eng : Engine) (ready : Entry → Bool) (q : Nat) : Bool :=
  let Q := (s.part p).queue q
  match Q.headEntry with
  | none => false
  | some e =>
    decide (engineOf q = eng) && decide (e.phase = .waiting) && (s.queueOpen p q || e.replayed) &&
      (e.accepted && !e.replayed || (s.part p).waitOk e.cmd && Q.fenceOk e) && ready e

/-- The place of an engine class among the keys of `lastGroup`, after the 1,280 cores. -/
def Engine.place (eng : Engine) : Nat := if eng = .copy then 1280 else 1281

/-- Whether queue a comes before queue b at an engine (02 R67): by rank, and at equal rank by rotation among groups. -/
def Part.before (P : Part) (eng : Engine) (a b : Nat) : Bool :=
  let ra := P.rank (streamOf a)
  let rb := P.rank (streamOf b)
  let last := sget 0 P.lastGroup (4 * eng.place + ra)
  let key (q : Nat) : Nat := if last < groupOf q then groupOf q else groupOf q + 32
  decide (ra < rb) || (decide (ra = rb) && decide (key a < key b))

/-- Whether the head of queue q can start and a head that comes before it can too (02 R67).
(Log: DEDUCED, safe, entry 39.) -/
def State.outranked (s : State) (p : Fin 4) (eng : Engine) (ready : Entry → Bool) (q : Nat) : Bool :=
  s.contends p eng ready q &&
    (s.part p).queues.any (fun x => s.contends p eng ready x.1 && (s.part p).before eng x.1 q)

/-- The row of a command that a copy or collective engine runs (02 R67): an outranked head waits; one that starts, or is
refused, is the last of its group at its rank. -/
def State.engineRow (s : State) (p : Fin 4) (q : Nat) (eng : Engine) (ready : Entry → Bool) (run : State → State) : State :=
  if s.outranked p eng ready q then s
  else
    let t := run s
    match ((s.part p).queue q).headEntry with
    | none => t
    | some e =>
      if (t.entry { p := p, q := q, n := e.n }).any (fun x => decide (x.phase = .waiting)) then t
      else t.modPart p (fun P => { P with
        lastGroup := sset 0 P.lastGroup (4 * eng.place + P.rank (streamOf q)) (groupOf q) })

/-- The kinds of Table 2.6 and the queues that take them (02 R38).
(Log: DESIGN CHOICE, safe, entry 9.) -/
def kindAllowed (k q : Nat) : Bool :=
  match k with
  | 0x01 => decide (engineOf q = .sweep)
  | 0x02 => decide (engineOf q = .copy)
  | 0x03 | 0x04 => decide (engineOf q = .collective)
  | 0x05 => decide (engineOf q = .press)
  | 0x06 | 0x07 => true
  | 0x10 | 0x11 | 0x12 | 0x13 | 0x14 => decide (engineOf q = .maintenance)
  | _ => false

/-- The header checks of every command: reserved bits, the PASS tag (02 R36) and the flags of sweeps only (R38). -/
def headerOk (c : Bytes) (q : Nat) : Bool :=
  decide (fld (at_ c 0x0C 2) 14 2 = 0) && decide (fld (at_ c 0x0F 1) 5 3 = 0) && decide (fld (at_ c 0x12 1) 1 7 = 0) &&
    decide (fld (at_ c 0x13 1) 4 4 = 0) && decide (fld (at_ c 0x1A 1) 2 6 = 0) && decide (at_ c 0x1B 1 = 0) &&
    (decide (q = 0) || decide (cmdPass c = streamOf q)) &&
    (decide (cmdKind c = 0x01) || (!cmdFlag c 0 && !cmdFlag c 4))

/-- Bytes [a, a + n) of a command are 0. -/
def zeroAt (c : Bytes) (a n : Nat) : Bool := allZero ((c.drop a).take n)

/-! ### Finishing -/

/-- A cancelled command takes the epoch that is open when the queue reaches it (14 R419). -/
def reachCancelled (epoch : Nat) : List Entry → List Entry
  | [] => []
  | e :: r =>
    if e.phase = .finished then
      (if e.status = .cancelled ∧ e.epoch = 0 then { e with epoch := epoch } else e) :: reachCancelled epoch r
    else e :: r

/-- Cancelled commands that queue q has reached take their epoch. -/
def Part.reach (P : Part) (q : Nat) : Part :=
  P.setQueue q { P.queue q with entries := reachCancelled P.openEpoch (P.queue q).entries }

/-- The partition stays busy for 100 µs after its last command (14 R414). -/
def State.stayBusy (s : State) (p : Fin 4) : State := s.modPart p (fun P => { P with busyUntil := s.tick + 100000 })

/-- When the first periodic snapshot falls due after counting on INTERVAL begins: one INTERVAL on. -/
def Part.firstSnapshot (P : Part) (tick : Nat) : Option Nat :=
  let i := fld P.obsSnapshotCfg.toNat 0 16
  if i = 0 then none else some (tick + i * 1000)

/-- The partition's command boundary: a MODE written before it takes effect (15 R431). The manual does not define a boundary of
queues whose commands overlap; here every start, finish or refusal of a command of the partition is one, before its
CMD_BEGIN.
(Log: DESIGN CHOICE, unsafe, entry 128.) -/
def State.boundary (s : State) (p : Fin 4) : State :=
  s.modPart p (fun P =>
    let m := fld P.obsCfg.toNat 0 2
    { P with
      obsMode := m
      snapshotDue := if m = 0 then none
        else if P.obsMode = 0 then P.firstSnapshot s.tick else P.snapshotDue })

/-- What every finish does, whatever the status: the epoch, the end tick, the close that EPOCH_BOUNDARY requests
(13 R356), and the cancelled commands behind it.
(Log: DEDUCED, unsafe, entry 41.) -/
def State.finishWith (s : State) (c : Cid) (f : Entry → Entry) : State :=
  match s.entry c with
  | none => s
  | some e =>
    let P := s.part c.p
    let s := s.modEntry c (fun e => { f e with phase := .finished, endTick := s.tick, epoch := P.openEpoch })
    let s := if cmdFlag e.cmd 1 then s.modPart c.p (fun P => P.requestClose s.tick) else s
    ((s.modPart c.p (fun P => P.reach c.q)).stayBusy c.p).boundary c.p

/-- The header signal (02 R57, R58, R60). -/
def Part.signal (P : Part) (c : Bytes) : Part × Bool :=
  let k := at_ c 0x18 2
  let v := BitVec.ofNat 32 (at_ c 0x1C 4)
  if !cmdSignalEn c then (P, false)
  else if cmdSignalSet c then (P.counterSet k v, false)
  else (P.counterAdd k v, (addSat (P.counter k) v).2)

/-- Apply the header signal of a finished command, with COUNTER_SATURATED. -/
def State.applySignal (s : State) (c : Cid) (cmd : Bytes) : State :=
  let (P, sat) := (s.part c.p).signal cmd
  let s := s.setPart c.p P
  if sat then s.modEntry c (fun e => { e with counterSat := true }) else s

/-- A command refused at its checks or its start completes with the status, executing nothing (02 R39); a replay keeps
the tick of its first refusal. DEFERRED applies the header signal, as OK does (02 R60).
(Log: DESIGN CHOICE, safe, entry 9; DEDUCED, unsafe, entry 40.) -/
def State.refuse (s : State) (c : Cid) (st : Status) : State :=
  let s := (s.finishWith c (fun e => { e with
    accepted := true, refused := true, status := st, startTick := if e.refused then e.startTick else s.tick })).modEntry c
    (fun e => { e with endTick := e.startTick })
  if st = .deferred then s.applySignal c (((s.entry c).map (·.cmd)).getD []) else s

/-! ### Acceptance and start -/

/-- The row of a command kind on a queue (02 R39): at the head, with its wait satisfied and its fence, a command not
yet accepted whose kind is not listed or not allowed there, or whose header fails, completes as INVALID_COMMAND; one
of the row's kind goes on to `run`, as does one accepted earlier that could not start. A command that a restore put
back starts again whatever its queue's state, when its wait is satisfied again, and a refusal stays what it was (13
R369).
(Log: DESIGN CHOICE, safe, entry 9.) -/
def State.acceptHead (s : State) (p : Fin 4) (q kind : Nat) (run : Cid → Entry → State) : State :=
  let Q := (s.part p).queue q
  match Q.headEntry with
  | none => s
  | some e =>
    let c : Cid := { p := p, q := q, n := e.n }
    if e.phase ≠ .waiting ∨ (s.queueOpen p q = false ∧ e.replayed = false) then s
    else if (e.accepted = false ∨ e.replayed = true) ∧ ((s.part p).waitOk e.cmd = false ∨ Q.fenceOk e = false) then s
    else if kindAllowed (cmdKind e.cmd) q = true ∧ cmdKind e.cmd ≠ kind then s
    else if e.refused then s.refuse c e.status
    else if e.accepted then run c e
    else if kindAllowed (cmdKind e.cmd) q = false ∨ headerOk e.cmd q = false then s.refuse c .invalid
    else run c e

/-- The ranges a command reads, as address and length (13 R361). -/
def readRanges (rs : List Rng) : List (Nat × Nat) :=
  (rs.filter (fun r => !r.write && decide (r.len ≠ 0))).map (fun r => (r.va.toNat, r.len))

/-- A command passes its checks: what it translated is kept, and the blocks it reads are marked (08 R222, 13 R361). -/
def State.accepted (s : State) (c : Cid) (xs : List Xlat) (rs : List Rng) : State :=
  let s := s.modEntry c (fun e => { e with accepted := true, xlats := xs, reads := readRanges rs })
  (s.markReads c.p c.q c.n xs rs).cacheXlats c.p xs

/-- A command starts (02 R37); a replayed one keeps its first start tick.
(Log: DEDUCED, unsafe, entry 40.) -/
def State.begin (s : State) (c : Cid) : State :=
  let s := s.modEntry c (fun e => { e with
    phase := .running, startTick := if e.replayed then e.startTick else s.tick })
  ((s.stayBusy c.p).boundary c.p).traceCmd c 1

/-- A command's work is done; its finish is the row COMMAND_FINISH. -/
def State.executed (s : State) (c : Cid) (f : Entry → Entry) : State :=
  s.modEntry c (fun e => { f e with phase := .executed })

/-- The writer that a command is: its own reads make a write in place (13 R361). -/
def Entry.writer (e : Entry) (c : Cid) : Writer :=
  { p := c.p, q := c.q, n := c.n, reads := e.reads, always := false, thread := none, own := [] }

/-! ### Failure and escalation (13 R375) -/

/-- A queue in use enters STOPPED, whether or not it drains (13 R373, R375).
(Log: DEDUCED, unsafe, entry 162.) -/
def Queue.halt (Q : Queue) : Queue :=
  if Q.state = .disabled then Q else { Q with state := .stopped, drainDue := none }

/-- An engine joins those that are stalled (13 R364). -/
def Part.stall (P : Part) (x : Stall) : Part := if P.stalls.contains x then P else { P with stalls := P.stalls ++ [x] }

/-- An engine of a command stalls for want of a free shadow block (13 R364). -/
def State.stallCmd (s : State) (c : Cid) : State :=
  s.modPart c.p (fun P => P.stall (.command c))

/-- An engine makes the writes of a command in order, up to the first that finds no free shadow block: there it stalls, and
what it has still to write waits (13 R364).
(Log: DESIGN CHOICE, unsafe, entry 8.) -/
def State.engineWrite (s : State) (c : Cid) (w : Writer) (xs : List Xlat) (ws : List (Bool × Nat × Bytes)) : State :=
  match s.entry c with
  | none => s
  | some e =>
    if e.owed ≠ [] then s.modEntry c (fun e => { e with owed := e.owed ++ ws })
    else if s.dueRoom w xs ws then s.writeDue w xs ws
    else
      let (s, l) := State.writeUntil w xs ws s
      (s.modEntry c (fun e => { e with owed := l })).stallCmd c

/-- A stalled engine goes on with what it has still to write.
(Log: DESIGN CHOICE, unsafe, entry 8.) -/
def State.engineResume (s : State) (c : Cid) (w : Writer) (xs : List Xlat) (owed : List (Bool × Nat × Bytes)) : State :=
  (s.modEntry c (fun e => { e with owed := [] })).engineWrite c w xs owed

/-- Whether the engine of a command has made its writes. -/
def State.written (s : State) (c : Cid) : Bool := (s.entry c).all (fun e => e.owed.isEmpty)

/-- A command stops its queue, ENABLED or DRAINING, and has QUEUE_STOPPED (02 Table 2.17; 13 R375).
(Log: DEDUCED, unsafe, entry 162.) -/
def State.stopQueue (s : State) (c : Cid) : State :=
  if ((s.part c.p).queue c.q).state = .enabled ∨ ((s.part c.p).queue c.q).state = .draining then
    (s.modEntry c (fun e => { e with queueStopped := true })).modQueue c.p c.q Queue.halt
  else s

/-- Whether a restore would redirect a sector back, or a replay rewrite it whole (13 Table 13.6, row 7): its block has a
sound shadow since the last released cut, or a command wrote it since then. -/
def Part.replayable (P : Part) (sector : Nat) : Bool :=
  P.shadows.any (fun x => decide (x.block = sector / 1024 ∧ P.released < x.epoch) && !x.poison.contains sector) ||
    P.wrote.any (fun w => coversSector w.1 w.2.1 sector)

/-- A read of a poisoned sector. One that a replay mends waits: its detector reports it, and the row RECOVER replays the
partition (13 Table 13.6, row 7). Any other escalates (R375): the command completes UNRECOVERABLE, its queue stops, and a
DATA_LOSS record names the sector.
(Log: DEDUCED, unsafe, entry 92.) -/
def State.escalate (s : State) (c : Cid) (sector va : Nat) : State :=
  if (s.part c.p).replayable sector then s else
  let cmd := ((s.entry c).map (fun e => cmdId e.cmd)).getD 0
  let s := (s.failCmd c .unrecoverable).stopQueue c
  s.health { Health.plain 2 8 (2 ^ c.p.val) (stackOf (sector * 64)) s.tick with
    epoch := (s.part c.p).openEpoch, addr := sector * 64, vaddr := va, cmd := cmd, queue := c.q }

/-- A command whose acceptance read a poisoned sector that no replay mends completes as UNRECOVERABLE and its queue stops
(13 R375).
(Log: DEDUCED, unsafe, entry 92.) -/
def State.refusePoisoned (s : State) (c : Cid) (sector va : Nat) : State :=
  if (s.part c.p).replayable sector then s else
  let cmd := ((s.entry c).map (fun e => cmdId e.cmd)).getD 0
  let s := (s.refuse c .unrecoverable).stopQueue c
  s.health { Health.plain 2 8 (2 ^ c.p.val) (stackOf (sector * 64)) s.tick with
    epoch := (s.part c.p).openEpoch, addr := sector * 64, vaddr := va, cmd := cmd, queue := c.q }

/-- The virtual address at which translated pages show a sector. -/
def sectorVa (xs : List Xlat) (sector : Nat) : Nat :=
  match xs.find? (fun x => !x.host && decide (x.base / 2 ^ 21 = sector * 64 / 2 ^ 21)) with
  | none => 0
  | some x => x.page * 2 ^ 21 + sector * 64 % 2 ^ 21

/-- The first poisoned sector that ranges of reads meet.
(Log: DEDUCED, unsafe, entry 92.) -/
def State.poisonReads (s : State) (xs : List Xlat) (rs : List (Nat × Nat)) : Option Nat :=
  rs.findSome? (fun r => if r.2 = 0 then none else s.poisonVa xs r.1 r.2)

/-- A command kind that starts at its acceptance: `check` gives what it translated, or the status it is refused
with; `exec` performs it. A walk that meets a poisoned table sector is a read of it (08 R217).
(Log: DESIGN CHOICE, unsafe, entry 8.) -/
def State.commandRow (s : State) (p : Fin 4) (q kind : Nat) (check : Entry → Except Status (List Xlat × List Rng))
    (exec : Cid → Entry → State → State) : State :=
  s.acceptHead p q kind (fun c e =>
    if e.accepted then exec c e (s.begin c)
    else
      match check e with
      | .error st => s.refuse c st
      | .ok (xs, rs) =>
        match s.walkPoison p rs with
        | some sec => s.refusePoisoned c sec 0
        | none => exec c { e with accepted := true, xlats := xs, reads := readRanges rs } ((s.accepted c xs rs).begin c))

/-! ### Retained copies whose co-location is lost (02 R68; 09 R261) -/

/-- Whether the command after number `n` in its queue is known not to be co-located with it: it has come to the head, or has
ended before, without. -/
def Queue.parted (Q : Queue) (n : Nat) : Bool :=
  Q.entries.any (fun x => decide (x.n = (n + 1) % 2 ^ 32) && (x.arrived || decide (x.phase = .finished)) &&
    decide (x.coloc.map (·.1) ≠ some n))

/-- The retained copies of a queue's sweeps whose co-location is lost are dropped. -/
def State.dropParted (s : State) (p : Fin 4) (q : Nat) : State :=
  { s with cores := { s.cores with retained := s.cores.retained.filter (fun r =>
    !(decide (r.cid.p = p ∧ r.cid.q = q) && ((s.part p).queue q).parted r.cid.n)) } }

/-! ### The finish of a command (02 R60, R70, R77; 05 R151) -/

/-- Bank of a micro-batch (02 R69): class O has two, class S one. -/
def Group.bank (G : Group) (m : Nat) : Bank := if G.overlapped && decide (m % 2 = 1) then G.bankOne else G.bankZero

/-- Set the bank of a micro-batch. -/
def Group.setBank (G : Group) (m : Nat) (b : Bank) : Group :=
  if G.overlapped && decide (m % 2 = 1) then { G with bankOne := b } else { G with bankZero := b }

/-- sc_end of every entry a command named, written back as in-place writes (05 R151, R156). -/
def State.scEndAll (s : State) (c : Cid) (e : Entry) : State :=
  if e.snaps = [] then s
  else s.engineWrite c (e.writer c) e.xlats (e.snaps.map (fun sn => (true, sn.va, scEnd sn)))

/-- The row COMMAND_FINISH for a command whose work is done: a sweep's when its last thread has retired. -/
def Entry.done (e : Entry) : Bool :=
  decide (e.phase = .executed) ||
    (decide (e.phase = .running) &&
      match e.sweep with
      | none => false
      | some w => e.allPlaced && w.threads.isEmpty)

end Sys2Proof.Machine
end

