-- ==== Sys2Proof/Machine/Shape.lean ====
section
/-! DEFINITION. The shape record of a copy: its fields, checks, reach and moves (08 R226 to R229, Table 8.7). -/

namespace Sys2Proof.Machine

/-- A shape record. -/
structure Shape where
  kind : Nat
  elem : Nat
  pad : Bool
  fp : Bool
  clear : Bool
  rowBytes : Nat
  rows : Nat
  planes : Nat
  srcRow : Int
  dstRow : Int
  srcPlane : Int
  dstPlane : Int
  aux : Nat
  tableRows : Nat
deriving DecidableEq, Repr

/-- The shape record of 64 bytes. -/
def shapeOf (b : Bytes) : Shape :=
  let f := at_ b 2 1
  { kind := at_ b 0 1, elem := at_ b 1 1, pad := bit f 0, fp := bit f 1, clear := bit f 2, rowBytes := at_ b 4 4,
    rows := at_ b 8 4, planes := at_ b 12 4, srcRow := signedOf 64 (at_ b 0x10 8), dstRow := signedOf 64 (at_ b 0x18 8),
    srcPlane := signedOf 64 (at_ b 0x20 8), dstPlane := signedOf 64 (at_ b 0x28 8), aux := at_ b 0x30 8,
    tableRows := at_ b 0x38 4 }

/-- The element size of TRANSPOSE. -/
def Shape.z (h : Shape) : Nat := 2 ^ h.elem

/-- Reserved bytes and bits of a shape record are 0 (R13, R15). -/
def shapeReserved (b : Bytes) : Bool :=
  decide (at_ b 2 1 < 8) && decide (at_ b 3 1 = 0) && decide (at_ b 0x3C 4 = 0)

/-- The field checks of 08 R226 and R228 that need no address but the destination's; `kinds` are the shapes the path
accepts and `command` says that FINGERPRINT and CLEAR are allowed (R235). -/
def Shape.ok (h : Shape) (kinds : List Nat) (command : Bool) (dst : Nat) : Bool :=
  kinds.contains h.kind && decide (1 ≤ h.rowBytes) &&
  (command || (!h.fp && !h.clear)) &&
  (match h.kind with
   | 0 => decide (h.elem = 0) && !h.pad && !h.clear && decide (h.rows = 0 ∧ h.planes = 0 ∧ h.srcRow = 0 ∧ h.dstRow = 0 ∧
       h.srcPlane = 0 ∧ h.dstPlane = 0 ∧ h.tableRows = 0) && (h.fp || decide (h.aux = 0)) &&
       (!h.fp || decide (dst % 4096 = 0))
   | 1 => decide (h.elem = 0) && !h.fp && !h.clear && decide (1 ≤ h.planes ∧ h.aux = 0 ∧ h.tableRows = 0) &&
       (!h.pad || decide ((h.rowBytes : Int) ≤ h.dstRow))
   | 2 => decide (h.elem ≤ 3) && !h.pad && !h.fp && !h.clear && decide (1 ≤ h.planes ∧ h.aux = 0 ∧ h.tableRows = 0) &&
       decide (h.rowBytes % h.z = 0)
   | 3 | 4 => decide (h.elem = 0) && !h.pad && !h.fp && !h.clear &&
       decide (h.planes = 0 ∧ h.srcPlane = 0 ∧ h.dstPlane = 0)
   | _ => decide (h.elem = 0) && !h.pad && !h.fp && decide (h.planes = 0 ∧ h.srcPlane = 0 ∧ h.dstPlane = 0 ∧ h.tableRows = 0))

/-! ### Reach (08 R222, R228) -/

/-- The byte ranges of outer × inner rows; rows that touch are one range. -/
def runs (base : Int) (outer : Nat) (opitch : Int) (inner : Nat) (ipitch : Int) (len : Nat) : List (Int × Nat) :=
  if len = 0 ∨ outer = 0 ∨ inner = 0 then []
  else if ipitch = (len : Int) then (List.range outer).map (fun (a : Nat) => (base + a * opitch, inner * len))
  else (List.range outer).flatMap (fun (a : Nat) => (List.range inner).map (fun (b : Nat) => (base + a * opitch + b * ipitch, len)))

/-- What a copy of a shape reads and the areas it writes, by address: source ranges on the source's side, ranges on
AUX, and the destination's areas. -/
structure Reach where
  src : List (Int × Nat)
  aux : List (Int × Nat)
  dst : List (Int × Nat)
  auxDst : List (Int × Nat)

/-- The reach of a shape from source s to destination d, with its index array or bitmap or checksums at `aux`. -/
def Shape.reach (h : Shape) (s d aux : Int) : Reach :=
  let idx : List (Int × Nat) := if h.rows = 0 then [] else [(aux, 4 * h.rows)]
  match h.kind with
  | 0 => { src := [(s, h.rowBytes)], aux := [], dst := [(d, h.rowBytes)],
           auxDst := if h.fp then [(aux, 8 * ((h.rowBytes + 4095) / 4096))] else [] }
  | 1 => { src := runs s h.planes h.srcPlane h.rows h.srcRow h.rowBytes, aux := [],
           dst := runs d h.planes h.dstPlane h.rows h.dstRow (if h.pad then h.dstRow.toNat else h.rowBytes), auxDst := [] }
  | 2 => { src := runs s h.planes h.srcPlane h.rows h.srcRow h.rowBytes, aux := [],
           dst := runs d h.planes h.dstPlane (h.rowBytes / h.z) h.dstRow (h.rows * h.z), auxDst := [] }
  | 3 => { src := runs s 1 0 h.tableRows h.srcRow h.rowBytes, aux := idx, dst := runs d 1 0 h.rows h.dstRow h.rowBytes,
           auxDst := [] }
  | 4 => { src := runs s 1 0 h.rows h.srcRow h.rowBytes, aux := idx, dst := runs d 1 0 h.tableRows h.dstRow h.rowBytes,
           auxDst := [] }
  | _ =>
    let bm : List (Int × Nat) := if h.rows = 0 then [] else [(aux, (h.rows + 7) / 8)]
    { src := runs s 1 0 h.rows h.srcRow h.rowBytes, aux := bm, dst := runs d 1 0 h.rows h.dstRow h.rowBytes,
      auxDst := if h.clear then bm else [] }

/-- The bounding range of an area. -/
def bounding : List (Int × Nat) → Option (Int × Int)
  | [] => none
  | (a, n) :: r =>
    match bounding r with
    | none => some (a, a + n)
    | some (lo, hi) => some (min a lo, max (a + n) hi)

/-- Whether any of the ranges meets the bounding range of an area. -/
def meets (rs : List (Int × Nat)) (area : List (Int × Nat)) : Bool :=
  match bounding area with
  | none => false
  | some (lo, hi) => rs.any (fun r => decide (0 < r.2 ∧ r.1 < hi ∧ lo < r.1 + r.2))

/-- The overlap test of 08 R228: source, index array or bitmap against the destination; a bitmap that is cleared is a second
destination, against the source and never against itself. A checksum array is none. -/
def Shape.overlaps (h : Shape) (r : Reach) : Bool :=
  if h.kind = 5 then meets (r.src ++ r.aux) r.dst || meets r.src r.auxDst
  else meets (r.src ++ r.aux) r.dst

/-! ### Moves (08 R227, R229) -/

/-- The 32-bit indices of an index array. -/
def indices : Nat → Bytes → List Nat
  | 0, _ => []
  | n + 1, l => le (l.take 4) :: indices n (l.drop 4)

/-- Bytes of the index array or bitmap of a shape. -/
def Shape.auxBytes (h : Shape) : Nat := if h.kind = 5 then (h.rows + 7) / 8 else if h.kind = 3 ∨ h.kind = 4 then 4 * h.rows else 0

/-- The rows of an indexed side, as the index array or bitmap names them: the source's for GATHER and BITMAP_GATHER, the
destination's for SCATTER; none for a null or out-of-range index. -/
def Shape.indexed (h : Shape) (src dst : Int) (aux : Bytes) : List Int :=
  let named (a pitch : Int) : List Int := (indices h.rows aux).filterMap (fun (x : Nat) =>
    if x < h.tableRows ∧ x ≠ 0xFFFFFFFF then some (a + x * pitch) else none)
  match h.kind with
  | 3 => named src h.srcRow
  | 4 => named dst h.dstRow
  | 5 => (List.range h.rows).filterMap (fun (r : Nat) =>
      if bit (aux.getD (r / 8) 0).toNat (r % 8) then some (src + r * h.srcRow) else none)
  | _ => []

/-- Sector accesses of an indexed row at an address (08 R238). -/
def Shape.rowSectors (h : Shape) (a : Nat) : Nat := (h.rowBytes + 63) / 64 + (if a % 64 = 0 then 0 else 1)

/-- What a copy writes, in order, each at an address on the destination's side, what it writes at AUX, and DETAIL. -/
structure Moves where
  dst : List (Int × Bytes)
  aux : List (Int × Bytes)
  detail : Nat

/-- The moves of BITMAP_GATHER over its bits from row r on, n rows already written. -/
def gatherBits (h : Shape) (s d : Int) (rd : Int → Nat → Bytes) (bm : Bytes) : Nat → Nat → Nat → List (Int × Bytes) × Nat
  | 0, _, n => ([], n)
  | k + 1, r, n =>
    if bit (bm.getD (r / 8) 0).toNat (r % 8) then
      let (l, n') := gatherBits h s d rd bm k (r + 1) (n + 1)
      ((d + n * h.dstRow, rd (s + r * h.srcRow) h.rowBytes) :: l, n')
    else gatherBits h s d rd bm k (r + 1) n

/-- A bitmap with its first `rows` bits cleared. -/
def clearBits (rows : Nat) (bm : Bytes) : Bytes :=
  bm.mapIdx (fun i b => if 8 * i + 8 ≤ rows then 0 else BitVec.ofNat 8 (b.toNat / 2 ^ (rows - 8 * i) * 2 ^ (rows - 8 * i)))

/-- The moves of a shape: `rd` reads the source's side, `aux` reads the index array or bitmap. -/
def Shape.moves (h : Shape) (s d : Int) (rd : Int → Nat → Bytes) (aux : Nat → Bytes) (auxVa : Int) : Moves :=
  match h.kind with
  | 0 =>
    let b := rd s h.rowBytes
    { dst := [(d, b)], aux := if h.fp then [(auxVa, (blockCrcs b).flatMap (toLe 8))] else [], detail := 0 }
  | 1 =>
    { dst := (List.range h.planes).flatMap (fun (p : Nat) => (List.range h.rows).map (fun (r : Nat) =>
        (d + p * h.dstPlane + r * h.dstRow,
         rd (s + p * h.srcPlane + r * h.srcRow) h.rowBytes ++ (if h.pad then zeros (h.dstRow.toNat - h.rowBytes) else [])))),
      aux := [], detail := 0 }
  | 2 =>
    { dst := (List.range h.planes).flatMap (fun (p : Nat) => (List.range h.rows).flatMap (fun (r : Nat) =>
        let row := rd (s + p * h.srcPlane + r * h.srcRow) h.rowBytes
        (List.range (h.rowBytes / h.z)).map (fun (c : Nat) =>
          (d + p * h.dstPlane + c * h.dstRow + r * h.z, (row.drop (c * h.z)).take h.z)))),
      aux := [], detail := 0 }
  | 3 =>
    let ix := indices h.rows (aux (4 * h.rows))
    { dst := ix.mapIdx (fun i x => (d + i * h.dstRow,
        if x < h.tableRows ∧ x ≠ 0xFFFFFFFF then rd (s + x * h.srcRow) h.rowBytes else zeros h.rowBytes)),
      aux := [], detail := (ix.filter (fun x => decide (x ≠ 0xFFFFFFFF ∧ h.tableRows ≤ x))).length }
  | 4 =>
    let ix := indices h.rows (aux (4 * h.rows))
    { dst := (ix.mapIdx (fun i x => (i, x))).filterMap (fun (y : Nat × Nat) =>
        if y.2 < h.tableRows ∧ y.2 ≠ 0xFFFFFFFF then some (d + y.2 * h.dstRow, rd (s + y.1 * h.srcRow) h.rowBytes) else none),
      aux := [], detail := (ix.filter (fun x => decide (x ≠ 0xFFFFFFFF ∧ h.tableRows ≤ x))).length }
  | _ =>
    let bm := aux ((h.rows + 7) / 8)
    let (l, n) := gatherBits h s d rd bm h.rows 0 0
    { dst := l, aux := if h.clear then [(auxVa, clearBits h.rows bm)] else [], detail := n }

end Sys2Proof.Machine
end

