-- ==== Sys2Proof/Machine/Copy.lean ====
section
/-! DEFINITION. Copies: the COPY command and the tile operations COPY_IN, COPY_OUT and COPY_MESH (08 R224 to R236;
09 R259 to R261; 11 R309). -/

namespace Sys2Proof.Machine

/-! ### The COPY command -/

/-- The shape record of a COPY command. -/
def copyShape (c : Bytes) : Bytes := (c.drop 0x40).take 64

/-- SRC of a COPY command. -/
def copySrc (c : Bytes) : Nat := at_ c 0x20 8

/-- DST of a COPY command. -/
def copyDst (c : Bytes) : Nat := at_ c 0x28 8

/-- A COPY command whose destination is a fabric endpoint. -/
def copyFabric (c : Bytes) : Bool := decide (at_ c 0x30 1 = 1)

/-- The reach of a COPY command. -/
def copyReach (c : Bytes) : Reach :=
  let h := shapeOf (copyShape c)
  let r := h.reach (copySrc c) (copyDst c) h.aux
  if copyFabric c then { r with dst := [] } else r

/-- Stage 1 of the checks of COPY (08 R226, R228, R230, R231; 11 R305). -/
def copyFieldsOk (c : Bytes) : Bool :=
  let h := shapeOf (copyShape c)
  let k := at_ c 0x30 1
  decide (k ≤ 1) && zeroAt c 0x36 10 && shapeReserved (copyShape c) &&
    (if k = 0 then decide (at_ c 0x31 1 = 0 ∧ at_ c 0x32 2 = 0 ∧ at_ c 0x34 2 = 0) && h.ok [0, 1, 2, 3, 4, 5] true (copyDst c)
     else decide (at_ c 0x31 1 ≤ 3 ∧ at_ c 0x32 2 < 2 ^ 14) && h.ok [0, 1, 3] true (copyDst c)) &&
    !h.overlaps (copyReach c)

/-- Ranges as translated. -/
def toRngs (write : Bool) (l : List (Int × Nat)) : List Rng := l.map (fun r => { va := r.1, len := r.2, write := write })

/-- Every byte range a COPY command can reach. -/
def copyRanges (c : Bytes) : List Rng :=
  let r := copyReach c
  toRngs false (r.src ++ r.aux) ++ toRngs true (r.dst ++ r.auxDst)

/-- The checks of COPY, in their stages (02 R39; 11 R319). -/
def State.copyCheck (s : State) (p : Fin 4) (e : Entry) : Except Status (List Xlat × List Rng) :=
  if !copyFieldsOk e.cmd then .error .invalid
  else if !bit (s.part p).pageTableBase.toNat 0 then .error .isolation
  else if copyFabric e.cmd && !((s.part p).flowEnable && (s.part p).maySend (at_ e.cmd 0x32 2)) then .error .isolation
  else
    match s.translate p (copyRanges e.cmd) with
    | none => .error .isolation
    | some xs => .ok (xs, copyRanges e.cmd)

/-- The moves of a COPY command, from memory as it stands. -/
def State.copyMoves (s : State) (e : Entry) : Moves :=
  let h := shapeOf (copyShape e.cmd)
  h.moves (copySrc e.cmd) (copyDst e.cmd) (fun a n => s.readVa e.xlats a.toNat n) (fun n => s.readVa e.xlats h.aux n) h.aux

/-- The rows that the index array or bitmap of a COPY command names, as it stands. -/
def State.copyIndexed (s : State) (e : Entry) : List Int :=
  let h := shapeOf (copyShape e.cmd)
  h.indexed (copySrc e.cmd) (copyDst e.cmd) (s.readVa e.xlats h.aux h.auxBytes)

/-- What a COPY command reads when it runs, for poison (13 R375): only the rows its indices or bitmap name. -/
def State.copyReads (s : State) (e : Entry) : List (Nat × Nat) :=
  let h := shapeOf (copyShape e.cmd)
  let r := copyReach e.cmd
  let rows := if h.kind = 3 ∨ h.kind = 5 then (s.copyIndexed e).map (fun a => (a, h.rowBytes)) else r.src
  (r.aux ++ rows).map (fun r => (r.1.toNat, r.2))

/-- The stacks of indexed rows count their sector accesses (08 R238; 15 Table 15.2); host pages have no stack. A row counts on
the stack of its first byte.
(Log: DESIGN CHOICE, unsafe, entry 140.) -/
def State.countIndexed (s : State) (xs : List Xlat) (h : Shape) (rows : List Int) : State :=
  rows.foldl (fun s a =>
    match locate xs a.toNat with
    | some (false, pa) => s.tally 3 (stackOf pa) 2 (h.rowSectors pa)
    | _ => s) s

/-- Send bytes of a COPY to its endpoint, each run from its own window offset on (08 R231; 11 R309). -/
def State.copySends (s : State) (c : Cid) (e : Entry) (l : List (Int × Bytes)) : State :=
  l.foldl (fun s x => s.sendWrites c.p (some c) (s.part c.p).openEpoch (at_ e.cmd 0x32 2) (at_ e.cmd 0x31 1) (at_ e.cmd 0x34 2)
    x.1.toNat x.2) s

/-- The bytes of a copy to an endpoint, in the order its shape defines, at consecutive window offsets (11 R309). -/
def fabricRun (c : Bytes) (m : Moves) : List (Int × Bytes) := [((copyDst c : Int), m.dst.flatMap (·.2))]

/-- What a COPY writes to memory: its moves, and what it writes at AUX (08 R227). -/
def copyDue (c : Bytes) (m : Moves) : List (Bool × Nat × Bytes) :=
  ((if copyFabric c then [] else m.dst) ++ m.aux).map (fun x => (false, x.1.toNat, x.2))

/-- The work of a COPY is done once its engine has made its writes. -/
def State.copyEnd (s : State) (c : Cid) : State := if s.written c then s.executed c id else s

/-- Perform a COPY command: one to an endpoint sends nothing once fabric traffic is off; a poisoned source escalates; at a
write that finds no free shadow block it stalls (11 R319; 13 R364, R375). -/
def State.copyRun (s : State) (c : Cid) (e : Entry) : State :=
  if copyFabric e.cmd && !(s.part c.p).flowEnable then s.failCmd c .isolation
  else
  match s.poisonReads e.xlats (s.copyReads e) with
  | some sec => s.escalate c sec (sectorVa e.xlats sec)
  | none =>
    let m := s.copyMoves e
    let rows := if copyFabric e.cmd && decide ((shapeOf (copyShape e.cmd)).kind = 4) then [] else s.copyIndexed e
    let s := s.countIndexed e.xlats (shapeOf (copyShape e.cmd)) rows
    let s := if copyFabric e.cmd then s.copySends c e (fabricRun e.cmd m) else s
    ((s.modEntry c (fun e => { e with detail := BitVec.ofNat 32 m.detail })).engineWrite c (e.writer c) e.xlats
      (copyDue e.cmd m)).copyEnd c

/-- Whether a command reaches host pages. -/
def Entry.hostful (e : Entry) : Bool := e.xlats.any (fun x => x.host)

/-- The row COPY (08 R230): a copy that reaches host pages starts here and makes its moves at its finish, because the
host's requests can still end in an error (08 R224).
(Log: DESIGN CHOICE, unsafe, entry 8; DEDUCED, safe, entry 39.) -/
def copy (p : Fin 4) (q : Nat) (s : State) : State :=
  s.engineRow p q .copy (fun e => decide (cmdKind e.cmd = 0x02)) (fun s =>
    s.commandRow p q 0x02 (s.copyCheck p) (fun c e s => if e.hostful then s else s.copyRun c e))

/-- The meaning of COPY. -/
def execCopy (p : Fin 4) (q : Nat) (s : State) : Host.Outcome State Fault Refusal := .next (copy p q s)

/-- The bytes of a move that are kept, as runs from address `a`. -/
def keepRuns : Int → List (Bool × Byte) → List (Int × Bytes)
  | _, [] => []
  | a, (k, b) :: r =>
    match k, keepRuns (a + 1) r with
    | false, l => l
    | true, (a', bs) :: l => if a' = a + 1 then (a, b :: bs) :: l else (a, [b]) :: (a', bs) :: l
    | true, [] => [(a, [b])]

/-- Whether each byte of a move is written: `tags` hold 2 for a byte of a piece that wrote, 1 for one of a piece that did not,
0 for a byte without a source, which follows the byte before it. -/
def keptOf : Bool → Bytes → Bytes → List (Bool × Byte)
  | _, _, [] => []
  | k, tags, b :: r =>
    let t := (tags.headD 0).toNat
    let k := if t = 0 then k else decide (t = 2)
    (k, b) :: keptOf k (tags.drop 1) r

/-- The source pages of a COPY: the pieces it is cut into (08 R232). -/
def copyPages (c : Bytes) : List Nat := ((copyReach c).src.flatMap (fun r => pagesOf r.1.toNat r.2)).eraseDups

/-- The moves of a COPY with each byte of its source replaced by a mark of its address; bytes without a source are 0. -/
def State.markMoves (s : State) (e : Entry) (mark : Nat → Byte) : List (Int × Bytes) :=
  let h := shapeOf (copyShape e.cmd)
  (h.moves (copySrc e.cmd) (copyDst e.cmd) (fun a n => (List.range n).map (fun k => mark (a.toNat + k)))
    (fun n => s.readVa e.xlats h.aux n) h.aux).dst

/-- The destination pages that the piece of source page `g` writes. -/
def State.pieceDst (s : State) (e : Entry) (g : Nat) : List Nat :=
  ((s.markMoves e (fun a => if a / 2 ^ 21 = g then 1 else 0)).flatMap (fun y =>
    (y.2.mapIdx (fun i b => if b = 1 then [(y.1.toNat + i) / 2 ^ 21] else [])).flatten)).eraseDups

/-- Whether a page is a host page. -/
def hostPage (xs : List Xlat) (g : Nat) : Bool := match locate xs (g * 2 ^ 21) with | some (true, _) => true | _ => false

/-- The moves of the pieces of a COPY, cut at 2 MiB boundaries of the source (08 R232), that were made although a host request
failed (R224): the failed piece, one with a host source or destination, wrote nothing; each other may have been written or
not. What goes to an endpoint keeps its place in the copy (11 R309).
(Log: DESIGN CHOICE, unsafe, entry 49.) -/
def State.partMoves (s : State) (e : Entry) : List (Int × Bytes) :=
  let pages := copyPages e.cmd
  let hosts := pages.filter (fun g =>
    hostPage e.xlats g || (!copyFabric e.cmd && (s.pieceDst e g).any (hostPage e.xlats)))
  let could := if hosts = [] then pages else hosts
  let failed := could.getD ((Config.freeWord s.free).toNat % could.length) 0
  let tag (a : Nat) : Byte :=
    if a / 2 ^ 21 ≠ failed ∧ Config.freeBool (s.free + 1 + pages.findIdx (· == a / 2 ^ 21)) = true then 2 else 1
  let kept := ((s.copyMoves e).dst.zip (s.markMoves e tag)).mapIdx (fun i y =>
    (y.1.1, keptOf (Config.freeBool (s.free + 1 + pages.length + i)) y.2.2 y.1.2))
  if copyFabric e.cmd then keepRuns (copyDst e.cmd) (kept.flatMap (·.2)) else kept.flatMap (fun y => keepRuns y.1 y.2)

/-- What a COPY whose host request failed has written or sent (08 R224): of its bytes those of some pieces, of its checksums
and bitmap bits nothing; a stalled one writes nothing more.
(Log: DESIGN CHOICE, unsafe, entry 49.) -/
def State.copyPart (s : State) (c : Cid) (e : Entry) : State :=
  let l := s.partMoves e
  let s := { s with free := s.free + 2 ^ 40 }
  if e.owed ≠ [] then s
  else if copyFabric e.cmd then s.copySends c e l
  else (State.writeUntil (e.writer c) e.xlats (l.map (fun x => (false, x.1.toNat, x.2))) s).1

/-- HOST_REQUEST_ERROR (08 R224): the command completes UNRECOVERABLE and the failure is logged through AER.
(Log: DESIGN CHOICE, unsafe, entry 49.) -/
def hostRequestError (c : Cid) (s : State) : State :=
  match s.entry c with
  | none => s
  | some e =>
    if e.phase ≠ .running ∨ e.hostful = false then s
    else ((if cmdKind e.cmd = 0x02 then s.copyPart c e else s).failCmd c .unrecoverable).aer c.p

/-- The meaning of HOST_REQUEST_ERROR. -/
def execHostRequestError (c : Cid) (s : State) : Host.Outcome State Fault Refusal := .next (hostRequestError c s)

/-! ### Tile copies (08 R234 to R236, Table 8.9) -/

/-- A signed 32-bit operand field. -/
def s32 (op : Bytes) (a : Nat) : Int := signedOf 32 (at_ op a 4)

/-- The shape record of a tile copy. -/
def tileShape (w : Sweep) (op : Bytes) : Bytes := w.slot (at_ op 2 2) ++ w.slot (at_ op 2 2 + 1)

/-- LS_OFFSET. -/
def tileLs (op : Bytes) : Nat := fld (at_ op 4 4) 0 21

/-- The HBM-side address of a thread. -/
def tileVa (cmd op : Bytes) (t : Nat) : Int :=
  let (x, y, z) := coords cmd t
  (at_ op 8 8 : Int) + x * s32 op 0x10 + y * s32 op 0x14 + z * s32 op 0x18

/-- The index array of thread t. -/
def tileAux (h : Shape) (t : Nat) : Nat := h.aux + 4 * h.rows * t

/-- The moves of COPY_IN: from memory into local-store offsets. -/
def State.copyInMoves (s : State) (x : Running) : Moves :=
  let h := shapeOf (tileShape x.w x.op)
  h.moves (tileVa x.e.cmd x.op x.h.t) (tileLs x.op) (fun a n => s.readVa x.e.xlats a.toNat n)
    (fun n => s.readVa x.e.xlats (tileAux h x.h.t) n) (tileAux h x.h.t)

/-- The rows of memory that the index array of a tile copy names. -/
def State.tileIndexed (s : State) (x : Running) : List Int :=
  let h := shapeOf (tileShape x.w x.op)
  let va := tileVa x.e.cmd x.op x.h.t
  h.indexed va va (s.readVa x.e.xlats (tileAux h x.h.t) h.auxBytes)

/-- The stacks count the indexed rows of a tile copy. -/
def State.countTile (s : State) (x : Running) : State :=
  s.countIndexed x.e.xlats (shapeOf (tileShape x.w x.op)) (s.tileIndexed x)

/-- What a COPY_IN reads. -/
def State.copyInReads (s : State) (x : Running) : List (Nat × Nat) :=
  let h := shapeOf (tileShape x.w x.op)
  let aux := tileAux h x.h.t
  if h.kind = 3 then (aux, 4 * h.rows) :: (s.tileIndexed x).map (fun a => (a.toNat, h.rowBytes))
  else (h.reach (tileVa x.e.cmd x.op x.h.t) (tileLs x.op) aux).src.map (fun r => (r.1.toNat, r.2))

/-- Bytes that moves carry. -/
def movesBytes (l : List (Int × Bytes)) : Nat := l.foldl (fun n x => n + x.2.length) 0

/-- Store moves into a thread's local store. -/
def Thread.lsMoves (h : Thread) (l : List (Int × Bytes)) : Thread := l.foldl (fun h x => h.lsWrite x.1.toNat x.2) h

/-- The retained copy that serves a COPY_IN of a co-located sweep (09 R260): of its shape record and its HBM range. -/
def State.retainedFor (s : State) (i : Tid) (x : Running) : Option Retained :=
  match x.w.coloc with
  | none => none
  | some n => s.cores.retained.find? (fun r => decide (r.cid = { i.cid with n := n }) && decide (r.t = x.h.t) &&
      decide (r.core = x.h.core) && r.shape == tileShape x.w x.op &&
      r.range == ((shapeOf r.shape).reach (tileVa x.e.cmd x.op x.h.t) (tileLs x.op) 0).src)

/-- Memory with a retained copy's range as the copy holds it, for a read that software's own write has made differ
(09 R261): which of the two is read is free.
(Log: DEDUCED, unsafe, entry 36.) -/
def State.retainedMoves (s : State) (m : Moves) (r : Retained) : List (Int × Bytes) :=
  if (m.dst.flatMap (·.2)) = r.bytes ∨ Config.freeBool s.free = false then m.dst
  else (m.dst.foldl (fun (acc : List (Int × Bytes) × Bytes) y => (acc.1 ++ [(y.1, acc.2.take y.2.length)], acc.2.drop y.2.length))
    ([], r.bytes)).1

/-- COPY_IN (08 R234, R235): a poisoned sector escalates (13 R375).
(Log: DESIGN CHOICE, unsafe, entry 10.) -/
def copyIn (i : Tid) (s : State) : State :=
  match s.running i 0x01 with
  | none => s
  | some x =>
    let served := s.retainedFor i x
    match if served.isSome then none else s.poisonReads x.e.xlats (s.copyInReads x) with
    | some sec => s.escalate i.cid sec (sectorVa x.e.xlats sec)
    | none =>
      let m := s.copyInMoves x
      let l := match served with
        | none => m.dst
        | some r => s.retainedMoves m r
      let s := ({ s with free := s.free + 1 }.countTile x).modThread i (fun h => (h.lsMoves l).retireOp)
      let s := (s.tally 0 x.h.core 2 1).threadEvent i 9 x.h.core 9 (movesBytes l) x.e.cmd
      if served.isSome then s.coreEvent i.cid.p x.h.core 11 (movesBytes l) (some x.e.cmd) else s

/-- The moves of COPY_OUT: from local-store offsets to memory. -/
def State.copyOutMoves (s : State) (x : Running) : Moves :=
  let h := shapeOf (tileShape x.w x.op)
  h.moves (tileLs x.op) (tileVa x.e.cmd x.op x.h.t) (fun a n => x.h.lsRead a.toNat n)
    (fun n => s.readVa x.e.xlats (tileAux h x.h.t) n) (tileAux h x.h.t)

/-- The core keeps a retained copy of a COPY_OUT of a recompute sweep (09 R259), unless its co-location is lost already (R261).
(Log: DEDUCED, unsafe, entry 36.) -/
def State.retain (s : State) (i : Tid) (x : Running) (m : Moves) : State :=
  let sh := tileShape x.w x.op
  let h := shapeOf sh
  if cmdFlag x.e.cmd 0 ∧ h.kind ≤ 1 ∧ ((s.part i.cid.p).queue i.cid.q).parted i.cid.n = false then
    let r : Retained := { cid := i.cid, t := x.h.t, core := x.h.core, shape := sh,
                          range := (h.reach (tileLs x.op) (tileVa x.e.cmd x.op x.h.t) 0).dst, bytes := m.dst.flatMap (·.2) }
    { s with cores := { s.cores with retained := s.cores.retained ++ [r] } }
  else s

/-- What a thread has read itself before its next operation: the ranges of its COPY_IN operations (13 R363). -/
def State.threadReads (s : State) (x : Running) : List (Nat × Nat) :=
  (List.range x.h.op).flatMap (fun k =>
    let op := opAt x.w.prog k
    if at_ op 0 1 = 0x01 then s.copyInReads { x with op := op } else [])

/-- What a COPY_OUT has to write: its moves, or what its stall left (13 R364). -/
def State.copyOutDue (s : State) (x : Running) : List (Nat × Bytes) :=
  if x.h.owed = [] then (s.copyOutMoves x).dst.map (fun y => (y.1.toNat, y.2)) else x.h.owed

/-- The writer that a COPY_OUT is. -/
def State.copyOutWriter (s : State) (i : Tid) (x : Running) : Writer :=
  { x.e.writer i.cid with thread := some i, own := s.threadReads x }

/-- The core of a COPY_OUT begins it: the rows its indices name are counted, and a recompute sweep keeps its copy. -/
def State.copyOutBegin (s : State) (i : Tid) (x : Running) : State :=
  if x.h.owed = [] then (s.countTile x).retain i x (s.copyOutMoves x) else s

/-- COPY_OUT (08 R234, R235): in-place bytes are shadowed; at a write that finds no free block the thread stalls, with what
it has still to write (13 R364).
(Log: DESIGN CHOICE, unsafe, entry 10.) -/
def copyOut (i : Tid) (s : State) : State :=
  match s.running i 0x02 with
  | none => s
  | some x =>
    let h := shapeOf (tileShape x.w x.op)
    match if h.kind = 4 ∧ x.h.owed = [] then s.poisonReads x.e.xlats [(tileAux h x.h.t, 4 * h.rows)] else none with
    | some sec => s.escalate i.cid sec (sectorVa x.e.xlats sec)
    | none =>
      let w := s.copyOutWriter i x
      let due := s.copyOutDue x
      let n := movesBytes (s.copyOutMoves x).dst
      if s.shadowRoom w x.e.xlats (due.map (fun y => (y.1, y.2.length))) then
        let s := due.foldl (fun s y => s.writeVa w x.e.xlats y.1 y.2) (s.copyOutBegin i x)
        let s := s.modThread i Thread.retireOp
        (s.tally 0 x.h.core 2 1).coreEvent i.cid.p x.h.core 10 n (some x.e.cmd)
      else
        let (s, l) := State.writeUntil w x.e.xlats (due.map (fun y => (false, y))) (s.copyOutBegin i x)
        (s.modThread i (fun h => { h with owed := l.map (·.2) })).modPart i.cid.p (fun P => P.stall (.thread i))

/-- The destination thread of a COPY_MESH (08 R236). -/
def meshDest (cmd op : Bytes) (t : Nat) : Nat :=
  let (x, y, z) := coords cmd t
  let wrap (v : Nat) (d : Nat) (n : Nat) : Nat := (((v : Int) + signedOf 8 d) % n).toNat
  wrap x (at_ op 0x1C 1) (gridX cmd) + gridX cmd * (wrap y (at_ op 0x1D 1) (gridY cmd) +
    gridY cmd * wrap z (at_ op 0x1E 1) (gridZ cmd))

/-- Which bytes a COPY_MESH wrote, and by which thread (13 R366). -/
def Thread.meshFrom (h : Thread) (src : Nat) (l : List (Int × Bytes)) : Thread :=
  { h with carry := l.foldl (fun m x => (List.range x.2.length).foldl (fun m k => sset 0 m (x.1.toNat + k) (src + 1)) m) h.carry }

/-- COPY_MESH (08 R236): bytes for a thread that has retired go nowhere.
(Log: DESIGN CHOICE, unsafe, entry 10.) -/
def copyMesh (i : Tid) (s : State) : State :=
  match s.running i 0x03 with
  | none => s
  | some x =>
    let h := shapeOf (tileShape x.w x.op)
    let m := h.moves (tileLs x.op) (fld (at_ x.op 8 8) 0 21) (fun a n => x.h.lsRead a.toNat n) (fun _ => []) 0
    let d : Tid := { i with t := meshDest x.e.cmd x.op x.h.t }
    let dest := x.w.thread d.t
    let s := (s.modThread d (fun h => (h.lsMoves m.dst).meshFrom i.t m.dst)).modThread i Thread.retireOp
    let s := (s.tally 0 x.h.core 2 1).threadEvent i 10 x.h.core 10 (movesBytes m.dst) x.e.cmd
    match dest with
    | none => s
    | some t => s.threadEvent i (16 + d.t) t.core 9 (movesBytes m.dst) x.e.cmd

/-- The meaning of COPY_IN. -/
def execCopyIn (i : Tid) (s : State) : Host.Outcome State Fault Refusal := .next (copyIn i s)

/-- The meaning of COPY_OUT. -/
def execCopyOut (i : Tid) (s : State) : Host.Outcome State Fault Refusal := .next (copyOut i s)

/-- The meaning of COPY_MESH. -/
def execCopyMesh (i : Tid) (s : State) : Host.Outcome State Fault Refusal := .next (copyMesh i s)

end Sys2Proof.Machine
end

