-- ==== Sys2Proof/Machine/Finish.lean ====
section
/-! DEFINITION. The finish of a command: the row COMMAND_FINISH (02 R60, R70, R77; 05 R151; 08 R224). -/

namespace Sys2Proof.Machine

/-- A collective that has done its work finishes once every packet it sent is acknowledged (12 R348). -/
def State.awaitsAck (s : State) (c : Cid) (e : Entry) : Bool :=
  decide (cmdKind e.cmd = 0x03) && decide (e.status = .ok) && ((s.part c.p).sends.any (fun x => x.cmd == some c) ||
    s.fab.held.any (fun h => h.send.any (fun (x : Fin 4 × Option Cid × Nat × Nat) => x.2.1 == some c)))

/-- The finish of a command whose work and writes are done (02 R60): the bank is released on OK, the signal is applied for OK or
DEFERRED and held when the command stopped its queue and nothing has resumed it (R77), and the finish is recorded. One whose
queue was resumed before its finish has SIGNAL_HELD although its signal is applied then. -/
def State.finishRest (s : State) (c : Cid) : State :=
  match s.entry c with
  | none => s
  | some e =>
    let ok := decide (e.status = .ok)
    let s := if ok && cmdFlag e.cmd 4 then
        s.modPart c.p (fun P => let g := groupOf c.q; P.setGroup g ((P.group g).setBank (cmdMicro e.cmd) .free))
      else s
    let qs := ((s.part c.p).queue c.q).state
    let s :=
      if !(ok || decide (e.status = .deferred)) || !cmdSignalEn e.cmd then s
      else if e.queueStopped then
        let s := s.modEntry c (fun e => { e with signalHeld := true })
        if e.resumed then s.applySignal c e.cmd
        else if qs = .stopped then s.modQueue c.p c.q (fun Q => { Q with held := Q.held ++ [(c.n, e.cmd)] })
        else s
      else s.applySignal c e.cmd
    let s := s.traceCmd c 2
    s.finishWith c (fun e => { e with
      threads := match e.sweep with | none => 0 | some w => w.retired.length,
      detail := match e.sweep with
        | none => e.detail
        | some w => BitVec.ofNat 32 (w.coreOf.map (·.2)).eraseDups.length })

/-- COMMAND_FINISH of a command whose work is done: on OK its scale-table entries are written back first (05 R151, R156), and at
one that finds no free shadow block the finish waits (13 R364). A command that ends otherwise leaves its entries as they were.
(Log: DESIGN CHOICE, unsafe, entry 8; DESIGN CHOICE, unsafe, entry 129; DESIGN CHOICE, unsafe, entry 130.) -/
def State.finishDone (s : State) (c : Cid) : State :=
  match s.entry c with
  | none => s
  | some e =>
    if !e.done || s.awaitsAck c e || decide (e.owed ≠ []) then s
    else
      let s := if e.status = .ok then s.scEndAll c e else s
      if s.written c then s.finishRest c else s

/-- COMMAND_FINISH: a copy that reaches host pages makes its moves here, its requests having ended well (08 R224); a PEG
command is done once its Peg has captured (15 R448).
(Log: DESIGN CHOICE, unsafe, entry 8.) -/
def commandFinish (c : Cid) (s : State) : State :=
  match s.entry c with
  | none => s
  | some e =>
    if e.phase = .running ∧ cmdKind e.cmd = 0x02 ∧ e.hostful = true ∧ e.owed = [] then (s.copyRun c e).finishDone c
    else if e.phase = .running ∧ cmdKind e.cmd = 0x13 ∧ (s.obs.peg.cause = some c → s.obs.peg.captured = true) then
      (s.executed c id).finishDone c
    else s.finishDone c

/-- The meaning of COMMAND_FINISH. -/
def execCommandFinish (c : Cid) (s : State) : Host.Outcome State Fault Refusal := .next (commandFinish c s)

end Sys2Proof.Machine
end

