-- ==== Sys2Proof/Machine/Press.lean ====
section
/-! DEFINITION. The PRESS command: its checks, the optimizer updates, moments, working copies, bitmaps and checksums
(08 R239 to R249; 05 R158, R159). -/

namespace Sys2Proof.Machine

/-! ### The tensor descriptor and the range of rows (08 Tables 8.11, 8.12) -/

/-- A PRESS command with its descriptor and hyperparameter record. -/
structure Press where
  cmd : Bytes
  d : Bytes
  hyper : Bytes
  seed : W64

/-- OPT. -/
def Press.opt (g : Press) : Nat := at_ g.cmd 0x20 1
/-- FIRST_ROW. -/
def Press.first (g : Press) : Nat := at_ g.cmd 0x28 4
/-- ROW_COUNT. -/
def Press.count (g : Press) : Nat := at_ g.cmd 0x2C 4
/-- A flag of PFLAGS. -/
def Press.flag (g : Press) (n : Nat) : Bool := bit (at_ g.cmd 0x21 1) n
/-- NORM. -/
def Press.norm (g : Press) : Nat := at_ g.cmd 0x40 8
/-- MASTER_FMT. -/
def Press.masterFmt (g : Press) : Nat := at_ g.d 0 1
/-- M1_FMT. -/
def Press.m1Fmt (g : Press) : Nat := at_ g.d 1 1
/-- M2_FMT. -/
def Press.m2Fmt (g : Press) : Nat := at_ g.d 2 1
/-- GRAD_FMT. -/
def Press.gradFmt (g : Press) : Nat := at_ g.d 3 1
/-- WORK_FMT. -/
def Press.workFmt (g : Press) : Nat := at_ g.d 4 1
/-- M1_SHIFT. -/
def Press.m1Shift (g : Press) : Int := signedOf 8 (at_ g.d 5 1)
/-- M2_SHIFT. -/
def Press.m2Shift (g : Press) : Int := signedOf 8 (at_ g.d 6 1)
/-- PATCH_SEL. -/
def Press.patchSel (g : Press) : Nat := fld (at_ g.d 7 1) 0 3
/-- SQUARE. -/
def Press.square (g : Press) : Bool := bit (at_ g.d 7 1) 3
/-- ROWS. -/
def Press.rows (g : Press) : Nat := at_ g.d 8 4
/-- COLS. -/
def Press.cols (g : Press) : Nat := at_ g.d 12 4
/-- An address of the descriptor. -/
def Press.va (g : Press) (off : Nat) : Nat := at_ g.d off 8
/-- A hyperparameter. -/
def Press.hp (g : Press) (off : Nat) : Val := FFmt.fp32.decode (at_ g.hyper off 4)
/-- Bytes of a master element. -/
def Press.masterSize (g : Press) : Nat := elemBits g.masterFmt / 8
/-- Whether the optimizer writes master and moments. -/
def Press.writes (g : Press) : Bool := decide (g.opt ≠ 3 ∧ g.opt ≠ 5)

/-- The bytes of elements [e, e + n) of an array, and of their block scales. -/
def arrayRngs (fmt base scales e n : Nat) (write : Bool) : List Rng :=
  { va := ((base + elemBits fmt * e / 8 : Nat) : Int), len := elemBits fmt * n / 8, write := write } ::
    (if isMx fmt then [{ va := ((scales + e / 32 : Nat) : Int), len := n / 32, write := write }] else [])

/-- The stride of an FP4P tile record (05 R133). -/
def Press.tileStride (g : Press) : Nat := 2176 + 64 * g.patchSel

/-- Tiles along a row. -/
def Press.tilesK (g : Press) : Nat := (g.cols + 63) / 64

/-- First and last byte of the command's master bytes in the master array. -/
def Press.masterSpan (g : Press) : Nat × Nat :=
  (g.first * g.cols * g.masterSize, (g.first + g.count) * g.cols * g.masterSize)

/-- Ranges that must lie on the unit's stack (08 R241): everything but the descriptor, the record and the norms. -/
def Press.stackRngs (g : Press) : List Rng :=
  let e := g.first * g.cols
  let n := g.count * g.cols
  let w := g.writes
  arrayRngs g.masterFmt (g.va 0x10) 0 e n w ++
  (if g.opt = 5 then [] else
    arrayRngs g.gradFmt (g.va 0x38) 0 e n false ++
    (if g.m1Fmt = 0 then [] else arrayRngs g.m1Fmt (g.va 0x18) (g.va 0x20) e n w) ++
    (if g.m2Fmt = 0 then [] else arrayRngs g.m2Fmt (g.va 0x28) (g.va 0x30) e n w)) ++
  (if g.workFmt = 0 ∨ g.opt = 3 then []
   else if g.workFmt = 0x0D then
     let t0 := g.first / 64
     let t1 := (g.first + g.count + 63) / 64
     [{ va := ((g.va 0x40 + g.tileStride * g.tilesK * t0 : Nat) : Int), len := g.tileStride * g.tilesK * (t1 - t0), write := true }]
   else arrayRngs g.workFmt (g.va 0x40) (g.va 0x48) e n true) ++
  (if w && decide (g.va 0x50 ≠ 0) then
     [{ va := ((g.va 0x50 + g.first / 8 : Nat) : Int), len := (g.first + g.count - 1) / 8 - g.first / 8 + 1, write := true },
      { va := ((g.va 0x50 + g.first / 8 : Nat) : Int), len := (g.first + g.count - 1) / 8 - g.first / 8 + 1, write := false }]
   else []) ++
  (if w && decide (g.va 0x58 ≠ 0) then
     let (a, b) := g.masterSpan
     [{ va := ((g.va 0x58 + 8 * (a / 4096) : Nat) : Int), len := 8 * ((b + 4095) / 4096 - a / 4096), write := true }]
   else [])

/-- What a written array's update also reads: the master and moments it rewrites. -/
def Press.readRngs (g : Press) : List Rng :=
  let e := g.first * g.cols
  let n := g.count * g.cols
  if g.writes then
    arrayRngs g.masterFmt (g.va 0x10) 0 e n false ++
    (if g.m1Fmt = 0 then [] else arrayRngs g.m1Fmt (g.va 0x18) (g.va 0x20) e n false) ++
    (if g.m2Fmt = 0 then [] else arrayRngs g.m2Fmt (g.va 0x28) (g.va 0x30) e n false)
  else []

/-- The row-norm array's range (08 R245). -/
def Press.normRngs (g : Press) : List Rng :=
  if g.opt = 3 then [{ va := ((g.norm + 8 * g.first : Nat) : Int), len := 8 * g.count, write := true }]
  else if g.opt = 4 then [{ va := (g.norm : Int), len := 8 * g.rows, write := false }]
  else []

/-! ### Checks (08 R239 to R241) -/

/-- Checks of the command's own fields. -/
def pressFieldsOk (c : Bytes) : Bool :=
  let opt := at_ c 0x20 1
  decide (opt ≤ 5) && decide (at_ c 0x21 1 < 8) && zeroAt c 0x22 2 && zeroAt c 0x48 56 && decide (1 ≤ at_ c 0x2C 4) &&
    decide (at_ c 0x30 8 % 64 = 0) && (decide (opt = 3 ∨ opt = 4) || decide (at_ c 0x40 8 = 0))

/-- Checks of the descriptor (08 R240 and the fields of Table 8.12). -/
def Press.descOk (g : Press) : Bool :=
  let last := g.first + g.count
  let (a, b) := g.masterSpan
  zeroAt g.d 0x60 32 && decide (fld (at_ g.d 7 1) 4 4 = 0) && decide (g.patchSel ≤ 4) &&
  decide (g.masterFmt = 2 ∨ g.masterFmt = 3) && decide (g.m1Fmt = 0 ∨ g.m1Fmt = 3 ∨ g.m1Fmt = 5 ∨ g.m1Fmt = 0x0C) &&
  decide (g.m2Fmt = 0 ∨ g.m2Fmt = 3 ∨ g.m2Fmt = 6 ∨ g.m2Fmt = 9) && decide (g.gradFmt = 2 ∨ g.gradFmt = 3) &&
  decide (g.workFmt = 0 ∨ g.workFmt = 3 ∨ g.workFmt = 8 ∨ g.workFmt = 0x0C ∨ g.workFmt = 0x0D) &&
  (!decide (g.opt = 0 ∨ g.opt = 2) || decide (g.m1Fmt ≠ 0 ∧ g.m2Fmt = 0)) &&
  (!decide (g.opt = 1 ∨ g.opt = 3 ∨ g.opt = 4) || decide (g.m1Fmt ≠ 0 ∧ g.m2Fmt ≠ 0)) &&
  (!decide (g.opt = 5) || decide (g.workFmt ≠ 0)) &&
  decide (-64 ≤ g.m1Shift ∧ g.m1Shift ≤ 63 ∧ -64 ≤ g.m2Shift ∧ g.m2Shift ≤ 63) &&
  (!isMx g.m1Fmt || decide (g.m1Shift = 0)) && (!isMx g.m2Fmt || decide (g.m2Shift = 0)) &&
  (isMx g.m1Fmt || decide (g.va 0x20 = 0)) && (isMx g.m2Fmt || decide (g.va 0x30 = 0)) &&
  (decide (g.workFmt = 8 ∨ g.workFmt = 0x0C) || decide (g.va 0x48 = 0)) &&
  decide (last ≤ g.rows) &&
  (!(isMx g.m1Fmt || isMx g.m2Fmt || decide (g.workFmt = 8 ∨ g.workFmt = 0x0C)) || decide (g.cols % 32 = 0)) &&
  (!decide (g.workFmt = 0x0D) || decide (g.first % 64 = 0 ∧ (last % 64 = 0 ∨ last = g.rows))) &&
  (!g.square || decide (g.first % 32 = 0 ∧ (last % 32 = 0 ∨ last = g.rows))) &&
  (decide (g.va 0x58 = 0) || decide (a % 4096 = 0 ∧ (b % 4096 = 0 ∨ b = g.rows * g.cols * g.masterSize)))

/-- The ranges of the descriptor and the hyperparameter record. -/
def pressTables (c : Bytes) : List Rng :=
  [{ va := (at_ c 0x30 8 : Int), len := 128, write := false }, { va := (at_ c 0x38 8 : Int), len := 64, write := false }]

/-- Every byte range a PRESS command can reach. -/
def Press.ranges (g : Press) : List Rng := pressTables g.cmd ++ g.stackRngs ++ g.readRngs ++ g.normRngs

/-- The stack of the master bytes of row FIRST_ROW, where they lie in HBM. -/
def Press.stack (g : Press) (xs : List Xlat) : Option Nat :=
  match locate xs (g.va 0x10 + g.masterSpan.1) with
  | some (false, a) => some (stackOf a)
  | _ => none

/-- Whether every byte that must lies on the unit's stack (08 R241). -/
def Press.onStack (g : Press) (xs : List Xlat) (stack : Nat) : Bool :=
  g.stackRngs.all (fun r => (r.pages.getD []).all (fun pg =>
    decide (r.len = 0) || match xs.find? (fun x => x.page == pg) with
      | some x => !x.host && decide (stackOf x.base = stack)
      | none => false))

/-- The checks of PRESS in their stages (02 R39; 08 R240, R241). The descriptor is read through its own translation
before its fields are checked.
(Log: DEDUCED, unsafe, entry 50.) -/
def State.pressCheck (s : State) (p : Fin 4) (e : Entry) : Except Status (List Xlat × List Rng × Bytes) :=
  if !pressFieldsOk e.cmd then .error .invalid
  else
    match s.translate p [{ va := (at_ e.cmd 0x30 8 : Int), len := 128, write := false }] with
    | none => .error .isolation
    | some dx =>
      let g : Press := { cmd := e.cmd, d := s.readVa dx (at_ e.cmd 0x30 8) 128, hyper := [], seed := 0 }
      if !g.descOk then .error .invalid
      else
        match s.translate p g.ranges with
        | none => .error .isolation
        | some xs =>
          match g.stack xs with
          | none => .error .invalid
          | some st => if g.onStack xs st then .ok (xs, g.ranges, g.d) else .error .invalid

/-! ### Loads (08 R242) -/

/-- Codes of elements [e, e + n) of an array. -/
def State.codesAt (s : State) (xs : List Xlat) (fmt base e n : Nat) : List Nat :=
  let b := s.readVa xs (base + elemBits fmt * e / 8) (elemBits fmt * n / 8)
  (List.range n).map (fun k => packedCode (elemBits fmt) b k)

/-- Scale codes of the blocks of elements [e, e + n). -/
def State.scalesAt (s : State) (xs : List Xlat) (fmt base e n : Nat) : List Nat :=
  if isMx fmt then (s.readVa xs (base + e / 32) (n / 32)).map (·.toNat) else []

/-- A load: exact; an MX element beyond FP32 is converted under 07 R194's rule. -/
def pressLoad (fmt : Nat) (shift : Int) (scales : List Nat) (codes : List Nat) (k : Nat) : Val × List Evt :=
  let c := codes.getD k 0
  let v := codeVal fmt [] c
  if isMx fmt then
    let r := convert .fp32 (scaled v (scales.getD (k / 32) 0)) c none
    (FFmt.fp32.decode r.code, r.evts)
  else (v.scale (-shift), [])

/-! ### The update of one element (08 R242, R245) -/

/-- The sign of Lion: +1 or −1; a zero or NaN itself. -/
def sgnVal (k : Val) : Val :=
  match k with
  | .nan => .nan
  | .zero s => .zero s
  | v => .num { m := if v.isNeg then -1 else 1, e := 0 }

/-- u, m′ and v′ of an optimizer, with the occurrences in the order of its steps.
(Log: DEDUCED, unsafe, entry 50.) -/
def Press.update (g : Press) (w gr m v : Val) : Val × Val × Val × List Evt :=
  let f := FFmt.fp32
  match g.opt with
  | 0 =>
    let (m', e1) := fma f (g.hp 0x04) m gr
    let (u, e2) := fma f (g.hp 0x18) w m'
    (u, m', v, e1 ++ e2)
  | 2 =>
    let (t, e1) := mulF f (g.hp 0x08) gr
    let (k, e2) := fma f (g.hp 0x04) m t
    let (u, e3) := fma f (g.hp 0x18) w (sgnVal k)
    let (t2, e4) := mulF f (g.hp 0x10) gr
    let (m', e5) := fma f (g.hp 0x0C) m t2
    (u, m', v, e1 ++ e2 ++ e3 ++ e4 ++ e5)
  | _ =>
    let (t, e1) := mulF f (g.hp 0x08) gr
    let (m', e2) := fma f (g.hp 0x04) m t
    let (g2, e3) := mulF f gr gr
    let (t2, e4) := mulF f (g.hp 0x10) g2
    let (v', e5) := fma f (g.hp 0x0C) v t2
    let (a, e6) := mulF f m' (g.hp 0x1C)
    let (b, e7) := mulF f v' (g.hp 0x20)
    let (r, e8) := sqrtF f b
    let (den, e9) := addF f r (g.hp 0x14)
    let (q, e10) := divF f a den
    let (u, e11) := fma f (g.hp 0x18) w q
    (u, m', v', e1 ++ e2 ++ e3 ++ e4 ++ e5 ++ e6 ++ e7 ++ e8 ++ e9 ++ e10 ++ e11)

/-- The random word for an element and a target (08 R244, Table 8.14). -/
def Press.word (g : Press) (e target : Nat) : Nat :=
  quadWord (philox (g.seed.toNat % 2 ^ 32) (g.seed.toNat / 2 ^ 32) (at_ g.cmd 0x24 4) (e / 4 % 2 ^ 32) (cmdStep g.cmd)
    (2 * 2 ^ 28 + target * 2 ^ 24 + e / 4 / 2 ^ 32 % 2 ^ 24)) e

/-- round_master of the exact w − LR·u (08 R242): FP32 nearest-even; BF16 stochastic, target 1.
(Log: DEDUCED, unsafe, entry 50.) -/
def Press.apply (g : Press) (lr u w : Val) (e : Nat) : Val × List Evt :=
  if g.masterFmt = 2 then fnma .fp32 lr u w
  else
    match (mulVal lr.neg u).1, w with
    | .num x, .num y =>
      let d := x.add y
      if d.m = 0 then (.zero false, [])
      else rnd d
    | .num x, .zero _ => rnd x
    | .zero _, .num y => rnd y
    | _, _ => fnma .fp32 lr u w
where
  /-- The stochastic rounding: a conversion to MASTER_FMT, whose overflow has kind 6; its source, an exact value, is recorded
  as its FP32 bits. -/
  rnd (d : Dyadic) : Val × List Evt :=
    let (v, o) := FFmt.roundD .bf16 d (some (g.word e 1))
    (v, if o then [Evt.plain 6 (FFmt.fp32.encode (FFmt.roundD .fp32 d none).1) (FFmt.bf16.encode v)] else [])

/-- One element worked through: its new master, moments, direction and occurrences. -/
structure PElem where
  w : Val
  m : Val
  v : Val
  u : Val
  old : Val

/-- The record data of an occurrence at row r, column c (08 R249). -/
def Press.exc (g : Press) (tick r c fmtOut : Nat) (e : Evt) : Exc :=
  { e with chunk := 0xFFFFFFFF, term := 0xFF }.exc 0 0 r c tick g.gradFmt g.masterFmt fmtOut

/-- What a row is loaded as. -/
structure PRow where
  r : Nat
  live : Bool
  elems : List PElem
  excs : List Exc

/-- Load and update row r. -/
def Press.row (g : Press) (s : State) (xs : List Xlat) (lr : Val) (r : Nat) : PRow :=
  let n := g.cols
  let e := r * n
  let wc := s.codesAt xs g.masterFmt (g.va 0x10) e n
  let requant := decide (g.opt = 5)
  let gc := if requant then [] else s.codesAt xs g.gradFmt (g.va 0x38) e n
  let m1 := if requant || decide (g.m1Fmt = 0) then [] else s.codesAt xs g.m1Fmt (g.va 0x18) e n
  let s1 := if requant || decide (g.m1Fmt = 0) then [] else s.scalesAt xs g.m1Fmt (g.va 0x20) e n
  let m2 := if requant || decide (g.m2Fmt = 0) then [] else s.codesAt xs g.m2Fmt (g.va 0x28) e n
  let s2 := if requant || decide (g.m2Fmt = 0) then [] else s.scalesAt xs g.m2Fmt (g.va 0x30) e n
  let live := requant || !g.flag 2 || gc.any (fun c => match codeVal g.gradFmt [] c with | .zero _ => false | _ => true)
  let one (c : Nat) : PElem × List Exc :=
    let w := codeVal g.masterFmt [] (wc.getD c 0)
    if requant || !live then ({ w := w, m := .nan, v := .nan, u := .zero false, old := w }, [])
    else
      let (m, e1) := pressLoad g.m1Fmt g.m1Shift s1 m1 c
      let (v, e2) := if g.m2Fmt = 0 then (Val.zero false, []) else pressLoad g.m2Fmt g.m2Shift s2 m2 c
      let (u, m', v', e3) := g.update w (codeVal g.gradFmt [] (gc.getD c 0)) m v
      let (w', e4) := if g.opt = 3 then (w, []) else g.apply lr u w (e + c)
      ({ w := w', m := m', v := v', u := u, old := w },
       (e1 ++ e2 ++ e3).map (g.exc s.tick r c 0x02) ++
         e4.map (fun x => g.exc s.tick r c (if x.kind = 6 then g.masterFmt else 0x02) x))
  let l := (List.range n).map one
  { r := r, live := live, elems := l.map (·.1), excs := l.flatMap (·.2) }

/-! ### Writing arrays (04 R116, R117; 05 R144, R159) -/

/-- One block under a scale: its codes, final scale and occurrences by place in it. -/
def encodeBlock (fmt s : Nat) (vals : List Val) (srcCode : Val → Nat) (word : Nat → Option Nat) :
    List Nat × Nat × List (Nat × Evt) :=
  let conv := vals.mapIdx (fun k v => convertElem fmt [] v s (srcCode v) (word k))
  let evts := (conv.mapIdx (fun k x => x.evts.map (fun e => (k, e)))).flatten
  if conv.any (·.nanBlock) then (vals.map (fun _ => 0), 0xFF, evts) else (conv.map (·.code), s, evts)

/-- The codes, scales and occurrences (by column) of a row of values in a format, block scale b of the row given. -/
def encodeRow (fmt : Nat) (vals : List Val) (scale : Nat → Nat) (srcCode : Val → Nat) (word : Nat → Option Nat) :
    List Nat × List Nat × List (Nat × Evt) :=
  if isMx fmt then
    let blocks := (chunks32 vals.length vals).mapIdx (fun b l =>
      let (c, s, ev) := encodeBlock fmt (scale b) l srcCode (fun k => word (32 * b + k))
      (c, s, ev.map (fun (x : Nat × Evt) => (32 * b + x.1, x.2))))
    (blocks.flatMap (·.1), blocks.map (·.2.1), blocks.flatMap (·.2.2))
  else
    let (c, _, ev) := encodeBlock fmt 127 vals srcCode word
    (c, [], ev)

/-- Writes of a row: elements and scales. -/
def rowWrites (fmt base scales e : Nat) (codes sc : List Nat) : List (Nat × Bytes) :=
  (base + elemBits fmt * e / 8, packCodes (elemBits fmt) codes) ::
    (if isMx fmt then [(scales + e / 32, sc.map (fun x => BitVec.ofNat 8 x))] else [])

/-- A moment's row: converted from the FP32 value (08 R242). -/
def Press.momentRow (g : Press) (tick fmt : Nat) (shift : Int) (base scales : Nat) (sr : Bool) (target r : Nat)
    (vals : List Val) : List (Nat × Bytes) × List Exc :=
  let e := r * g.cols
  let xs := vals.map (fun v => v.scale shift)
  let sc (b : Nat) : Nat := localScale fmt [] (amaxOf ((xs.drop (32 * b)).take 32))
  let (codes, scs, ev) := encodeRow fmt xs sc (fun v => FFmt.fp32.encode (v.scale (-shift)))
    (fun k => if sr then some (g.word (e + k) target) else none)
  (rowWrites fmt base scales e codes scs, ev.map (fun (x : Nat × Evt) => g.exc tick r x.1 fmt x.2))

/-- The working copy of element rows (BF16, MXFP8, MXFP4) that share their scales (08 R243, R246). -/
def Press.workRows (g : Press) (tick : Nat) (grp : List PRow) : List (Nat × Bytes) × List Exc :=
  let fmt := g.workFmt
  let sc (b : Nat) : Nat := localScale fmt [] (amaxOf (grp.flatMap (fun x => ((x.elems.map (·.w)).drop (32 * b)).take 32)))
  let rows := grp.map (fun x =>
    let e := x.r * g.cols
    let (codes, scs, ev) := encodeRow fmt (x.elems.map (·.w)) sc
      (fun v => ((elemFmt g.masterFmt).getD .fp32).encode v) (fun k => some (g.word (e + k) 0))
    (rowWrites fmt (g.va 0x40) (g.va 0x48) e codes scs, ev.map (fun (y : Nat × Evt) => g.exc tick x.r y.1 fmt y.2)))
  (rows.flatMap (·.1), rows.flatMap (·.2))

/-- One FP4P tile record from its rows (05 R133 to R136, R158). A block outside the extents carries its square's code, as every
block of a square does (R142), and 0x7F where nothing of the square lies within them. -/
def Press.tileRecord (g : Press) (tick : Nat) (grp : List PRow) (tk : Nat) : Bytes × List Exc :=
  let row (r : Nat) : List Val := match grp.find? (fun x => x.r % 64 == r) with
    | some x => ((x.elems.map (·.w)).drop (64 * tk)).take 64
    | none => []
  let blk (r h : Nat) : List Val := ((row r).drop (32 * h)).take 32
  let base := match grp with | x :: _ => x.r / 64 * 64 | [] => 0
  let squared (r h : Nat) : Bool := g.square && (List.range 32).any (fun k => !(blk (r / 32 * 32 + k) h).isEmpty)
  let scale (r h : Nat) : Nat :=
    if g.square then localScale 0x0D [] (amaxOf ((List.range 32).flatMap (fun k => blk (r / 32 * 32 + k) h)))
    else localScale 0x0D [] (amaxOf (blk r h))
  let done := (List.range 64).map (fun r => (List.range 2).map (fun h =>
    let (c, s, ev) := encodeBlock 0x0D (scale r h) (blk r h) (fun v => ((elemFmt g.masterFmt).getD .fp32).encode v)
      (fun k => some (g.word ((base + r) * g.cols + 64 * tk + 32 * h + k) 0))
    (c, if !(blk r h).isEmpty then s else if squared r h then scale r h else 0x7F, ev.map (fun (x : Nat × Evt) => g.exc tick (base + r) (64 * tk + 32 * h + x.1) 0x0D x.2))))
  let scales := done.flatMap (fun l => l.map (fun x => x.2.1))
  let elems := (List.range 64).flatMap (fun r => (row r).mapIdx (fun c v => (64 * r + c, v, scales.getD (2 * r + c / 32) 0x7F)))
  let patches := selectPatches elems (16 * g.patchSel)
  let patched := (patches.filter (fun w => decide (w ≠ 0x0007F000))).map (fun w => fld w 0 12)
  let codes := (List.range 4096).map (fun p =>
    if patched.contains p then
      match elems.find? (fun x => x.1 == p) with
      | some (_, v, sc) => (convertElem 0x0D [] v sc 0 none).code
      | none => 0
    else ((((done.getD (p / 64) []).getD (p % 64 / 32) ([], 0, [])).1).getD (p % 32) 0))
  (packCodes 4 codes ++ scales.map (fun x => BitVec.ofNat 8 x) ++ patches.flatMap (toLe 4),
   done.flatMap (fun l => l.flatMap (fun x => x.2.2)))

/-- Groups of rows of k, aligned to multiples of k. -/
def rowGroups (k : Nat) (rows : List PRow) : List (List PRow) :=
  ((rows.map (fun x => x.r / k)).eraseDups).map (fun q => rows.filter (fun x => x.r / k == q))

/-- The working copy's writes (08 R243, R246): a group in which no row is live is not written. -/
def Press.work (g : Press) (tick : Nat) (rows : List PRow) : List (Nat × Bytes) × List Exc :=
  if g.workFmt = 0 then ([], [])
  else if g.workFmt = 0x0D then
    let out := ((rowGroups 64 rows).filter (fun l => l.any (·.live))).flatMap (fun l =>
      (List.range g.tilesK).map (fun tk =>
        let (b, ex) := g.tileRecord tick l tk
        let tr := match l with | x :: _ => x.r / 64 | [] => 0
        ((g.va 0x40 + g.tileStride * (tr * g.tilesK + tk), b), ex)))
    (out.map (·.1), out.flatMap (·.2))
  else
    let k := if isMx g.workFmt && g.square then 32 else 1
    let out := ((rowGroups k rows).filter (fun l => l.any (·.live))).map (fun l => g.workRows tick l)
    (out.flatMap (·.1), out.flatMap (·.2))

/-! ### Norms (08 R245) -/

/-- The ordered sum of rnd(x × x) over a row, with its occurrences by column: a square's is its element's; one of the sum,
which concerns no one element, has column 0.
(Log: DESIGN CHOICE, unsafe, entry 146.) -/
def squareSum (l : List Val) : Val × List (Nat × Evt) :=
  let sq := l.map (fun v => mulF .fp32 v v)
  let (v, e) := orderedSumOf .fp32 (sq.map (·.1))
  (v, (sq.mapIdx (fun c x => x.2.map (fun y => (c, y)))).flatten ++ e.map (fun y => (0, y)))

/-- TRUST_NORM's two values of a row. -/
def Press.normRow (g : Press) (tick : Nat) (x : PRow) : (Nat × Bytes) × List Exc :=
  let (sw, e1) := squareSum (x.elems.map (·.w))
  let (su, e2) := if x.live then squareSum (x.elems.map (·.u)) else (.zero false, [])
  ((g.norm + 8 * x.r, toLe 4 (FFmt.fp32.encode sw) ++ toLe 4 (FFmt.fp32.encode su)),
   (e1 ++ e2).map (fun y => g.exc tick x.r y.1 0x02 y.2))

/-- A positive sum. -/
def Val.positive (v : Val) : Bool :=
  match v with
  | .num d => decide (0 < d.m)
  | .inf false => true
  | _ => false

/-- The learning rate in force: TRUST_APPLY's is rnd(LR × ratio).
(Log: DESIGN CHOICE, unsafe, entry 146.) -/
def Press.rate (g : Press) (s : State) (xs : List Xlat) : Val × List Exc :=
  let lr := g.hp 0x00
  if g.opt ≠ 4 then (lr, [])
  else
    let b := s.readVa xs g.norm (8 * g.rows)
    let word (k : Nat) : Val := FFmt.fp32.decode (at_ b (4 * k) 4)
    let (sw, e1) := orderedSumOf .fp32 ((List.range g.rows).map (fun r => word (2 * r)))
    let (su, e2) := orderedSumOf .fp32 ((List.range g.rows).map (fun r => word (2 * r + 1)))
    if sw.positive && su.positive then
      let (a, e3) := sqrtF .fp32 sw
      let (b, e4) := sqrtF .fp32 su
      let (q, e5) := divF .fp32 a b
      let (x, e6) := mulF .fp32 lr (minMax false false q (g.hp 0x24))
      (x, (e1 ++ e2 ++ e3 ++ e4 ++ e5 ++ e6).map (g.exc s.tick 0 0 0x02))
    else
      let (x, e3) := mulF .fp32 lr (.num { m := 1, e := 0 })
      (x, (e1 ++ e2 ++ e3).map (g.exc s.tick 0 0 0x02))

/-! ### The command -/

/-- What a PRESS command writes: in-place bytes, the working copy or norms, the rows changed by them, occurrences. -/
structure PressOut where
  inPlace : List (Nat × Bytes)
  other : List (Nat × Bytes)
  rows : List PRow
  excs : List Exc

/-- The writes of a live row's master and moments. -/
def Press.rowOut (g : Press) (tick : Nat) (x : PRow) : List (Nat × Bytes) × List Exc :=
  if !x.live then ([], [])
  else
    let f := (elemFmt g.masterFmt).getD .fp32
    let mw := rowWrites g.masterFmt (g.va 0x10) 0 (x.r * g.cols) (x.elems.map (fun e => f.encode e.w)) []
    let (w1, e1) := g.momentRow tick g.m1Fmt g.m1Shift (g.va 0x18) (g.va 0x20) (g.flag 0) 2 x.r (x.elems.map (·.m))
    let (w2, e2) := if g.m2Fmt = 0 then ([], [])
      else g.momentRow tick g.m2Fmt g.m2Shift (g.va 0x28) (g.va 0x30) (g.flag 1) 3 x.r (x.elems.map (·.v))
    (mw ++ w1 ++ w2, e1 ++ e2)

/-- Everything a PRESS command computes, from memory as it stands. -/
def Press.compute (g : Press) (s : State) (xs : List Xlat) : PressOut :=
  let (lr, e0) := g.rate s xs
  let rows := (List.range g.count).map (fun k => g.row s xs lr (g.first + k))
  let e1 := rows.flatMap (·.excs)
  if g.opt = 3 then
    let out := rows.map (g.normRow s.tick)
    { inPlace := [], other := out.map (·.1), rows := [], excs := e1 ++ out.flatMap (·.2) }
  else
    let upd := if g.opt = 5 then [] else rows.map (g.rowOut s.tick)
    let (work, e3) := g.work s.tick rows
    { inPlace := upd.flatMap (·.1), other := work, rows := if g.opt = 5 then [] else rows,
      excs := e0 ++ e1 ++ upd.flatMap (·.2) ++ e3 }

/-- Rows whose stored master, moments or scales the writes change (08 R247). -/
def State.changedRows (s : State) (xs : List Xlat) (g : Press) (rows : List PRow) : List Nat :=
  (rows.filter (fun x => (g.rowOut s.tick x).1.any (fun w => decide (s.readVa xs w.1 w.2.length ≠ w.2)))).map (·.r)

/-- Set the bits of rows in the bitmap: the writes, and how many bits were 0 (08 R247). -/
def State.bitmapWrites (s : State) (xs : List Xlat) (base : Nat) (rows : List Nat) : List (Nat × Bytes) × Nat :=
  let bytes := (rows.map (fun r => r / 8)).eraseDups
  let out := bytes.map (fun k =>
    let old := (s.readVaByte xs (base + k)).toNat
    let new := (rows.filter (fun r => r / 8 == k)).foldl (fun b r => setFld b (r % 8) 1 1) old
    ((base + k, toLe 1 new), ((rows.filter (fun r => r / 8 == k && !bit old (r % 8))).eraseDups).length))
  (out.map (·.1), out.foldl (fun n x => n + x.2) 0)

/-- The checksums of the master blocks the command rewrote, read after the update (08 R248). -/
def State.masterCrcs (s : State) (xs : List Xlat) (g : Press) (rows : List PRow) : List (Nat × Bytes) :=
  let rowBytes := g.cols * g.masterSize
  let (a, b) := g.masterSpan
  let total := g.rows * rowBytes
  (List.range ((b + 4095) / 4096 - a / 4096)).filterMap (fun k =>
    let blk := a / 4096 + k
    let lo := 4096 * blk
    let hi := min total (lo + 4096)
    if rows.any (fun x => x.live && decide (x.r * rowBytes < hi ∧ lo < (x.r + 1) * rowBytes)) then
      some (g.va 0x58 + 8 * blk, toLe 8 (crc64 (s.readVa xs (g.va 0x10 + lo) (hi - lo))))
    else none)

/-- Write a list of byte strings. -/
def State.writeAll (s : State) (w : Writer) (xs : List Xlat) (l : List (Nat × Bytes)) : State :=
  l.foldl (fun s x => s.writeVa w xs x.1 x.2) s

/-- A command leaves its stack's unit. -/
def State.pressOut (s : State) (c : Cid) : State :=
  { s with mem := { s.mem with pressQueue := s.mem.pressQueue.filter (fun x => x.2 != c) } }

/-- The work of a PRESS command is done, and it leaves its unit, once the unit has made its writes. -/
def State.pressEnd (s : State) (c : Cid) : State := if s.written c then (s.pressOut c).executed c id else s

/-- What a PRESS command writes: master, moments, bitmap and checksums, which are in place (13 R361), then the working copy or
norms; and how many bitmap bits it sets. -/
def State.pressDue (s : State) (g : Press) (xs : List Xlat) (w : Writer) (o : PressOut) : List (Bool × Nat × Bytes) × Nat :=
  let (bm, set) := if g.writes && decide (g.va 0x50 ≠ 0) then s.bitmapWrites xs (g.va 0x50) (s.changedRows xs g o.rows) else ([], 0)
  let own := o.inPlace ++ bm
  let crcs := if g.writes && decide (g.va 0x58 ≠ 0) then (s.writeAll (w.whose true) xs own).masterCrcs xs g o.rows else []
  ((own ++ crcs).map (fun x => (true, x)) ++ o.other.map (fun x => (false, x)), set)

/-- Perform a PRESS command: a poisoned source escalates; at a write that finds no free shadow block it stalls (13 R364, R375). -/
def State.pressRun (s : State) (c : Cid) (e : Entry) : State :=
  if e.owed ≠ [] then s
  else
  let g : Press :=
    { cmd := e.cmd, d := e.kept.take 128, hyper := e.kept.drop 128, seed := ((s.part c.p).group (groupOf c.q)).seed }
  match s.poisonReads e.xlats (readRanges (g.ranges.drop 2)) with
  | some sec => (s.pressOut c).escalate c sec (sectorVa e.xlats sec)
  | none =>
    let o := g.compute s e.xlats
    let (due, set) := s.pressDue g e.xlats (e.writer c) o
    let unit := ((g.stack e.xlats).getD 0)
    let s := (((s.note c o.excs).tally 4 unit 0 (g.count * g.cols)).tally 4 unit 1 1).tally 4 unit 3 set
    ((s.modEntry c (fun e => { e with detail := BitVec.ofNat 32 set })).engineWrite c (e.writer c) e.xlats due).pressEnd c

/-- Run the commands that have entered a unit, one at a time in the order they entered, until one stalls (08 R241).
(Log: DEDUCED, unsafe, entry 51.) -/
def State.pressUnit (s : State) (stack : Nat) : Nat → State
  | 0 => s
  | n + 1 =>
    match s.mem.pressQueue.find? (fun x => x.1 == stack) with
    | none => s
    | some (_, c) =>
      match s.entry c with
      | none => s
      | some e =>
        let s' := s.pressRun c e
        if s'.mem.pressQueue.contains (stack, c) then s' else s'.pressUnit stack n

/-- A PRESS command enters its unit's four-entry input queue, or holds the head while the queue is full (08 R241); the
command that runs takes none of the four entries. It starts by entering: its hyperparameters are read then (R37, R240), once
for every replay.
(Log: DEDUCED, unsafe, entry 51.) -/
def State.pressEnter (s : State) (c : Cid) (e : Entry) : State :=
  let g : Press := { cmd := e.cmd, d := e.kept.take 128, hyper := [], seed := 0 }
  let stack := (g.stack e.xlats).getD 0
  if 5 ≤ (s.mem.pressQueue.filter (fun x => x.1 == stack)).length then s
  else
    let hyper := at_ e.cmd 0x38 8
    match if e.kept.length = 192 then none else s.poisonReads e.xlats [(hyper, 64)] with
    | some sec => (s.begin c).escalate c sec (sectorVa e.xlats sec)
    | none =>
      let kept := if e.kept.length = 192 then e.kept else e.kept.take 128 ++ s.readVa e.xlats hyper 64
      let s := (s.begin c).modEntry c (fun e => { e with kept := kept })
      let s := { s with mem := { s.mem with pressQueue := s.mem.pressQueue ++ [(stack, c)] } }
      s.pressUnit stack 6

/-- The row PRESS (08 R239 to R241).
(Log: DEDUCED, unsafe, entry 51.) -/
def press (p : Fin 4) (q : Nat) (s : State) : State :=
  s.acceptHead p q 0x05 (fun c e =>
    if e.accepted then s.pressEnter c e
    else
      match s.pressCheck p e with
      | .error st => s.refuse c st
      | .ok (xs, rs, d) =>
        match (s.walkPoison p rs).orElse (fun _ => s.poisonReads xs [(at_ e.cmd 0x30 8, 128)]) with
        | some sec => s.refusePoisoned c sec (sectorVa xs sec)
        | none =>
          let s := (s.accepted c xs rs).modEntry c (fun e => { e with kept := d })
          match s.entry c with
          | none => s
          | some e => s.pressEnter c e)

/-- The meaning of PRESS. -/
def execPress (p : Fin 4) (q : Nat) (s : State) : Host.Outcome State Fault Refusal := .next (press p q s)

end Sys2Proof.Machine
end

