-- ==== Sys2Proof/Machine/Functions.lean ====
section
/-! DEFINITION. The functions of the Mangle Function stage and of Press and the row engine, correctly rounded
(07 R198, 04 R120): each value is enclosed between two binary numbers that get closer as the working precision P
grows, until both round to the same code. -/

namespace Sys2Proof.Machine

/-- A positive real held as lo × 2^e ≤ x ≤ hi × 2^e. -/
structure Encl where
  lo : Nat
  hi : Nat
  e : Int
deriving DecidableEq, Repr

/-- A fixed-point value of P fraction bits with an error bound: |x × 2^P − v| ≤ err. -/
structure Fix where
  v : Int
  err : Nat
deriving DecidableEq, Repr

/-- The product of two fixed-point values, truncated. -/
def Fix.mul (P : Nat) (a b : Fix) : Fix :=
  { v := a.v * b.v / (2 ^ P : Nat),
    err := (a.v.natAbs * b.err + b.v.natAbs * a.err + a.err * b.err) / 2 ^ P + 2 }

/-- The sum. -/
def Fix.add (a b : Fix) : Fix := { v := a.v + b.v, err := a.err + b.err }

/-- The quotient by a small positive integer. -/
def Fix.divNat (a : Fix) (k : Nat) : Fix := { v := a.v / (k : Int), err := a.err / k + 2 }

/-- The quotient a ÷ b for positive b. -/
def Fix.div (P : Nat) (a b : Fix) : Fix :=
  let lo := (b.v - b.err).toNat
  if lo = 0 then { v := 0, err := 2 ^ (2 * P) }
  else
    { v := a.v * (2 ^ P : Nat) / b.v,
      err := (a.err * 2 ^ P + (a.v.natAbs * 2 ^ P / b.v.toNat + 1) * b.err) / lo + 2 }

/-- An integer as a fixed-point value. -/
def Fix.ofNat (P n : Nat) : Fix := { v := (n * 2 ^ P : Nat), err := 0 }

/-- A dyadic as a fixed-point value. -/
def Fix.ofDyadic (P : Nat) (d : Dyadic) : Fix :=
  let k := d.e + P
  if 0 ≤ k then { v := shl d.m k.toNat, err := 0 } else { v := d.m / (2 ^ (-k).toNat : Nat), err := 1 }

/-- The enclosure of a positive fixed-point value × 2^e. -/
def Fix.encl (P : Nat) (a : Fix) (e : Int) : Encl :=
  { lo := (a.v - a.err).toNat, hi := (a.v + a.err).toNat, e := e - P }

/-- atanh(1/k) by its series: term k^-(2j+1) / (2j+1), `fuel` terms from j. -/
def atanhInv (P k : Nat) : Nat → Nat → Int → Fix
  | 0, _, t => { v := 0, err := t.toNat + 1 }
  | n + 1, j, t => ({ v := t / (2 * j + 1 : Nat), err := 3 } : Fix).add (atanhInv P k n (j + 1) (t / (k * k : Nat)))

/-- atan(1/k) by its alternating series. -/
def atanInv (P k : Nat) : Nat → Nat → Int → Fix
  | 0, _, t => { v := 0, err := t.natAbs + 1 }
  | n + 1, j, t =>
    ({ v := t / (2 * j + 1 : Nat), err := 3 } : Fix).add (atanInv P k n (j + 1) (-(t / (k * k : Nat))))

/-- log 2 = 18 atanh(1/26) − 2 atanh(1/4801) + 8 atanh(1/8749). -/
def ln2 (P : Nat) : Fix :=
  let a (k : Nat) := atanhInv P k (P / 8 + 4) 0 ((2 ^ P : Nat) / (k : Int))
  let x := a 26
  let y := a 4801
  let z := a 8749
  { v := 18 * x.v - 2 * y.v + 8 * z.v, err := 18 * x.err + 2 * y.err + 8 * z.err + 28 }

/-- π = 16 atan(1/5) − 4 atan(1/239). -/
def piFix (P : Nat) : Fix :=
  let a (k : Nat) := atanInv P k (P / 4 + 4) 0 ((2 ^ P : Nat) / (k : Int))
  let x := a 5
  let y := a 239
  { v := 16 * x.v - 4 * y.v, err := 16 * x.err + 4 * y.err + 20 }

/-- Σ r^j / j! from the j-th term on (`t` is that term), |r| ≤ 1. -/
def expTail (P : Nat) (r : Fix) : Nat → Nat → Fix → Fix
  | 0, _, t => { v := 0, err := 2 * t.v.natAbs + 2 * t.err + 1 }
  | n + 1, j, t => t.add (expTail P r n (j + 1) ((Fix.mul P t r).divNat (j + 1)))

/-- e^r for |r| ≤ 1. -/
def expSmall (P : Nat) (r : Fix) : Fix := expTail P r (P / 2 + 16) 0 (Fix.ofNat P 1)

/-- (e^r − 1) / r = Σ r^j / (j+1)! for |r| ≤ 1. -/
def expm1Over (P : Nat) (r : Fix) : Fix := expTail P r (P / 2 + 16) 1 (Fix.ofNat P 1)

/-- e^x = 2^k × m with m in about [1, 2]: the fixed-point m and k. |x| < 2^12. -/
def expParts (P : Nat) (x : Dyadic) : Fix × Int :=
  let l := ln2 (P + 16)
  let xf := Fix.ofDyadic (P + 16) x
  let k := xf.v / l.v
  let r : Fix := { v := (xf.v - k * l.v) / (2 ^ 16 : Nat), err := (xf.err + k.natAbs * l.err) / 2 ^ 16 + 2 }
  (expSmall P r, k)

/-- e^x. -/
def exeEncl (P : Nat) (x : Dyadic) : Encl :=
  let (m, k) := expParts P x
  m.encl P k

/-- 2 atanh(z) / z-series: Σ z2^j / (2j + 1), z2 = z². -/
def atanhTail (P : Nat) (z2 : Fix) : Nat → Nat → Fix → Fix
  | 0, _, t => { v := 0, err := 2 * t.v.natAbs + 2 * t.err + 1 }
  | n + 1, j, t => (t.divNat (2 * j + 1)).add (atanhTail P z2 n (j + 1) (Fix.mul P t z2))

/-- |log x| for positive x ≠ 1, with the sign: near 1 as (x − 1) times a factor near 1, elsewhere by k log 2 + log y. -/
def logEncl (P : Nat) (x : Dyadic) : Bool × Encl :=
  let one : Dyadic := { m := 1, e := 0 }
  let d := x.add { m := -1, e := 0 }
  if d.abs.lt { m := 1, e := -2 } then
    -- log(1 + d) = d × 2/(2 + d) × Σ z^2j/(2j + 1), z = d/(2 + d)
    let df := Fix.ofDyadic P d
    let den := (Fix.ofNat P 2).add df
    let z := Fix.div P df den
    let s := atanhTail P (Fix.mul P z z) (P / 4 + 8) 0 (Fix.ofNat P 1)
    let g := Fix.div P (Fix.mul P (Fix.ofNat P 2) s) den
    (decide (d.m < 0),
      { lo := (g.v - g.err).toNat * d.m.natAbs, hi := (g.v + g.err).toNat * d.m.natAbs, e := d.e - P })
  else
    let k := x.log2
    let y := Fix.ofDyadic P (x.scale (-k))
    let z := Fix.div P (y.add (Fix.ofDyadic P { one with m := -1 })) (y.add (Fix.ofNat P 1))
    let s := Fix.mul P z (atanhTail P (Fix.mul P z z) (P / 2 + 8) 0 (Fix.ofNat P 1))
    let l := ln2 P
    let r : Fix := { v := 2 * s.v + k * l.v, err := 2 * s.err + k.natAbs * l.err }
    (decide (r.v < 0), ({ r with v := r.v.natAbs } : Fix).encl P 0)

/-- 1 / (1 + e^−x). -/
def sigmoidEncl (P : Nat) (x : Dyadic) : Encl :=
  let (m, k) := expParts P { x with m := -(x.m.natAbs : Int) }
  -- t = e^−|x| ≤ 1 as m × 2^k with k ≤ 0
  let t : Fix := { v := m.v / (2 ^ (-k).toNat : Nat), err := m.err / 2 ^ (-k).toNat + 2 }
  let den := (Fix.ofNat P 1).add t
  if x.m < 0 then (Fix.div P m den).encl P k else (Fix.div P (Fix.ofNat P 1) den).encl P 0

/-- |tanh x| for 0 < |x| < 20: x times a factor below 1 when |x| < 1/2, else 1 − 2/(e^2|x| + 1). -/
def tanhEncl (P : Nat) (x : Dyadic) : Encl :=
  let a := x.abs
  if a.lt { m := 1, e := -1 } then
    let r := Fix.ofDyadic P (a.scale 1)
    let g := expm1Over P r
    let num : Fix := { v := 2 * g.v, err := 2 * g.err }
    let q := Fix.div P num ((Fix.ofNat P 2).add (Fix.mul P r g))
    { lo := (q.v - q.err).toNat * a.m.natAbs, hi := (q.v + q.err).toNat * a.m.natAbs, e := a.e - P }
  else
    let (m, k) := expParts P { a with m := -2 * a.m }
    let t : Fix := { v := m.v / (2 ^ (-k).toNat : Nat), err := m.err / 2 ^ (-k).toNat + 2 }
    let num : Fix := { v := (2 ^ P : Nat) - t.v, err := t.err }
    (Fix.div P num ((Fix.ofNat P 1).add t)).encl P 0

/-- Σ (2x²)^j / (1·3·…·(2j+1)). -/
def erfTail (P : Nat) (y : Fix) : Nat → Nat → Fix → Fix
  | 0, _, t => { v := 0, err := 2 * t.v.natAbs + 2 * t.err + 1 }
  | n + 1, j, t => t.add (erfTail P y n (j + 1) ((Fix.mul P t y).divNat (2 * j + 3)))

/-- |erf x| for 0 < |x| < 6: 2|x|/√π × e^(−x²) × Σ (2x²)^j / (1·3·…·(2j+1)). -/
def erfEncl (P : Nat) (x : Dyadic) : Encl :=
  let a := x.abs
  let x2 := a.mul a
  let s := erfTail P (Fix.ofDyadic P (x2.scale 1)) (P + 256) 0 (Fix.ofNat P 1)
  let (m, k) := expParts P { x2 with m := -x2.m }
  let pi := piFix (2 * P)
  let root : Fix := { v := isqrt (pi.v.toNat), err := pi.err / 2 ^ P + 2 }
  let f : Fix := Fix.div P (Fix.mul P (Fix.mul P (Fix.ofNat P 2) s) m) root
  { lo := (f.v - f.err).toNat * a.m.natAbs, hi := (f.v + f.err).toNat * a.m.natAbs, e := k + a.e - P }

/-- Round an enclosure once both ends agree, trying the listed precisions. No finite argument of these functions
has a value on a rounding boundary, and the last precision is far beyond the closest any FP64 argument comes; were
it not enough, which neighbour is taken is left free.
(Log: DEDUCED, safe, entry 23.) -/
def roundEncl (f : FFmt) (neg : Bool) (g : Nat → Encl) : List Nat → Val × Bool
  | [] => (.nan, false)
  | P :: rest =>
    let x := g P
    if x.lo = 0 then (match rest with | [] => (.zero neg, false) | _ => roundEncl f neg g rest)
    else
      let lo := f.roundMag neg { n := x.lo, d := 1, e := x.e } none
      let hi := f.roundMag neg { n := x.hi, d := 1, e := x.e } none
      if lo = hi then f.round neg { n := x.lo, d := 1, e := x.e } none
      else
        match rest with
        | [] =>
          if Config.freeBool x.lo then f.round neg { n := x.lo, d := 1, e := x.e } none
          else f.round neg { n := x.hi, d := 1, e := x.e } none
        | _ => roundEncl f neg g rest

/-- The working precisions.
(Log: DEDUCED, safe, entry 23.) -/
def precisions : List Nat := [128, 256, 512, 1024, 2048, 4096]

/-- The functions of 04 Table 4.7. -/
inductive Fun where
  | exp | log | rsqrt | recip | sigmoid | tanh | erf
deriving DecidableEq, Repr

/-- Attach the overflow occurrence of a function (kind 5). -/
def funRes (f : FFmt) (x : Val) (r : Val × Bool) : Val × List Evt :=
  (r.1, if r.2 then [Evt.plain 5 (f.encode x) (f.encode r.1)] else [])

/-- A domain error of 04 Table 4.7 (kind 4). -/
def funInvalid (f : FFmt) (x : Val) : Val × List Evt := (.nan, [Evt.plain 4 (f.encode x) 0])

/-- One. -/
def vone : Val := .num { m := 1, e := 0 }

/-- A function of a lane value in format f (07 R198, 04 Table 4.7).
(Log: DEDUCED, safe, entry 23.) -/
def Fun.eval (g : Fun) (f : FFmt) (x : Val) : Val × List Evt :=
  match g, x with
  | _, .nan => (.nan, [])
  | .exp, .inf s => (if s then .zero false else .inf false, [])
  | .exp, .zero _ => (vone, [])
  | .exp, .num d =>
    if { m := 1, e := 11 : Dyadic }.lt d.abs then
      (if d.m < 0 then (.zero false, []) else funRes f x (.inf false, true))
    else funRes f x (roundEncl f false (fun P => exeEncl P d) precisions)
  | .log, .inf s => if s then funInvalid f x else (.inf false, [])
  | .log, .zero _ => (.inf true, [])
  | .log, .num d =>
    if d.m < 0 then funInvalid f x
    else if d.cmp { m := 1, e := 0 } = .eq then (.zero false, [])
    else
      let neg := (logEncl 128 d).1
      ((roundEncl f neg (fun P => (logEncl P d).2) precisions).1, [])
  | .rsqrt, .inf s => if s then funInvalid f x else (.zero false, [])
  | .rsqrt, .zero s => (.inf s, [])
  | .rsqrt, .num d =>
    if d.m < 0 then funInvalid f x
    else
      -- 1/sqrt(m × 2^e), e made even: isqrt(2^(2g) / m) with a sticky bit
      let odd : Bool := decide (d.e % 2 ≠ 0)
      let m := if odd then d.m.natAbs * 2 else d.m.natAbs
      let e := if odd then d.e - 1 else d.e
      let h := 4 * f.p + 16 + m.log2
      let k := isqrt (2 ^ (2 * h) / m)
      let k' := if k * k * m = 2 ^ (2 * h) then 2 * k else 2 * k + 1
      ((f.round false { n := k', d := 1, e := -(e / 2) - h - 1 } none).1, [])
  | .recip, .inf s => (.zero s, [])
  | .recip, .zero s => (.inf s, [])
  | .recip, .num d =>
    funRes f x (f.round (decide (d.m < 0)) { n := 1, d := d.m.natAbs, e := -d.e } none)
  | .sigmoid, .inf s => (if s then .zero false else vone, [])
  | .sigmoid, .zero _ => (.num { m := 1, e := -1 }, [])
  | .sigmoid, .num d =>
    if { m := 1, e := 11 : Dyadic }.lt d.abs then (if d.m < 0 then .zero false else vone, [])
    else ((roundEncl f false (fun P => sigmoidEncl P d) precisions).1, [])
  | .tanh, .inf s => (if s then .num { m := -1, e := 0 } else vone, [])
  | .tanh, .zero s => (.zero s, [])
  | .tanh, .num d =>
    let neg := decide (d.m < 0)
    if { m := 20, e := 0 : Dyadic }.lt d.abs then (if neg then .num { m := -1, e := 0 } else vone, [])
    else ((roundEncl f neg (fun P => tanhEncl P d) precisions).1, [])
  | .erf, .inf s => (if s then .num { m := -1, e := 0 } else vone, [])
  | .erf, .zero s => (.zero s, [])
  | .erf, .num d =>
    let neg := decide (d.m < 0)
    if { m := 6, e := 0 : Dyadic }.lt d.abs then (if neg then .num { m := -1, e := 0 } else vone, [])
    else ((roundEncl f neg (fun P => erfEncl P d) precisions).1, [])

end Sys2Proof.Machine
end

