-- ==== Sys2Proof/Machine/Mangle.lean ====
section
/-! DEFINITION. The Mangle chain: the CHAIN operation and its eight stages (07_mangle_row_engine R189 to R206). -/

namespace Sys2Proof.Machine

/-! ### The chain word (07 Table 7.3) -/

/-- What a CHAIN operation works with: its chain word as a number, location and constant slots, extents, origin and
the sweep's mode of maximum and minimum. -/
structure Chain where
  w : Nat
  loc : Bytes
  consts : Bytes
  m : Nat
  n : Nat
  i0 : Nat
  j0 : Nat
  entry : Nat
  compat : Bool

/-- The lane format. -/
def Chain.lane (g : Chain) : FFmt := if fld g.w 0 2 = 1 then .fp64 else .fp32
/-- Lane format code (04 Table 4.1). -/
def Chain.laneCode (g : Chain) : Nat := if fld g.w 0 2 = 1 then 1 else 2
/-- Lane size in bytes. -/
def Chain.size (g : Chain) : Nat := if fld g.w 0 2 = 1 then 8 else 4
/-- X_SRC. -/
def Chain.xSrc (g : Chain) : Nat := fld g.w 2 3
/-- Y_SRC. -/
def Chain.ySrc (g : Chain) : Nat := fld g.w 5 3
/-- X_FORMAT. -/
def Chain.xFmt (g : Chain) : Nat := fld g.w 8 8
/-- Y_FORMAT. -/
def Chain.yFmt (g : Chain) : Nat := fld g.w 16 8
/-- FOLD_OP. -/
def Chain.foldOp (g : Chain) : Nat := fld g.w 160 3
/-- DST_FORMAT. -/
def Chain.dstFmt (g : Chain) : Nat := fld g.w 192 8
/-- SCALE_SRC. -/
def Chain.scaleSrc (g : Chain) : Nat := fld g.w 200 2
/-- DEST. -/
def Chain.dest (g : Chain) : Nat := fld g.w 224 2
/-- A signed field. -/
def sfld (x lo w : Nat) : Int := signedOf w (fld x lo w)
/-- A constant C0 to C7 in the lane format. -/
def Chain.const (g : Chain) (k : Nat) : Val := g.lane.decode (at_ g.consts (k * g.size) g.size)

/-! ### Sources (07 R194, Table 7.5) -/

/-- An accumulator element read into lanes. -/
def accRead (f : FFmt) (t : AccTile) (r c : Nat) : Val × List Evt :=
  let code := t.code r c
  let conv (v : Val) : Val × List Evt :=
    let k := convert f v code none
    (f.decode k.code, k.evts)
  match t.mode with
  | .fp32 => conv (FFmt.fp32.decode code)
  | .fp64 => conv (FFmt.fp64.decode code)
  | .int32 => conv (Val.ofDyadic { m := signedOf 32 code, e := 0 })
  | .anchored32 | .anchored64 => anchoredRead f (anchoredInt code) (signedOf 16 t.ceiling)

/-- A tile register's element; one that nothing wrote, or wrote in the other lane format, has a free value.
(Log: DESIGN CHOICE, safe, entry 25; DESIGN CHOICE, safe, entry 26.) -/
def regRead (f : FFmt) (h : Thread) (num r c : Nat) : Val :=
  let code :=
    match h.regs.find? (fun x => x.num == num && x.wide == decide (f = .fp64)) with
    | some x =>
      match x.elems.find? (fun (e : Nat × W64) => e.1 == 64 * r + c) with
      | some e => e.2
      | none => Config.freeWord (h.mark (2 ^ 21 + num * 4096 + 64 * r + c))
    | none => Config.freeWord (h.mark (2 ^ 21 + num * 4096 + 64 * r + c))
  f.decode code.toNat

/-- A local-tile element read into lanes: its value under its block scale, converted when it does not fit.
(Log: DEDUCED, unsafe, entry 30.) -/
def tileRead (f : FFmt) (o : Operand) (t : LTile) (r c : Nat) : Val × List Evt :=
  let e := tileElem o t r c
  let v := if isMx o.fmt then scaled e.val (t.scales.getD (2 * r + c / 32) 0).toNat else e.val
  let k := convert f v e.code none
  (f.decode k.code, k.evts)

/-- The operand view of a local-tile source: `aux` is X_AUX or Y_AUX (07 Table 7.2). -/
def chainOperand (h : Thread) (fmt loc aux : Nat) : Operand :=
  { fmt := fmt, trans := false, budget := if fmt = 0x0D then 16 * fld aux 0 3 else 0, data := loc, stride := 0,
    book := if isBook fmt then h.lsRead aux 8 else [] }

/-- A source as a function of (row, column): accumulator, register, local tile or vector. -/
def sourceRead (g : Chain) (h : Thread) (kind fmt loc aux : Nat) (trans : Bool) : Nat → Nat → Val × List Evt :=
  let o := chainOperand h fmt loc aux
  let t := readTile h o 0
  let vec := h.lsRead loc (64 * elemBits fmt / 8)
  fun r c =>
    let (r', c') := if trans then (c, r) else (r, c)
    match kind with
    | 0 => match h.tile loc with | some a => accRead g.lane a r c | none => (.zero true, [])
    | 1 => (regRead g.lane h loc r' c', [])
    | 2 => tileRead g.lane o t r' c'
    | k =>
      let e := if k = 3 then c else r
      let code := packedCode (elemBits fmt) vec e
      let x := convert g.lane (codeVal fmt [] code) code none
      (g.lane.decode x.code, x.evts)

/-- X as a source. -/
def Chain.readX (g : Chain) (h : Thread) : Nat → Nat → Val × List Evt :=
  sourceRead g h g.xSrc g.xFmt (at_ g.loc 0 4) (at_ g.loc 0x14 4) (bit g.w 24)

/-- Y as a source; none reads as −0 and no stage selects it. -/
def Chain.readY (g : Chain) (h : Thread) : Nat → Nat → Val × List Evt :=
  if g.ySrc = 0 then fun _ _ => (.zero true, [])
  else sourceRead g h g.ySrc g.yFmt (at_ g.loc 4 4) (at_ g.loc 0x18 4) (bit g.w 25)

/-! ### Stages 2 to 5 (07 R197, R198, R200) -/

/-- Scale by an exact power of two, rounded only outside the lane range. -/
def scaleStage (f : FFmt) (v : Val) (n : Int) : Val × List Evt :=
  match v with
  | .num d =>
    let (x, o) := f.roundD (d.scale n) none
    (x, if o then [Evt.plain 5 (f.encode v) (f.encode x)] else [])
  | v => (v, [])

/-- A Combine operand (07 P_SEL, Q_SEL, R_SEL). -/
def combineSel (g : Chain) (x y : Val) (sel : Nat) : Val :=
  match sel with
  | 0 => x
  | 1 => y
  | 2 => g.const 0
  | 3 => g.const 1
  | 4 => vone
  | _ => .zero true

/-- The function of an FN code. -/
def funOf (n : Nat) : Option Fun :=
  match n with
  | 1 => some .exp | 2 => some .log | 3 => some .rsqrt | 4 => some .recip | 5 => some .sigmoid | 6 => some .tanh
  | 7 => some .erf | _ => none

/-- Stage 4 (07 R198). -/
def functionStage (g : Chain) (v0 : Val) : Val × List Evt :=
  let f := g.lane
  let (p, e1) := if bit g.w 100 then mulF f v0 (g.const 2) else (v0, [])
  let (y, e2) := match funOf (fld g.w 96 4) with | none => (p, []) | some fn => fn.eval f p
  let (a, e3) := if bit g.w 101 then fma f (g.const 4) y (g.const 3) else (y, [])
  let (o, e4) := if bit g.w 102 then mulF f a v0 else (a, [])
  (o, e1 ++ e2 ++ e3 ++ e4)

/-- The predicate of a PRED code (07 Table 7.3). -/
def predOf (n : Nat) : Pred :=
  match n with
  | 0 => .eq | 1 => .ne | 2 => .lt | 3 => .gt | 4 => .le | 5 => .ge | 6 => .unord | _ => .ord

/-- Stage 5 (07 R200) for the element at output coordinates (i, j). -/
def selectStage (g : Chain) (v y : Val) (i j : Nat) : Val :=
  let s := match fld g.w 132 3 with | 0 => y | 1 => g.const 5 | 2 => g.const 6 | _ => g.const 7
  match fld g.w 128 4 with
  | 1 => minMax g.compat true v s
  | 2 => minMax g.compat false v s
  | 3 =>
    let t := if bit g.w 138 then g.const 5 else y
    if (predOf (fld g.w 135 3)).eval v t then v else s
  | 4 => minMax g.compat false (minMax g.compat true v (g.const 5)) (g.const 6)
  | 5 => if sfld g.w 139 16 < (j : Int) - i then g.const 7 else v
  | _ => v

/-- Stages 1 to 5 for one element. -/
def chainElem (g : Chain) (rx ry : Nat → Nat → Val × List Evt) (r c : Nat) : Val × List Evt :=
  let f := g.lane
  let (x, e1) := rx r c
  let (y, e2) := ry r c
  let (x, e3) := scaleStage f x (sfld g.w 32 9)
  let (y, e4) := scaleStage f y (sfld g.w 41 9)
  let (v, e5) :=
    if bit g.w 73 then
      fma f (combineSel g x y (fld g.w 64 3)) (combineSel g x y (fld g.w 67 3)) (combineSel g x y (fld g.w 70 3))
    else (x, [])
  let (v, e6) := functionStage g v
  (selectStage g v y (g.i0 + r) (g.j0 + c), e1 ++ e2 ++ e3 ++ e4 ++ e5 ++ e6)

/-- A worked tile: position 64r + c with its lane value, in-extent positions only. -/
abbrev LaneTile := List (Nat × Val)

/-- The lane value at a position. -/
def laneAt (l : LaneTile) (p : Nat) : Option Val := (l.find? (fun x => x.1 == p)).map (·.2)

/-! ### Fold (07 R201, R191) -/

/-- The starting value of a partial. -/
def foldStart (op : Nat) : Val :=
  match op with
  | 3 => .inf true
  | 4 => .inf false
  | 5 => .zero false
  | _ => .zero true

/-- |v|. -/
def Val.abs (v : Val) : Val := if v.isNeg then v.neg else v

/-- Fold the terms of one partial from its starting value: the partial, and occurrences with their own chunk index.
(Log: DEDUCED, unsafe, entry 29.) -/
def foldTerms (g : Chain) (start : Val) (terms : List Val) : Val × List Evt :=
  match g.foldOp with
  | 1 => orderedSum g.lane start 0 (chunks32 2 terms)
  | 2 =>
    let sq := terms.map (fun v => mulF g.lane v v)
    let ev := (List.range terms.length).flatMap (fun k =>
      match sq[k]? with | some x => x.2.map (fun e => { e with chunk := k / 32 }) | none => [])
    let (p, ev') := orderedSum g.lane start 0 (chunks32 2 (sq.map (·.1)))
    (p, ev ++ ev')
  | 3 => (terms.foldl (minMax g.compat true) start, [])
  | 4 => (terms.foldl (minMax g.compat false) start, [])
  | _ => (terms.foldl (fun a v => minMax g.compat true a v.abs) start, [])

/-- The 64 partials after a pass, with located occurrences (row and column offsets from the origin).
(Log: DESIGN CHOICE, unsafe, entry 156.) -/
def foldPartials (g : Chain) (h : Thread) (tile : LaneTile) : List Val × List (Nat × Nat × Evt) :=
  let ploc := at_ g.loc 0x0C 4
  let axis := bit g.w 163
  let res := (List.range 64).map (fun k =>
    let start := if bit g.w 164 then g.lane.decode (le (h.lsRead (ploc + k * g.size) g.size)) else foldStart g.foldOp
    let terms := (List.range 64).filterMap (fun j => laneAt tile (if axis then 64 * k + j else 64 * j + k))
    let (p, ev) := foldTerms g start terms
    (p, ev.map (fun e => if axis then (k, 0, e) else (0, k, e))))
  (res.map (·.1), res.flatMap (·.2))

/-- The maximum or minimum of the values alone, left to right (04 R123). -/
def extremum (compat isMax : Bool) : List Val → Val
  | [] => .nan
  | v :: r => r.foldl (minMax compat isMax) v

/-- The tree result of 64 partials: lane_tree, or the maximum or minimum of them.
(Log: DEDUCED, unsafe, entry 29.) -/
def foldTree (g : Chain) (p : List Val) : Val × List Evt :=
  match g.foldOp with
  | 1 | 2 =>
    let (v, ev) := laneTree g.lane 6 p
    (v, ev.map (fun e => { e with chunk := 0xFFFFFFFF }))
  | 4 => (extremum g.compat false p, [])
  | _ => (extremum g.compat true p, [])

/-- Lane values as bytes. -/
def laneBytes (g : Chain) (l : List Val) : Bytes := l.flatMap (fun v => toLe g.size (g.lane.encode v))

/-- Fold's writes to local store and its occurrences. -/
def foldStage (g : Chain) (h : Thread) (tile : LaneTile) : Thread × List (Nat × Nat × Evt) :=
  if g.foldOp = 0 then (h, [])
  else
    let (p, ev) := foldPartials g h tile
    let ploc := at_ g.loc 0x0C 4
    let h' := h.lsWrite ploc (laneBytes g p)
    if bit g.w 165 then
      let (t, ev') := foldTree g p
      (h'.lsWrite (ploc + 64 * g.size) (laneBytes g [t]), ev ++ ev'.map (fun e => (0, 0, e)))
    else (h', ev)

/-! ### Quantise and Pack/Write (07 R203 to R205) -/

/-- Storage position of a tile position under TRANS_OUT. -/
def storagePos (trans : Bool) (p : Nat) : Nat := if trans then 64 * (p % 64) + p / 64 else p

/-- Block index of a storage position: 2 × storage row + half. -/
def blockOf (p : Nat) : Nat := 2 * (p / 64) + p % 64 / 32

/-- The group a block scale is chosen over: its block, or its 32 × 32 square (05 R142, R145). -/
def groupIndex (square : Bool) (block : Nat) : Nat := if square then 2 * (block / 64) + block % 2 else block

/-- The scale codes of the 128 blocks before NaN marking, the snapshot after sc_tile, whether a cold entry was used, and whether
the tile is retried at another scale than the snapshot's (07 R205), also when it fits at none. -/
def chooseScales (g : Chain) (book : Bytes) (tile : LaneTile) (snap : Option Snap) :
    (Nat → Nat) × Option Snap × Bool × Bool :=
  let square := bit g.w 202
  let loc (b : Nat) : Nat :=
    localScale g.dstFmt book (amaxOf ((tile.filter (fun x => groupIndex square (blockOf x.1) == groupIndex square b)).map (·.2)))
  let table := (List.range 128).map loc
  match g.scaleSrc, snap with
  | 1, _ => (fun _ => fld g.w 208 8, snap, false, false)
  | 2, some sn =>
    let a := amaxOf (tile.map (·.2))
    if sn.cold then
      (fun b => table.getD b 0x7F,
        some { sn with amax := if sn.amax.lt a then a else sn.amax, emax := emaxOf g.dstFmt book }, true, false)
    else
      let (k, sn') := scTile sn g.dstFmt book a
      (fun _ => (k + 127).toNat, some sn', false, decide (k ≠ sn.scale))
  | _, _ => (fun b => table.getD b 0x7F, snap, false, false)

/-- Elements converted under their block scales: storage position, conversion. -/
def convertTile (g : Chain) (book : Bytes) (tile : LaneTile) (scale : Nat → Nat) : List (Nat × Conv) :=
  tile.map (fun x =>
    let s := if isMx g.dstFmt then scale (blockOf x.1) else 127
    if s = 0xFF then (x.1, { code := 0, evts := [], nanBlock := true })
    else (x.1, convertElem g.dstFmt book x.2 s (g.lane.encode x.2) none))

/-- Bytes of a local tile (06 R166): row slots with padding 0, scales, patches.
(Log: DESIGN CHOICE, unsafe, entry 27.) -/
def packTile (fmt : Nat) (codes : Nat → Nat) (scales : Nat → Nat) (patches : List Nat) : Bytes :=
  (List.range 64).flatMap (fun r => fit (rowPitch fmt) (packCodes (elemBits fmt) ((List.range 64).map (fun c => codes (64 * r + c)))))
    ++ (if isMx fmt then (List.range 128).map (fun b => BitVec.ofNat 8 (scales b)) else [])
    ++ patches.flatMap (fun w => toLe 4 w)

/-- The destination's codebook, as it stands before the operation writes anything (05 R137). -/
def Chain.book (g : Chain) (h : Thread) : Bytes := if isBook g.dstFmt then h.lsRead (at_ g.loc 0x10 4) 8 else []

/-- Quantise and write a local tile: the thread, the conversion occurrences by position, the snapshot, whether a cold entry was
used and whether the tile was retried. -/
def quantise (g : Chain) (book : Bytes) (h : Thread) (tile0 : LaneTile) (snap : Option Snap) :
    Thread × List (Nat × Evt) × Option Snap × Bool × Bool :=
  let trans := bit g.w 226
  let tile := tile0.map (fun x => (storagePos trans x.1, x.2))
  let (scale, snap', cold) := chooseScales g book tile snap
  let conv := convertTile g book tile scale
  let nan (b : Nat) : Bool := isMx g.dstFmt && conv.any (fun x => x.2.nanBlock && blockOf x.1 == b)
  let nans := (List.range 128).filter nan
  let finalScale (b : Nat) : Nat := if nans.contains b then 0xFF else scale b
  let code (p : Nat) : Nat :=
    match conv.find? (fun x => x.1 == p) with
    | some x => if isMx g.dstFmt && nans.contains (blockOf p) then 0 else x.2.code
    | none => 0
  let patches :=
    if g.dstFmt = 0x0D then selectPatches (tile.map (fun x => (x.1, x.2, finalScale (blockOf x.1)))) (16 * fld g.w 203 3)
    else []
  let evts := conv.flatMap (fun x => x.2.evts.map (fun e => (storagePos trans x.1, e)))
  (h.lsWrite (at_ g.loc 8 4) (packTile g.dstFmt code finalScale patches), evts, snap', cold)

/-- Write lane values to a tile register: out-of-extent elements keep theirs (07 R190).
(Log: DESIGN CHOICE, safe, entry 26.) -/
def regWrite (g : Chain) (h : Thread) (num : Nat) (tile : LaneTile) : Thread :=
  let trans := bit g.w 226
  let wide := decide (g.lane = .fp64)
  let old := ((h.regs.find? (fun x => x.num == num && x.wide == wide)).map (·.elems)).getD []
  let elems := tile.foldl (fun l x => sinsert l (storagePos trans x.1) (BitVec.ofNat 64 (g.lane.encode x.2))) old
  let overlap (x : TileReg) : Bool := x.num == num || (wide && x.num == num + 1) || (x.wide && x.num + 1 == num)
  { h with regs := { num := num, wide := wide, elems := elems } :: h.regs.filter (fun x => !overlap x) }

/-- The raw save of an accumulator tile (07 R196). -/
def rawSave (g : Chain) (h : Thread) (t : AccTile) : Thread :=
  (tilePositions g.m g.n).foldl (fun h p =>
    h.lsWrite (at_ g.loc 8 4 + p * t.mode.size) (toLe t.mode.size (sget 0 t.elems p))) h

/-- Codes raw-saved from an anchored tile, with the most contributions that an element saved with that code has had (03 R101;
06 R177). -/
def savedSums (g : Chain) (t : AccTile) (sums : SMap Nat) : SMap Nat :=
  match t.mode with
  | .anchored32 | .anchored64 => (tilePositions g.m g.n).foldl (fun m p =>
      let code := sget 0 t.elems p
      sset 0 m code (max (sget 0 m code) (sget 0 t.contribs p))) sums
  | _ => sums

/-! ### The operation (07 R190, R191) -/

/-- The operands of a CHAIN operation. -/
def chainOf (x : Running) : Chain :=
  let w := le (chainAt x.w.prog (at_ x.op 2 1))
  let cs := at_ x.op 8 2
  let os := at_ x.op 10 2
  let (i0, j0) := if os = 0xFFFF then (0, 0) else originOf x.e.cmd (x.w.slot os) x.h.t
  { w := w, loc := x.w.slot (at_ x.op 6 2),
    consts := if cs = 0xFFFF then zeros 64 else if fld w 0 2 = 1 then x.w.slot cs ++ x.w.slot (cs + 1) else x.w.slot cs,
    m := fld (at_ x.op 3 1) 0 6 + 1, n := fld (at_ x.op 4 1) 0 6 + 1, i0 := i0, j0 := j0, entry := at_ x.op 12 2,
    compat := x.w.compat }

/-- The format code of the source for the records.
(Log: DESIGN CHOICE, unsafe, entry 28.) -/
def Chain.fmtA (g : Chain) (h : Thread) : Nat :=
  match g.xSrc with
  | 0 => match h.tile (at_ g.loc 0 4) with | some t => t.mode.fmt | none => 0
  | 1 => g.laneCode
  | _ => g.xFmt

/-- The format code of the second operand for the records; 0 if none.
(Log: DESIGN CHOICE, unsafe, entry 28.) -/
def Chain.fmtB (g : Chain) : Nat := if g.ySrc = 0 then 0 else if g.ySrc = 1 then g.laneCode else g.yFmt

/-- What a CHAIN operation does to its thread, its occurrences, the snapshot of its entry, whether it was cold and whether its
tile was retried.
(Log: DESIGN CHOICE, unsafe, entry 10; DESIGN CHOICE, unsafe, entry 28; DESIGN CHOICE, unsafe, entry 155.) -/
def chainRun (g : Chain) (h : Thread) (tick : Nat) (snap : Option Snap) : Thread × List Exc × Option Snap × Bool × Bool :=
  if g.dest = 2 then
    match h.tile (at_ g.loc 0 4) with
    | none => (h, [], snap, false, false)
    | some t => (rawSave g h t, [], snap, false, false)
  else
    let rx := g.readX h
    let ry := g.readY h
    let worked := (tilePositions g.m g.n).map (fun p => (p, chainElem g rx ry (p / 64) (p % 64)))
    let tile : LaneTile := worked.map (fun x => (x.1, x.2.1))
    let exc (fmtOut : Nat) (r c : Nat) (e : Evt) : Exc :=
      e.exc h.t h.op (g.i0 + r) (g.j0 + c) tick (g.fmtA h) g.fmtB fmtOut
    let ev1 := worked.flatMap (fun x => x.2.2.map (exc g.laneCode (x.1 / 64) (x.1 % 64)))
    let (h1, evf) := foldStage g h tile
    let ev2 := evf.map (fun x => exc g.laneCode x.1 x.2.1 x.2.2)
    match g.dest with
    | 0 =>
      let (h2, evq, snap', cold) := quantise g (g.book h) h1 tile snap
      (h2, ev1 ++ ev2 ++ evq.map (fun x => exc g.dstFmt (x.1 / 64) (x.1 % 64) x.2), snap', cold)
    | 1 => (regWrite g h1 (fld (at_ g.loc 8 4) 0 2) tile, ev1 ++ ev2, snap, false, false)
    | _ => (h1, ev1 ++ ev2, snap, false, false)

/-- Whether the thread may acquire its register set (07 R189). -/
def registersFree (P : Part) (x : Running) : Bool := P.registersFor x.w x.h

/-- Put a snapshot back in the command. -/
def Entry.putSnap (e : Entry) (sn : Option Snap) : Entry :=
  match sn with
  | none => e
  | some sn => { e with snaps := e.snaps.map (fun x => if x.entry = sn.entry then sn else x) }

/-- The scale corrections a tile added (05 R152). -/
def corrDelta (a b : Option Snap) : Nat :=
  match a, b with
  | some x, some y => y.corr - x.corr
  | _, _ => 0

/-- CHAIN (07 R190). A thread whose register set is not free waits, resident (R189).
(Log: DESIGN CHOICE, unsafe, entry 10.) -/
def chain (i : Tid) (s : State) : State :=
  match s.runningOr i 0x20 .registers with
  | none => s
  | some x =>
    let named := !(opRegs x.w x.h.op).isEmpty
    if named && !x.h.holdsRegs && !registersFree (s.part i.cid.p) x then
      s.modThread i (fun h => { h with wait := .registers })
    else
      let g := chainOf x
      let snap := if g.scaleSrc = 2 then x.e.snaps.find? (fun sn => sn.entry == g.entry) else none
      let (h', xs, snap', cold, again) := chainRun g x.h s.tick snap
      let s := match (if g.dest = 2 then x.h.tile (at_ g.loc 0 4) else none) with
        | some t => { s with cores := { s.cores with sums := savedSums g t s.cores.sums } }
        | none => s
      let last := (List.range (opCount x.w.prog)).all (fun k => decide (k ≤ x.h.op) || (opRegs x.w k).isEmpty)
      let h'' := { h' with holdsRegs := (named || x.h.holdsRegs) && !last }.retireOp
      let s := s.modEntry i.cid (fun e =>
        let e := (e.putSnap snap').modSweep (fun w => w.modThread i.t (fun _ => h''))
        { e with corr := count16 e.corr (corrDelta snap snap'), coldScale := e.coldScale || cold })
      let d := corrDelta snap snap'
      let s := (s.tally 0 x.h.core 2 1).threadEvent i 5 x.h.core 5 again.toNat x.e.cmd
      let s := if 0 < d then
          s.trace i.cid.p s.tick 5 x.e.afterCut x.e.replayed x.e.cmd (unitOf 0 x.h.core) g.entry
        else s
      s.note i.cid xs

/-- The meaning of CHAIN. -/
def execChain (i : Tid) (s : State) : Host.Outcome State Fault Refusal := .next (chain i s)

end Sys2Proof.Machine
end

