-- ==== Sys2Proof/Machine/RowEngine.lean ====
section
/-! DEFINITION. The row engine (Hem): ROW_FWD and ROW_BWD, their statistics in side memory and in spill records
(07_mangle_row_engine R207 to R212; 04 R122). -/

namespace Sys2Proof.Machine

/-! ### Operands (07 Tables 7.8, 7.9) -/

/-- What a row operation works with. -/
structure RowOp where
  op : Bytes
  loc : Bytes
  spill : Option Nat
  fwd : Bool
  cap : Nat
  bank : Nat
  base : Nat
  cmd : Bytes
  compat : Bool

/-- A bit of OPFLAGS: 0 GAMMA, 1 BETA, 2 REUSE, 3 XHAT_OUT. -/
def RowOp.flag (g : RowOp) (n : Nat) : Bool := bit (at_ g.op 1 1) n
/-- FUNC: 0 LayerNorm, 1 RMSNorm, 2 soft-maximum. -/
def RowOp.func (g : RowOp) : Nat := at_ g.op 2 1
/-- IN_FORMAT. -/
def RowOp.inFmt (g : RowOp) : Nat := at_ g.op 3 1
/-- OUT_FORMAT. -/
def RowOp.outFmt (g : RowOp) : Nat := at_ g.op 4 1
/-- The row length n. -/
def RowOp.n (g : RowOp) : Nat := fld (at_ g.op 8 4) 0 16 + 1
/-- Rows per thread. -/
def RowOp.rows (g : RowOp) : Nat := at_ g.op 0x0C 2 + 1
/-- PARAM: ε for the norms, σ for soft-maximum. -/
def RowOp.param (g : RowOp) : Val := FFmt.fp32.decode (at_ g.op 0x1C 4)
/-- A location of Table 7.9. -/
def RowOp.at' (g : RowOp) (off : Nat) : Nat := fld (at_ g.loc off 4) 0 21
/-- Where row ρ starts from a location. -/
def RowOp.rowAt (g : RowOp) (off rho : Nat) : Nat := g.at' off + rho * g.at' 0x18
/-- Whether the operation reads kept statistics. -/
def RowOp.reads (g : RowOp) : Bool := !g.fwd || g.flag 2

/-- Cap of an ordering class (07 R207). -/
def statCap (overlapped : Bool) : Nat := if overlapped then 4096 else 8192

/-- The stat index of row 0 of thread (x, y, z) (07 R210). -/
def statBase (cmd op : Bytes) (t : Nat) : Nat :=
  let (x, y, z) := coords cmd t
  at_ op 0x10 4 + x * at_ op 0x14 2 + y * at_ op 0x16 2 + z * at_ op 0x18 2

/-- The operation of a running thread. -/
def rowOpOf (G : Group) (x : Running) : RowOp :=
  let ss := at_ x.op 0x0E 2
  { op := x.op, loc := x.w.slot (at_ x.op 6 2), spill := if ss = 0xFFFF then none else some (at_ (x.w.slot ss) 0 8),
    fwd := decide (at_ x.op 0 1 = 0x30), cap := statCap G.overlapped,
    bank := if G.overlapped then 4096 * (cmdMicro x.e.cmd % 2) else 0, base := statBase x.e.cmd x.op x.h.t,
    cmd := x.e.cmd, compat := x.w.compat }

/-! ### Steps of the formulas (07 R212) -/

/-- An invalid operation in a step counts as kind 4, an overflow as kind 5.
(Log: DESIGN CHOICE, unsafe, entry 150.) -/
def stepKind (e : Evt) : Evt := { e with kind := if e.kind ≤ 4 then 4 else 5 }

/-- A value with the occurrences on the way to it, by element index. -/
abbrev Counted := Val × List (Nat × Evt)

/-- A step of element k. -/
def stepAt (k : Nat) (r : Val × List Evt) : Counted := (r.1, r.2.map (fun e => (k, stepKind e)))

/-- A step of every element of a row. -/
def stepsAt (f : Nat → Val → Val × List Evt) : Nat → List Val → List Val × List (Nat × Evt)
  | _, [] => ([], [])
  | k, v :: r =>
    let (a, e) := stepAt k (f k v)
    let (l, es) := stepsAt f (k + 1) r
    (a :: l, e ++ es)

/-- A − b rounded. -/
def subR (a b : Val) : Val × List Evt := subF .fp32 a b
/-- div(a, n) of 07 R212. -/
def divR (a : Val) (n : Nat) : Val × List Evt := divF .fp32 a (Val.ofDyadic { m := n, e := 0 })

/-- div(ordsum(l), n). An occurrence in the sum or the division concerns the row, and its COLUMN is 0.
(Log: DESIGN CHOICE, unsafe, entry 146.) -/
def meanR (l : List Val) (n : Nat) : Counted :=
  let (s, e1) := orderedSumOf .fp32 l
  let (q, e2) := divR s n
  (q, (e1 ++ e2).map (fun e => (0, stepKind e)))

/-- rsqrt(rnd(div(ordsum(l), n) + eps)): its occurrences concern the row, COLUMN 0, as those of the mean do.
(Log: DESIGN CHOICE, unsafe, entry 146.) -/
def rstdR (l : List Val) (n : Nat) (eps : Val) : Counted :=
  let (q, e1) := meanR l n
  let (v, e2) := stepAt 0 (addF .fp32 q eps)
  let (r, e3) := stepAt 0 (Fun.rsqrt.eval .fp32 v)
  (r, e1 ++ e2 ++ e3)

/-- The statistics a forward row computes: the lines marked (r) of 07 R212. -/
def rowStats (g : RowOp) (x : List Val) : (Val × Val) × List (Nat × Evt) :=
  match g.func with
  | 0 =>
    let (mu, e1) := meanR x g.n
    let d := (stepsAt (fun _ v => subR v mu) 0 x).1
    let (sq, e2) := stepsAt (fun _ v => mulF .fp32 v v) 0 d
    let (rs, e3) := rstdR sq g.n g.param
    ((mu, rs), e1 ++ e2 ++ e3)
  | 1 =>
    let (sq, e1) := stepsAt (fun _ v => mulF .fp32 v v) 0 x
    let (rs, e2) := rstdR sq g.n g.param
    ((.zero false, rs), e1 ++ e2)
  | _ =>
    let z := (stepsAt (fun _ v => mulF .fp32 v g.param) 0 x).1
    let m := match z with
      | [] => .inf true
      | v :: r => r.foldl (minMax g.compat true) v
    let (t, e1) := stepsAt (fun _ v => subR v m) 0 z
    let (y, e2) := stepsAt (fun _ v => Fun.exp.eval .fp32 v) 0 t
    let (s, e3) := orderedSumOf .fp32 y
    let (l, e4) := Fun.log.eval .fp32 s
    let (lse, e5) := addF .fp32 m l
    ((m, lse), e1 ++ e2 ++ (e3 ++ e4 ++ e5).map (fun e => (0, stepKind e)))

/-- γ or β as FP32 values. -/
def rowVec (h : Thread) (a n : Nat) : List Val :=
  let b := h.lsRead a (4 * n)
  (List.range n).map (fun k => FFmt.fp32.decode (at_ b (4 * k) 4))

/-- The outputs of a row: y or dx, x̂ or y for XHAT_OUT, and the occurrences. -/
structure RowOut where
  out : List Val
  hat : List Val
  evts : List (Nat × Evt)

/-- Element k of a row. -/
def elemAt (l : List Val) (k : Nat) : Val := l.getD k .nan

/-- The forward of one row from its statistics (07 R212).
(Log: DEDUCED, unsafe, entry 31.) -/
def rowForward (g : RowOp) (gam bet x : List Val) (st : Val × Val) : RowOut :=
  let scaleOut (xh : List Val) : List Val × List (Nat × Evt) :=
    if g.flag 0 then
      stepsAt (fun k v => if g.flag 1 then fma .fp32 v (elemAt gam k) (elemAt bet k) else mulF .fp32 v (elemAt gam k)) 0 xh
    else (xh, [])
  match g.func with
  | 0 =>
    let (d, e1) := stepsAt (fun _ v => subR v st.1) 0 x
    let (xh, e2) := stepsAt (fun _ v => mulF .fp32 v st.2) 0 d
    let (y, e3) := scaleOut xh
    { out := y, hat := xh, evts := e1 ++ e2 ++ e3 }
  | 1 =>
    let (xh, e1) := stepsAt (fun _ v => mulF .fp32 v st.2) 0 x
    let (y, e2) := scaleOut xh
    { out := y, hat := xh, evts := e1 ++ e2 }
  | _ =>
    let (z, e1) := stepsAt (fun _ v => mulF .fp32 v g.param) 0 x
    let (t, e2) := stepsAt (fun _ v => subR v st.2) 0 z
    let (y, e3) := stepsAt (fun _ v => Fun.exp.eval .fp32 v) 0 t
    { out := y, hat := y, evts := e1 ++ e2 ++ e3 }

/-- The backward of one row from its kept statistics (07 R212).
(Log: DEDUCED, unsafe, entry 31.) -/
def rowBackward (g : RowOp) (gam x dy : List Val) (st : Val × Val) : RowOut :=
  let gs : List Val × List (Nat × Evt) :=
    if g.flag 0 then stepsAt (fun k v => mulF .fp32 v (elemAt gam k)) 0 dy else (dy, [])
  match g.func with
  | 0 =>
    let (d, e1) := stepsAt (fun _ v => subR v st.1) 0 x
    let (xh, e2) := stepsAt (fun _ v => mulF .fp32 v st.2) 0 d
    let (a, e3) := meanR gs.1 g.n
    let (p, e4) := stepsAt (fun k v => mulF .fp32 v (elemAt xh k)) 0 gs.1
    let (b, e5) := meanR p g.n
    let (c, e6) := stepsAt (fun _ v => subR v a) 0 gs.1
    let (i, e7) := stepsAt (fun k v => fnma .fp32 v b (elemAt c k)) 0 xh
    let (dx, e8) := stepsAt (fun _ v => mulF .fp32 st.2 v) 0 i
    { out := dx, hat := xh, evts := e1 ++ e2 ++ gs.2 ++ e3 ++ e4 ++ e5 ++ e6 ++ e7 ++ e8 }
  | 1 =>
    let (xh, e1) := stepsAt (fun _ v => mulF .fp32 v st.2) 0 x
    let (p, e2) := stepsAt (fun k v => mulF .fp32 v (elemAt xh k)) 0 gs.1
    let (b, e3) := meanR p g.n
    let (i, e4) := stepsAt (fun k v => fnma .fp32 v b (elemAt gs.1 k)) 0 xh
    let (dx, e5) := stepsAt (fun _ v => mulF .fp32 st.2 v) 0 i
    { out := dx, hat := xh, evts := e1 ++ gs.2 ++ e2 ++ e3 ++ e4 ++ e5 }
  | _ =>
    let (z, e1) := stepsAt (fun _ v => mulF .fp32 v g.param) 0 x
    let (t, e2) := stepsAt (fun _ v => subR v st.2) 0 z
    let (y, e3) := stepsAt (fun _ v => Fun.exp.eval .fp32 v) 0 t
    let (p, e4) := stepsAt (fun k v => mulF .fp32 v (elemAt y k)) 0 dy
    let (s, e5) := orderedSumOf .fp32 p
    let (d, e6) := stepsAt (fun _ v => subR v s) 0 dy
    let (q, e7) := stepsAt (fun k v => mulF .fp32 v (elemAt d k)) 0 y
    let (dx, e8) := stepsAt (fun _ v => mulF .fp32 v g.param) 0 q
    { out := dx, hat := y,
      evts := e1 ++ e2 ++ e3 ++ e4 ++ e5.map (fun e => (0, stepKind e)) ++ e6 ++ e7 ++ e8 }

/-! ### Special rows (04 R122; 07 R209) -/

/-- Every output of a row is one value. -/
def constRow (n : Nat) (v : Val) (evts : List (Nat × Evt)) : RowOut :=
  { out := List.replicate n v, hat := List.replicate n v, evts := evts }

/-- NaN. -/
def Val.isNan : Val → Bool
  | .nan => true
  | _ => false

/-- The special cases of 04 R122 over the formulas: a soft-maximum row with +∞, a fully masked row, a row with a NaN (of x,
or of dy backward), whose x̂ is an output like the others; and the row whose spill record's tag is another's (07 R209),
`bad`. A soft-maximum row with +∞ and a NaN as well counts one invalid operation.
(Log: DEDUCED, unsafe, entry 31; DESIGN CHOICE, unsafe, entry 145; DESIGN CHOICE, unsafe, entry 146.) -/
def rowResult (g : RowOp) (gam bet x dy : List Val) (st : Val × Val) (bad : Option Nat) : RowOut :=
  match bad with
  | some tag => constRow g.n .nan [(0, Evt.plain 4 tag 0)]
  | none =>
    let soft := decide (g.func = 2)
    if soft && x.contains (.inf false) then constRow g.n .nan [(0, Evt.plain 4 (FFmt.fp32.encode (.inf false)) 0)]
    else if soft && x.all (fun v => v == .inf true) then constRow g.n (.zero false) []
    else if x.any Val.isNan || (!g.fwd && dy.any Val.isNan) then constRow g.n .nan []
    else if g.fwd then rowForward g gam bet x st
    else rowBackward g gam x dy st

/-- The statistics a forward row keeps, and what it counts for them: a special row's own (04 R122).
(Log: DEDUCED, unsafe, entry 31.) -/
def keptStats (g : RowOp) (x : List Val) : (Val × Val) × List (Nat × Evt) :=
  let soft := decide (g.func = 2)
  if soft && x.all (fun v => v == .inf true) then ((.inf true, .inf true), [])
  else
    let (st, e) := rowStats g x
    (st, if x.any Val.isNan || (soft && x.contains (.inf false)) then [] else e)

/-! ### Statistics rows (07 R207, R209) -/

/-- A statistics row: two FP32 values. -/
def statBytes (st : Val × Val) : Bytes := toLe 4 (FFmt.fp32.encode st.1) ++ toLe 4 (FFmt.fp32.encode st.2)

/-- The two values of a statistics row. -/
def statOf (n : Nat) : Val × Val := (FFmt.fp32.decode (fld n 0 32), FFmt.fp32.decode (fld n 32 32))

/-- The tag of spill record q for an operation (07 Table 7.7). -/
def RowOp.tag (g : RowOp) (q : Nat) : Nat :=
  at_ g.cmd 8 2 + cmdMicro g.cmd * 2 ^ 16 + fld g.func 0 3 * 2 ^ 28 + 2 ^ 31 + (g.cap + 63 * q) % 2 ^ 32 * 2 ^ 32

/-- Where stat index s ≥ Cap lies: its record's address and number, and its slot. -/
def RowOp.spillAt (g : RowOp) (s : Nat) : Nat × Nat × Nat :=
  let q := (s - g.cap) / 63
  (g.spill.getD 0 + 512 * q, q, (s - g.cap) % 63)

/-- Side memory's row on a core; one that nothing wrote is a free value.
(Log: DESIGN CHOICE, safe, entry 25.) -/
def State.sideRow (s : State) (core row : Nat) : Nat :=
  match s.cores.side.find? (fun x => x.1 == 8192 * core + row) with
  | some x => x.2.toNat
  | none => (Config.freeWord (2 ^ 60 + 8192 * core + row)).toNat

/-- Write side memory's row. -/
def State.setSide (s : State) (core row v : Nat) : State :=
  { s with cores := { s.cores with side := sinsert s.cores.side (8192 * core + row) (BitVec.ofNat 64 v) } }

/-- The statistics of stat index s, and the tag read when it is not the one expected (07 R209). -/
def State.readStats (s : State) (g : RowOp) (xs : List Xlat) (core idx : Nat) : (Val × Val) × Option Nat :=
  if idx < g.cap then (statOf (s.sideRow core (g.bank + idx)), none)
  else
    let (a, q, n) := g.spillAt idx
    let tag := le (s.readVa xs a 8)
    (statOf (le (s.readVa xs (a + 8 + 8 * n) 8)), if tag = g.tag q then none else some tag)

/-- Write the statistics of stat index s (07 R207, R209). -/
def State.writeStats (s : State) (g : RowOp) (w : Writer) (xs : List Xlat) (core idx : Nat) (st : Val × Val) : State :=
  if idx < g.cap then s.setSide core (g.bank + idx) (le (statBytes st))
  else
    let (a, q, n) := g.spillAt idx
    (s.writeVa w xs a (toLe 8 (g.tag q))).writeVa w xs (a + 8 + 8 * n) (statBytes st)

/-! ### The operation -/

/-- Elements of a row in local store. -/
def RowOp.readRow (g : RowOp) (h : Thread) (off rho : Nat) : List Val :=
  let b := h.lsRead (g.rowAt off rho) (g.n * elemBits g.inFmt / 8)
  (List.range g.n).map (fun k => codeVal g.inFmt [] (packedCode (elemBits g.inFmt) b k))

/-- The outputs of a row converted (04 R116), with their occurrences. -/
def RowOp.store (g : RowOp) (h : Thread) (rho : Nat) (r : RowOut) : Thread × List (Nat × Evt) :=
  let conv := r.out.map (fun v => convertElem g.outFmt [] v 127 (FFmt.fp32.encode v) none)
  let h := h.lsWrite (g.rowAt 0x10 rho) (packCodes (elemBits g.outFmt) (conv.map (·.code)))
  let h := if !g.fwd && g.flag 3 then
      h.lsWrite (g.rowAt 0x14 rho) (r.hat.flatMap (fun v => toLe 4 (FFmt.fp32.encode v)))
    else h
  (h, (conv.mapIdx (fun k c => c.evts.map (fun e => (k, e)))).flatten)

/-- The exception of an occurrence at element k of row ρ; dy is the second operand backward (04 Table 4.12). -/
def RowOp.exc (g : RowOp) (h : Thread) (tick rho fmtOut : Nat) (x : Nat × Evt) : Exc :=
  x.2.exc h.t h.op rho x.1 tick g.inFmt (if g.fwd then 0 else g.inFmt) fmtOut

/-- One row of the operation: the state (statistics written), the thread and the occurrences.
(Log: DESIGN CHOICE, unsafe, entry 151.) -/
def rowRun (g : RowOp) (w : Writer) (xs : List Xlat) (acc : State × Thread × List Exc) (rho : Nat) :
    State × Thread × List Exc :=
  let (s, h, ex) := acc
  let x := g.readRow h 0x00 rho
  let dy := if g.fwd then [] else g.readRow h 0x04 rho
  let gam := if g.flag 0 then rowVec h (g.at' 8) g.n else []
  let bet := if g.flag 1 then rowVec h (g.at' 0x0C) g.n else []
  let idx := g.base + rho
  let kept := if g.reads then (s.readStats g xs h.core idx).1 else (keptStats g x).1
  let bad := if g.reads then (s.readStats g xs h.core idx).2 else none
  let e0 := if g.reads then [] else (keptStats g x).2
  let r := rowResult g gam bet x dy kept bad
  let s := if g.reads then s else s.writeStats g w xs h.core idx kept
  let (h', e2) := g.store h rho r
  (s, h', ex ++ (e0 ++ r.evts).map (g.exc h s.tick rho 2) ++ e2.map (g.exc h s.tick rho g.outFmt))

/-- The stat indices of an operation that spill. -/
def RowOp.spilled (g : RowOp) : List Nat := ((List.range g.rows).map (· + g.base)).filter (fun i => decide (g.cap ≤ i))

/-- The bytes of spill records that rows of an operation touch, as address and length. -/
def RowOp.spillOf (g : RowOp) (rows : List Nat) : List (Nat × Nat) :=
  ((rows.map (· + g.base)).filter (fun i => decide (g.cap ≤ i))).flatMap (fun i =>
    let (a, _, n) := g.spillAt i; [(a, 8), (a + 8 + 8 * n, 8)])

/-- The bytes of spill records an operation touches. -/
def RowOp.spillBytes (g : RowOp) : List (Nat × Nat) := g.spillOf (List.range g.rows)

/-- What a thread has read itself before a row operation: its COPY_IN ranges and the spill records of its earlier row
operations (13 R363). -/
def State.rowOwn (s : State) (G : Group) (x : Running) : List (Nat × Nat) :=
  s.threadReads x ++ (List.range x.h.op).flatMap (fun k =>
    let op := opAt x.w.prog k
    if at_ op 0 1 = 0x30 ∨ at_ op 0 1 = 0x31 then
      let g := rowOpOf G { x with op := op }
      if g.reads then g.spillBytes else []
    else [])

/-- The writer that a row operation is. -/
def State.rowWriter (s : State) (i : Tid) (x : Running) : Writer :=
  { x.e.writer i.cid with thread := some i, own := s.rowOwn ((s.part i.cid.p).group (groupOf i.cid.q)) x }

/-- The rows that a row operation does now: those it has still to do, up to the first whose spill record finds no free shadow
block (13 R364). -/
def State.rowsNow (s : State) (g : RowOp) (w : Writer) (xs : List Xlat) (rest : List Nat) : List Nat :=
  if g.reads || s.shadowRoom w xs (g.spillOf rest) then rest
  else rest.take (((List.range rest.length).filter (fun m => s.shadowRoom w xs (g.spillOf (rest.take m)))).foldl max 0)

/-- A row operation (07 R210), row by row in increasing row number: a poisoned spill record escalates (13 R375), and at one that
finds no free shadow block the thread stalls, its rows before it done (13 R364).
(Log: DESIGN CHOICE, unsafe, entry 10; DESIGN CHOICE, unsafe, entry 151.) -/
def rowOperation (opcode : Nat) (i : Tid) (s : State) : State :=
  match s.running i opcode with
  | none => s
  | some x =>
    let g := rowOpOf ((s.part i.cid.p).group (groupOf i.cid.q)) x
    let w := s.rowWriter i x
    match if g.reads then s.poisonReads x.e.xlats g.spillBytes else none with
    | some sec => s.escalate i.cid sec (sectorVa x.e.xlats sec)
    | none =>
      let rest := (List.range g.rows).drop x.h.done
      let now := s.rowsNow g w x.e.xlats rest
      let (s, h, ex) := now.foldl (rowRun g w x.e.xlats) (s, x.h, [])
      if now.length = rest.length then
        let s := (s.modThread i (fun _ => h.retireOp)).tally 0 x.h.core 2 1
        let s := if g.reads then s.threadEvent i 8 x.h.core 8 g.spilled.length x.e.cmd else s
        s.note i.cid ex
      else
        ((s.modThread i (fun _ => { h with done := h.done + now.length })).note i.cid ex).modPart i.cid.p
          (fun P => P.stall (.thread i))

/-- ROW_FWD. -/
def rowFwd (i : Tid) (s : State) : State := rowOperation 0x30 i s

/-- ROW_BWD. -/
def rowBwd (i : Tid) (s : State) : State := rowOperation 0x31 i s

/-- The meaning of ROW_FWD. -/
def execRowFwd (i : Tid) (s : State) : Host.Outcome State Fault Refusal := .next (rowFwd i s)

/-- The meaning of ROW_BWD. -/
def execRowBwd (i : Tid) (s : State) : Host.Outcome State Fault Refusal := .next (rowBwd i s)

end Sys2Proof.Machine
end

