-- ==== Sys2Proof/Machine/Sync.lean ====
section
/-! DEFINITION. The synchronisation operations of tile threads, and a thread's retirement (02 R52 to R54, R57 to R59;
09 R261; 13 R363; 15 R437). -/

namespace Sys2Proof.Machine

/-- The counter a synchronisation operation of thread t uses (02 R52). -/
def syncCounter (cmd op : Bytes) (t : Nat) : Nat :=
  let (x, y, z) := coords cmd t
  at_ op 2 2 + x * at_ op 4 2 + y * at_ op 6 2 + z * at_ op 8 2

/-- VALUE of a synchronisation operation. -/
def syncValue (op : Bytes) : W32 := BitVec.ofNat 32 (at_ op 0x0C 4)

/-- An operation of a thread retires, counted on its core. -/
def State.opRetired (s : State) (i : Tid) (core : Nat) : State := (s.modThread i Thread.retireOp).tally 0 core 2 1

/-- WAIT (02 R53): the thread goes on when the counter is at least VALUE, and stays resident otherwise. -/
def wait (i : Tid) (s : State) : State :=
  match s.running i 0x40 with
  | none => s
  | some x =>
    if (s.part i.cid.p).satisfied (syncCounter x.e.cmd x.op x.h.t) (syncValue x.op) then s.opRetired i x.h.core
    else s.modThread i (fun h => { h with wait := .waiting })

/-- WAIT_SATISFIED (02 R53): a waiting thread's counter has reached VALUE. -/
def waitSatisfied (i : Tid) (s : State) : State :=
  match s.runningOr i 0x40 .waiting with
  | none => s
  | some x =>
    if x.h.wait = .waiting ∧
        (s.part i.cid.p).satisfied (syncCounter x.e.cmd x.op x.h.t) (syncValue x.op) = true then s.opRetired i x.h.core
    else s

/-- SIGNAL_ADD (02 R57, R58): the signal takes effect as the operation retires (R59). -/
def signalAdd (i : Tid) (s : State) : State :=
  match s.running i 0x41 with
  | none => s
  | some x =>
    let k := syncCounter x.e.cmd x.op x.h.t
    let sat := (addSat ((s.part i.cid.p).counter k) (syncValue x.op)).2
    let s := s.modPart i.cid.p (fun P => P.counterAdd k (syncValue x.op))
    let s := if sat then s.modEntry i.cid (fun e => { e with counterSat := true }) else s
    s.opRetired i x.h.core

/-- SIGNAL_SET (02 R57): a monotonic set. -/
def signalSet (i : Tid) (s : State) : State :=
  match s.running i 0x42 with
  | none => s
  | some x =>
    (s.modPart i.cid.p (fun P => P.counterSet (syncCounter x.e.cmd x.op x.h.t) (syncValue x.op))).opRetired i x.h.core

/-- Whether every thread of a sweep has arrived at operation k. -/
def Sweep.allArrived (w : Sweep) (cmd : Bytes) (k : Nat) : Bool :=
  decide (w.threads.length = gridSize cmd) && w.threads.all (fun h => decide (h.wait = .arrived ∧ h.op = k))

/-- BARRIER (02 R54): the thread arrives; with the last arrival every thread of the sweep goes on. -/
def barrier (i : Tid) (s : State) : State :=
  match s.running i 0x43 with
  | none => s
  | some x =>
    let w := x.w.modThread i.t (fun h => { h with wait := .arrived })
    if w.allArrived x.e.cmd x.h.op then
      let s := s.modEntry i.cid (fun e => e.modSweep (fun _ => { w with threads := w.threads.map Thread.retireOp }))
      w.threads.foldl (fun s h => s.tally 0 h.core 2 1) s
    else s.modEntry i.cid (fun e => e.modSweep (fun _ => w))

/-- The retained copies that thread t of a co-located sweep could still read are dropped (09 R261).
(Log: DEDUCED, unsafe, entry 36.) -/
def State.dropRetained (s : State) (c : Cid) (t : Nat) : State :=
  { s with cores := { s.cores with retained := s.cores.retained.filter (fun r => !(decide (r.cid = c) && decide (r.t = t))) } }

/-- THREAD_RETIRE (02 R50, R66): a thread past its last operation frees its core's resources.
(Log: DESIGN CHOICE, safe, entry 33.) -/
def threadRetire (i : Tid) (s : State) : State :=
  match s.entry i.cid with
  | none => s
  | some e =>
    match e.sweep with
    | none => s
    | some w =>
      match w.thread i.t with
      | none => s
      | some h =>
        if e.phase = .running ∧ h.wait = .ready ∧ opCount w.prog ≤ h.op then
          let s := s.traceThread i.cid 4 i.t h.core h.context
          let s := s.modEntry i.cid (fun e => e.modSweep (fun w =>
            { w with threads := w.threads.filter (fun x => x.t != i.t), retired := w.retired ++ [i.t] }))
          let s := s.modPart i.cid.p (fun P => P.freeKeptOf (· == i))
          match w.coloc with
          | none => s
          | some n => s.dropRetained { i.cid with n := n } i.t
        else s

/-- The meaning of WAIT. -/
def execWait (i : Tid) (s : State) : Host.Outcome State Fault Refusal := .next (wait i s)
/-- The meaning of WAIT_SATISFIED. -/
def execWaitSatisfied (i : Tid) (s : State) : Host.Outcome State Fault Refusal := .next (waitSatisfied i s)
/-- The meaning of SIGNAL_ADD. -/
def execSignalAdd (i : Tid) (s : State) : Host.Outcome State Fault Refusal := .next (signalAdd i s)
/-- The meaning of SIGNAL_SET. -/
def execSignalSet (i : Tid) (s : State) : Host.Outcome State Fault Refusal := .next (signalSet i s)
/-- The meaning of BARRIER. -/
def execBarrier (i : Tid) (s : State) : Host.Outcome State Fault Refusal := .next (barrier i s)
/-- The meaning of THREAD_RETIRE. -/
def execThreadRetire (i : Tid) (s : State) : Host.Outcome State Fault Refusal := .next (threadRetire i s)

end Sys2Proof.Machine
end

