-- ==== Sys2Proof/Machine/Sweep.lean ====
section
/-! DEFINITION. The acceptance of a SWEEP: the command, its tile program, its argument slots and every range its
threads can reach (02 R39 to R52, R55, R70; 03 R80, R82, R93, R99; 05 R146, R155; 06 R175 to R181; 07 R191, R193, R211;
08 R222, R235, R236). -/

namespace Sys2Proof.Machine

/-! ### The command (02 R41, R42) -/

/-- RULE of a sweep: 0 package, 1 die, 2 range, 3 list. -/
def swRule (c : Bytes) : Nat := fld (at_ c 0x34 1) 0 2
/-- DIE_MASK. -/
def swMask (c : Bytes) : Nat := fld (at_ c 0x35 1) 0 4
/-- BLOCK. -/
def swBlock (c : Bytes) : Nat := at_ c 0x36 2
/-- RANGE_FIRST. -/
def swFirst (c : Bytes) : Nat := at_ c 0x38 2
/-- RANGE_COUNT. -/
def swCount (c : Bytes) : Nat := at_ c 0x3A 2
/-- CONTEXT_LIMIT. -/
def swLimit (c : Bytes) : Nat := at_ c 0x3C 2
/-- LIST_ADDRESS. -/
def swList (c : Bytes) : Nat := at_ c 0x40 8
/-- ARG_BASE. -/
def swArgs (c : Bytes) : Nat := at_ c 0x48 8
/-- TILE_PROGRAM. -/
def swProg (c : Bytes) : Nat := at_ c 0x20 8

/-- The field checks of a SWEEP body (02 R41, R42): reserved bits and values, the grid, and fields that the rule does
not use. -/
def sweepFieldsOk (c : Bytes) : Bool :=
  let r := swRule c
  let num := at_ c 0x50 4
  decide (swProg c % 64 = 0) && decide (gridSize c ≤ 2 ^ 32) && decide (at_ c 0x34 1 < 4 ∧ at_ c 0x35 1 < 16) &&
    decide (swLimit c ≤ 1024) && zeroAt c 0x3E 2 && zeroAt c 0x54 44 && decide (fld num 0 2 ≠ 3) && !bit num 3 &&
    decide (fld num 16 16 = 0) && (decide (r = 1) || decide (swMask c = 0)) &&
    (if 2 ≤ r then decide (1 ≤ swBlock c ∧ 1 ≤ swCount c ∧ swCount c ≤ 1280)
     else decide (swBlock c = 0 ∧ swCount c = 0)) &&
    (decide (r = 2) || decide (swFirst c = 0)) &&
    (if r = 3 then decide (swList c % 2 = 0) else decide (swList c = 0))

/-- Whether a logical core is present in a partition (02 R43). -/
def State.present (s : State) (p : Fin 4) (l : Nat) : Bool := (s.part p).ownsCore l && !s.cores.absent.getLsbD l

/-- The die mask of rule 1 selects a core of the partition (02 R45). -/
def Part.maskOk (P : Part) (c : Bytes) : Bool :=
  decide (swRule c ≠ 1) || (List.range 1280).any (fun l => P.ownsCore l && bit (swMask c) (l / 320))

/-- The home core of thread t under rules 2 and 3 (02 R44). -/
def homeCore (c : Bytes) (list : List Nat) (t : Nat) : Nat :=
  let k := t / swBlock c % swCount c
  if swRule c = 2 then swFirst c + k else list.getD k 0

/-- Every core a range or list names belongs to the partition (02 R45). -/
def Part.namesOwned (P : Part) (c : Bytes) (list : List Nat) : Bool :=
  match swRule c with
  | 2 => (List.range (swCount c)).all (fun k => P.ownsCore (swFirst c + k))
  | 3 => list.all P.ownsCore
  | _ => true

/-- The 16-bit words of a byte string. -/
def words16 : Nat → Bytes → List Nat
  | 0, _ => []
  | n + 1, l => le (l.take 2) :: words16 n (l.drop 2)

/-! ### Slots an operation names (06 R175, 07 R191, 08 R226) -/

/-- CHAIN's word. -/
def chainWord (prog op : Bytes) : Nat := le (chainAt prog (at_ op 2 1))

/-- A slot that may be none (0xFFFF), `n` slots from it. -/
def slotRun (n s : Nat) : List Nat := if s = 0xFFFF then [] else (List.range n).map (· + s)

/-- The argument slots of an operation. -/
def opSlots (prog op : Bytes) : List Nat :=
  match at_ op 0 1 with
  | 0x01 | 0x02 | 0x03 => [at_ op 2 2, at_ op 2 2 + 1]
  | 0x10 => [at_ op 2 2]
  | 0x11 => [at_ op 2 2, at_ op 4 2, at_ op 6 2]
  | 0x20 => at_ op 6 2 :: (slotRun (if fld (chainWord prog op) 0 2 = 1 then 2 else 1) (at_ op 8 2) ++ slotRun 1 (at_ op 10 2))
  | 0x30 | 0x31 => at_ op 6 2 :: slotRun 1 (at_ op 0x0E 2)
  | _ => []

/-- The operations of a program. -/
def progOps (prog : Bytes) : List Bytes := (List.range (opCount prog)).map (opAt prog)

/-- The argument slots a program names. -/
def progSlots (prog : Bytes) : List Nat := ((progOps prog).flatMap (opSlots prog)).eraseDups

/-! ### Checks of the program (02 R47, R49, R52) -/

/-- What the checks of an operation look at. -/
structure ProgCtx where
  cmd : Bytes
  prog : Bytes
  slot : Nat → Bytes
  scCount : Nat
  overlapped : Bool

/-- LS_BYTES. -/
def ProgCtx.ls (g : ProgCtx) : Nat := at_ g.prog 4 4
/-- ACC_UNITS. -/
def ProgCtx.units (g : ProgCtx) : Nat := at_ g.prog 3 1

/-- The header of a tile program (02 Table 2.8). -/
def progHeaderOk (h : Bytes) : Bool :=
  decide (1 ≤ at_ h 0 1 ∧ at_ h 0 1 ≤ 64 ∧ at_ h 1 1 ≤ 16 ∧ at_ h 2 1 < 4 ∧ at_ h 3 1 ≤ 16 ∧ at_ h 4 4 ≤ 1572864) &&
    zeroAt h 8 56

/-- Length of a program. -/
def progLen (h : Bytes) : Nat := 64 + 32 * at_ h 0 1 + 32 * at_ h 1 1

/-- GANG if and only if it contains a BARRIER; ROW_ENGINE if and only if a row operation. -/
def progFlagsOk (prog : Bytes) : Bool :=
  let has (k : Nat → Bool) : Bool := (progOps prog).any (fun op => k (at_ op 0 1))
  bit (at_ prog 2 1) 0 == has (fun k => k == 0x43) && bit (at_ prog 2 1) 1 == has (fun k => k == 0x30 || k == 0x31)

/-- An offset field of 21 bits in a 4-byte word, aligned. -/
def offOk (v align : Nat) : Bool := decide (v < 2 ^ 21 ∧ v % align = 0)

/-- The corners of the grid, where every linear form of the coordinates has its largest and smallest value. -/
def maxCoord (c : Bytes) (bx : Nat) (sx sy sz : Nat) : Nat :=
  bx + (gridX c - 1) * sx + (gridY c - 1) * sy + (gridZ c - 1) * sz

/-- WAIT, SIGNAL_ADD, SIGNAL_SET (02 R52). -/
def syncOpOk (cmd op : Bytes) : Bool :=
  decide (at_ op 1 1 = 0) && zeroAt op 0x0A 2 && zeroAt op 0x10 16 &&
    decide (maxCoord cmd (at_ op 2 2) (at_ op 4 2) (at_ op 6 2) (at_ op 8 2) ≤ 65535)

/-- Coordinates of an origin slot stay below 2³² (06 R176). -/
def originOk (cmd slot : Bytes) (m n : Nat) : Bool :=
  decide (maxCoord cmd (at_ slot 0 4) (at_ slot 8 4) (at_ slot 12 4) (at_ slot 16 4) + (m - 1) < 2 ^ 32) &&
    decide (maxCoord cmd (at_ slot 4 4) (at_ slot 20 4) (at_ slot 24 4) (at_ slot 28 4) + (n - 1) < 2 ^ 32)

/-! ### Tile copies (08 R234 to R236) -/

/-- The destination of a COPY_MESH is its own thread. -/
def meshSelf (cmd op : Bytes) : Bool :=
  let z (d n : Nat) : Bool := decide (signedOf 8 d % (n : Int) = 0)
  z (at_ op 0x1C 1) (gridX cmd) && z (at_ op 0x1D 1) (gridY cmd) && z (at_ op 0x1E 1) (gridZ cmd)

/-- Local-store ranges lie within LS_BYTES. -/
def inLs (ls : Nat) (l : List (Int × Nat)) : Bool := l.all (fun r => decide (r.2 = 0 ∨ (0 ≤ r.1 ∧ r.1 + r.2 ≤ ls)))

/-- The checks of a tile copy that look at its own bytes alone. -/
def copyOpPlain (g : ProgCtx) (op : Bytes) : Bool :=
  decide (at_ op 1 1 = 0) && offOk (at_ op 4 4) 1 && zeroAt op 0x1F 1 &&
    (if at_ op 0 1 = 0x03 then zeroAt op 0x10 12 && decide (at_ op 8 8 < 2 ^ 21) && bit (at_ g.prog 2 1) 0
     else zeroAt op 0x1C 3)

/-- The checks of a tile copy that need no translation. -/
def copyOpOk (g : ProgCtx) (op : Bytes) : Bool :=
  let k := at_ op 0 1
  let sh := g.slot (at_ op 2 2) ++ g.slot (at_ op 2 2 + 1)
  let h := shapeOf sh
  let ls : Int := tileLs op
  let va := tileVa g.cmd op 0
  copyOpPlain g op && shapeReserved sh &&
  (match k with
   | 0x01 => h.ok [0, 1, 2, 3] false 0 && inLs g.ls (h.reach va ls 0).dst
   | 0x02 =>
     h.ok [0, 1, 2, 4] false 0 && inLs g.ls (h.reach ls va 0).src &&
       (decide (h.kind ≠ 4) || (List.range (gridSize g.cmd)).all (fun t =>
         let r := h.reach ls (tileVa g.cmd op t) (tileAux h t)
         !meets r.aux r.dst))
   | _ =>
     let d : Int := fld (at_ op 8 8) 0 21
     let r := h.reach ls d 0
     h.ok [0, 1] false 0 && inLs g.ls r.src && inLs g.ls r.dst && !(meshSelf g.cmd op && meets r.src r.dst))

/-! ### Array operations (06 R175 to R181) -/

/-- A format code that a local tile can have. -/
def tileFmt (d : Nat) : Bool := decide ((1 ≤ d ∧ d ≤ 6) ∨ (8 ≤ d ∧ d ≤ 0x11))

/-- An operand descriptor and the tiles it reaches for `k` terms (06 Table 6.8), its codebook among what LS_BYTES bounds.
(Log: DESIGN CHOICE, unsafe, entry 147.) -/
def operandOk (ls : Nat) (slot : Bytes) (k : Nat) : Bool :=
  let f := at_ slot 0 1
  let b := at_ slot 2 1
  let size := localTileSize f b
  let stride := at_ slot 8 4
  tileFmt f && decide (at_ slot 1 1 < 2) && zeroAt slot 3 1 && zeroAt slot 16 16 &&
    (if f = 0x0D then decide (b % 16 = 0 ∧ b ≤ 64) else decide (b = 0)) &&
    offOk (at_ slot 4 4) 64 && offOk stride 64 && decide (size ≤ stride) &&
    decide (at_ slot 4 4 + ((k + 63) / 64 - 1) * stride + size ≤ ls) &&
    (if isBook f then offOk (at_ slot 12 4) 8 && decide (at_ slot 12 4 + 8 ≤ ls) else decide (at_ slot 12 4 = 0))

/-- The accumulator tiles a program has set up at a point of it: first unit, mode and anchor. -/
abbrev Tiles := List (Nat × Nat × Nat)

/-- Units of a MODE code. -/
def modeUnits (m : Nat) : Nat := (accMode m).units

/-- ACC_INIT and the tiles after it (06 R177, R181; 03 R99). The manual bounds local tiles by LS_BYTES, and the model its SOURCE
range too.
(Log: DESIGN CHOICE, unsafe, entry 147.) -/
def accInitOk (g : ProgCtx) (op : Bytes) (ts : Tiles) : Option Tiles :=
  let form := at_ op 1 1
  let m := at_ op 2 1
  let u := at_ op 3 1
  let c := at_ op 4 2
  let src := at_ op 8 4
  let anchored := decide (m = 3 ∨ m = 4)
  let size := if form = 0 then 0 else 4096 * (accMode m).size
  if decide (form ≤ 2 ∧ m ≤ 4 ∧ u < 16) && decide (u + modeUnits m ≤ g.units ∧ u + modeUnits m ≤ 16) &&
      (if anchored then decide (-1024 ≤ signedOf 16 c ∧ signedOf 16 c ≤ 1023) else decide (c = 0)) &&
      zeroAt op 6 2 && zeroAt op 12 20 && (if form = 0 then decide (src = 0) else offOk src 64) &&
      decide (form = 0 ∨ src + size ≤ g.ls) && (decide (form ≠ 2) || (anchored && ts.contains (u, m, c))) then
    if form = 2 then some ts
    else some ((u, m, c) :: ts.filter (fun t => !unitsOverlap u (modeUnits m) t.1 (modeUnits t.2.1)))
  else none

/-- Whether a mode fits a class (06 R181). -/
def modeFits (cls : OpClass) (m : Nat) : Bool :=
  match cls with
  | .integer => decide (m = 2)
  | .windowed .fp64 => decide (m = 1 ∨ m = 3 ∨ m = 4)
  | _ => decide (m = 0 ∨ m = 3 ∨ m = 4)

/-- The checks of ARRAY_MMA that look at its own bytes and the tiles set up before it (06 R180, R181). -/
def mmaPlain (op : Bytes) (ts : Tiles) (pre : Option Nat) : Bool :=
  let k := at_ op 12 4
  let fl := at_ op 1 1
  let u := at_ op 8 1
  decide (fl < 4 ∧ u < 16 ∧ at_ op 9 1 < 64 ∧ at_ op 10 1 < 64) && zeroAt op 11 1 && zeroAt op 0x14 12 &&
    decide (1 ≤ k ∧ k ≤ 2 ^ 32 - 32 ∧ at_ op 16 4 + (k + 31) / 32 ≤ 2 ^ 28) && (decide (k % 32 = 0) || bit fl 0) &&
    ts.any (fun t => decide (t.1 = u)) && (if bit fl 1 then pre == some (at_ op 4 2) else pre == none)

/-- ARRAY_MMA (06 R180, R181; 03 R80, R82, R93); `pre` is the slot the operation before it preloaded.
(Log: DEDUCED, unsafe, entry 32.) -/
def mmaOk (g : ProgCtx) (op : Bytes) (ts : Tiles) (pre : Option Nat) : Bool :=
  let a := g.slot (at_ op 2 2)
  let b := g.slot (at_ op 4 2)
  let k := at_ op 12 4
  mmaPlain op ts pre &&
    operandOk g.ls a k && operandOk g.ls b k && originOk g.cmd (g.slot (at_ op 6 2)) (at_ op 9 1 + 1) (at_ op 10 1 + 1) &&
    (match classOf (at_ a 0 1) (at_ b 0 1) with
     | none => false
     | some cls => ts.any (fun t => decide (t.1 = at_ op 8 1) && modeFits cls t.2.1))

/-! ### CHAIN (07 R190 to R193) -/

/-- A byte region of local store. -/
abbrev Region := Nat × Nat

/-- Whether two regions share a byte. -/
def Region.hits (a b : Region) : Bool := decide (a.1 < b.1 + b.2 ∧ b.1 < a.1 + a.2)

/-- An AUX field for a local tile of a format (07 Table 7.2). -/
def auxOk (fmt aux : Nat) (tile : Bool) : Bool :=
  if !tile then decide (aux = 0)
  else if fmt = 0x0D then decide (aux ≤ 4)
  else if isBook fmt then offOk aux 8
  else decide (aux = 0)

/-- The formats that a source of a CHAIN of each kind can have (07 R193): of local tiles and, without block scales, of
vectors; 0 for accumulator and register sources. -/
def srcFmtOk (kind fmt : Nat) : Bool :=
  match kind with
  | 0 | 1 => decide (fmt = 0)
  | 2 => tileFmt fmt
  | _ => tileFmt fmt && !isMx fmt

/-- A source of a CHAIN: whether its fields are in order, and the regions it reads: a local tile whole, whatever M and N.
(Log: DESIGN CHOICE, unsafe, entry 158.) -/
def chainSrc (kind fmt loc aux : Nat) : Bool × List Region :=
  match kind with
  | 0 => (srcFmtOk 0 fmt && decide (loc < 16 ∧ aux = 0), [])
  | 1 => (srcFmtOk 1 fmt && decide (loc < 4 ∧ aux = 0), [])
  | 2 => (srcFmtOk 2 fmt && offOk loc 64 && auxOk fmt aux true,
          (loc, localTileSize fmt (16 * (aux % 8))) :: (if isBook fmt then [(aux, 8)] else []))
  | _ => (srcFmtOk 3 fmt && offOk loc 64 && decide (aux = 0), [(loc, 8 * elemBits fmt)])

/-- Whether a chain word uses a constant. -/
def usesConst (w : Nat) : Bool :=
  let c (lo : Nat) : Bool := decide (fld w lo 3 = 2 ∨ fld w lo 3 = 3)
  let op := fld w 128 4
  (bit w 73 && (c 64 || c 67 || c 70)) || bit w 100 || bit w 101 ||
    (decide (1 ≤ op ∧ op ≤ 3) && decide (fld w 132 3 ≠ 0)) || (decide (op = 3) && bit w 138) || decide (op = 4 ∨ op = 5)

/-- No stage selects Y while Y_SRC is 0. -/
def selectsY (w : Nat) : Bool :=
  let c (lo : Nat) : Bool := decide (fld w lo 3 = 1)
  let op := fld w 128 4
  (bit w 73 && (c 64 || c 67 || c 70)) || (decide (1 ≤ op ∧ op ≤ 3) && decide (fld w 132 3 = 0)) ||
    (decide (op = 3) && !bit w 138)

/-- The encodings and reserved bits of a chain word (07 Table 7.3). -/
def chainWordOk (w : Nat) : Bool :=
  decide (fld w 0 2 ≤ 1 ∧ fld w 2 3 ≤ 2 ∧ fld w 5 3 ≤ 4) && decide (fld w 26 6 = 0 ∧ fld w 50 14 = 0 ∧ fld w 74 22 = 0) &&
    decide (fld w 64 3 ≤ 5 ∧ fld w 67 3 ≤ 5 ∧ fld w 70 3 ≤ 5) && decide (fld w 96 4 ≤ 7 ∧ fld w 103 25 = 0) &&
    decide (fld w 128 4 ≤ 5 ∧ fld w 132 3 ≤ 3 ∧ fld w 155 5 = 0) && decide (fld w 160 3 ≤ 5 ∧ fld w 166 26 = 0) &&
    decide (fld w 203 3 ≤ 4 ∧ fld w 207 1 = 0 ∧ fld w 216 8 = 0 ∧ fld w 227 29 = 0) &&
    (!bit w 24 || decide (fld w 2 3 ≠ 0)) && (!bit w 25 || decide (fld w 5 3 = 1 ∨ fld w 5 3 = 2))

/-- The registers a source or destination of kind register names, when a pair is named by an even one. -/
def regPair (w n : Nat) : Option (List Nat) :=
  if fld w 0 2 = 1 then (if n % 2 = 0 then some [n, n + 1] else none) else some [n]

/-- Quantise's own rules (07 R193, R146; 04 R114). -/
def quantiseOk (g : ProgCtx) (w entry : Nat) : Bool :=
  let d := fld w 192 8
  let ss := fld w 200 2
  let dest := fld w 224 2
  (if dest = 0 then tileFmt d else decide (d = 0)) && (decide (ss = 0) == !isMx d) &&
    (!decide (d = 0x0D ∨ d = 0x0E ∨ d = 0x0F) || decide (2 ≤ ss)) && (decide (ss ≠ 2) || decide (entry < g.scCount)) &&
    (decide (d = 0x0D) || decide (fld w 203 3 = 0))

/-- The stages that a raw save leaves idle (07 R196). -/
def chainIdle (w : Nat) : Bool :=
  decide (fld w 32 18 = 0) && !bit w 73 && decide (fld w 96 4 = 0 ∧ fld w 100 3 = 0 ∧ fld w 128 4 = 0 ∧
    fld w 160 3 = 0 ∧ fld w 192 8 = 0)

/-- The checks of CHAIN that look at its own bytes and its chain word (07 R190 to R193). -/
def chainPlain (g : ProgCtx) (op : Bytes) : Bool :=
  let w := chainWord g.prog op
  let dest := fld w 224 2
  decide (at_ op 1 1 = 0) && decide (at_ op 2 1 < at_ g.prog 1 1) && decide (at_ op 3 1 < 64 ∧ at_ op 4 1 < 64) &&
    zeroAt op 5 1 && zeroAt op 0x0E 18 && chainWordOk w && srcFmtOk (fld w 2 3) (fld w 8 8) &&
    (decide (fld w 5 3 = 0) || srcFmtOk (fld w 5 3) (fld w 16 8)) && (decide (fld w 5 3 ≠ 0) || (!selectsY w && decide (fld w 16 8 = 0))) &&
    quantiseOk g w (at_ op 12 2) && (!usesConst w || decide (at_ op 8 2 ≠ 0xFFFF)) &&
    (decide (dest ≠ 2) || (decide (fld w 2 3 = 0) && !bit w 226 && chainIdle w)) &&
    (decide (dest ≠ 3) || decide (fld w 160 3 ≠ 0))

/-- CHAIN: the registers written so far become those after it, when it passes (07 R193). -/
def chainOk (g : ProgCtx) (op : Bytes) (ts : Tiles) (written : List Nat) : Option (List Nat) :=
  let w := chainWord g.prog op
  let loc := g.slot (at_ op 6 2)
  let xk := fld w 2 3
  let yk := fld w 5 3
  let dest := fld w 224 2
  let lane := if fld w 0 2 = 1 then 8 else 4
  let dloc := at_ loc 8 4
  let (xOk, xReg) := chainSrc xk (fld w 8 8) (at_ loc 0 4) (at_ loc 0x14 4)
  let (yOk, yReg) := if yk = 0 then (decide (at_ loc 0x18 4 = 0) && offOk (at_ loc 4 4) 1, [])
    else chainSrc yk (fld w 16 8) (at_ loc 4 4) (at_ loc 0x18 4)
  let mode : Option Nat := if xk = 0 then (ts.find? (fun t => t.1 == at_ loc 0 4)).map (fun t => t.2.1) else none
  let accOk := if xk ≠ 0 then true
    else match mode with
      | none => false
      | some 3 => decide (lane = 4)
      | some 4 => decide (lane = 8)
      | some _ => true
  let m := at_ op 3 1 + 1
  let n := at_ op 4 1 + 1
  let size := (accMode (mode.getD 0)).size
  let dReg : List Region :=
    match dest with
    | 0 => [(dloc, localTileSize (fld w 192 8) (16 * fld w 203 3))]
    | 2 => [(dloc, (64 * (m - 1) + n) * size)]
    | _ => []
  let book : List Region := if isBook (fld w 192 8) then [(at_ loc 16 4, 8)] else []
  let partial_ : List Region := if fld w 160 3 = 0 then []
    else [(at_ loc 12 4, 64 * lane + if bit w 165 then lane else 0)]
  let destOk :=
    match dest with
    | 0 => offOk dloc 64
    | 1 => decide (dloc < 4)
    | 2 => offOk dloc 64
    | _ => true
  let xRegs : Option (List Nat) := if xk = 1 then regPair w (at_ loc 0 4) else some []
  let yRegs : Option (List Nat) := if yk = 1 then regPair w (at_ loc 4 4) else some []
  let dRegs : Option (List Nat) := if dest = 1 then regPair w dloc else some []
  match xRegs, yRegs, dRegs with
  | some xs, some ys, some ds =>
    if chainPlain g op && zeroAt loc 0x1C 4 && xOk && yOk && accOk && destOk &&
        (decide (at_ op 10 2 = 0xFFFF) || originOk g.cmd (g.slot (at_ op 10 2)) m n) &&
        offOk (at_ loc 12 4) (if fld w 160 3 = 0 then 1 else 64) && offOk (at_ loc 16 4) (if book = [] then 1 else 8) &&
        (decide (fld w 200 2 ≠ 2) || !dReg.any (fun d => (xReg ++ yReg ++ partial_).any (Region.hits d))) &&
        (decide (fld w 200 2 ≠ 2 ∨ dest ≠ 1) || !ds.any (fun r => (xs ++ ys).contains r)) &&
        (xReg ++ yReg ++ dReg ++ book ++ partial_).all (fun r => decide (r.1 + r.2 ≤ g.ls)) &&
        (xs ++ ys).all (fun r => written.contains r) then
      some (ds ++ written)
    else none
  | _, _, _ => none

/-! ### Row operations (07 R210, R211) -/

/-- The checks of ROW_FWD and ROW_BWD that look at their own bytes and the command's tags (07 R210, R211). -/
def rowPlain (g : ProgCtx) (op : Bytes) : Bool :=
  let fwd := decide (at_ op 0 1 = 0x30)
  let fl := at_ op 1 1
  let rows := at_ op 0x0C 2 + 1
  let pass := cmdPass g.cmd
  let top := maxCoord g.cmd (at_ op 0x10 4) (at_ op 0x14 2) (at_ op 0x16 2) (at_ op 0x18 2) + rows - 1
  decide (fl < 16) && (if fwd then !bit fl 3 else !bit fl 1 && !bit fl 2) && decide (at_ op 2 1 ≤ 2) &&
    decide (2 ≤ at_ op 3 1 ∧ at_ op 3 1 ≤ 4 ∧ 2 ≤ at_ op 4 1 ∧ at_ op 4 1 ≤ 6) && zeroAt op 5 1 &&
    decide (at_ op 8 4 < 2 ^ 16) && decide (rows ≤ 4096) && zeroAt op 0x1A 2 &&
    (if fwd && !bit fl 2 then decide (pass = 0) else decide (pass = 1 ∨ pass = 2)) && decide (top < 2 ^ 31) &&
    (decide (top < statCap g.overlapped) || decide (at_ op 0x0E 2 ≠ 0xFFFF))

/-- The checks of ROW_FWD and ROW_BWD.
(Log: DESIGN CHOICE, unsafe, entry 157.) -/
def rowOk (g : ProgCtx) (op : Bytes) : Bool :=
  let fwd := decide (at_ op 0 1 = 0x30)
  let fl := at_ op 1 1
  let loc := g.slot (at_ op 6 2)
  let n := fld (at_ op 8 4) 0 16 + 1
  let rows := at_ op 0x0C 2 + 1
  let pitch := at_ loc 0x18 4
  let ss := at_ op 0x0E 2
  let top := maxCoord g.cmd (at_ op 0x10 4) (at_ op 0x14 2) (at_ op 0x16 2) (at_ op 0x18 2) + rows - 1
  let block (off size : Nat) : Bool := decide (at_ loc off 4 + (rows - 1) * pitch + n * size ≤ g.ls)
  let vec (off : Nat) : Bool := decide (at_ loc off 4 + 4 * n ≤ g.ls)
  rowPlain g op && (decide (top < statCap g.overlapped) || decide (at_ (g.slot ss) 0 8 % 512 = 0)) &&
    ([0, 4, 8, 12, 16, 20].all (fun o => offOk (at_ loc o 4) 1)) && offOk pitch 64 && zeroAt loc 0x1C 4 &&
    block 0 (elemBits (at_ op 3 1) / 8) && (fwd || block 4 (elemBits (at_ op 3 1) / 8)) &&
    block 0x10 (elemBits (at_ op 4 1) / 8) && (fwd || !bit fl 3 || block 0x14 4) && (!bit fl 0 || vec 8) &&
    (!(fwd && bit fl 1) || vec 12)

/-! ### The whole program -/

/-- Where a pass over a program stands: the accumulator tiles set up, the registers written, the slot the operation
just before preloaded. -/
structure ProgPass where
  tiles : Tiles
  written : List Nat
  pre : Option Nat

/-- One operation checked.
(Log: DEDUCED, unsafe, entry 32.) -/
def opCheck (g : ProgCtx) (st : ProgPass) (op : Bytes) : Option ProgPass :=
  let k := at_ op 0 1
  let plain (ok : Bool) : Option ProgPass := if ok && st.pre == none then some st else none
  match k with
  | 0x01 | 0x02 | 0x03 => plain (copyOpOk g op)
  | 0x10 => if st.pre == none && decide (at_ op 1 1 = 0) && zeroAt op 4 28 then some { st with pre := some (at_ op 2 2) } else none
  | 0x11 => if mmaOk g op st.tiles st.pre then some { st with pre := none } else none
  | 0x12 => if st.pre == none then (accInitOk g op st.tiles).map (fun ts => { st with tiles := ts }) else none
  | 0x20 => if st.pre == none then (chainOk g op st.tiles st.written).map (fun w => { st with written := w }) else none
  | 0x30 | 0x31 => plain (rowOk g op)
  | 0x40 | 0x41 | 0x42 => plain (syncOpOk g.cmd op)
  | 0x43 => plain (zeroAt op 1 31)
  | _ => none

/-- Every operation checked in program order. -/
def opsCheck (g : ProgCtx) : ProgPass → List Bytes → Bool
  | st, [] => st.pre == none
  | st, op :: r =>
    match opCheck g st op with
    | none => false
    | some st' => opsCheck g st' r

/-- One operation checked as far as it needs no argument slot (02 R39, stage 1). -/
def opPlain (g : ProgCtx) (st : ProgPass) (op : Bytes) : Option ProgPass :=
  let plain (ok : Bool) : Option ProgPass := if ok && st.pre == none then some st else none
  match at_ op 0 1 with
  | 0x01 | 0x02 | 0x03 => plain (copyOpPlain g op)
  | 0x11 => if mmaPlain op st.tiles st.pre then some { st with pre := none } else none
  | 0x20 => plain (chainPlain g op)
  | 0x30 | 0x31 => plain (rowPlain g op)
  | _ => opCheck g st op

/-- Every operation checked in program order as far as no argument slot is needed. -/
def opsPlain (g : ProgCtx) : ProgPass → List Bytes → Bool
  | st, [] => st.pre == none
  | st, op :: r =>
    match opPlain g st op with
    | none => false
    | some st' => opsPlain g st' r

/-- The chain-word index and opcode of each operation are in range before any slot is read (02 R49; 06 R175). -/
def opShapeOk (prog op : Bytes) : Bool :=
  [0x01, 0x02, 0x03, 0x10, 0x11, 0x12, 0x20, 0x30, 0x31, 0x40, 0x41, 0x42, 0x43].contains (at_ op 0 1) &&
    (decide (at_ op 0 1 ≠ 0x20) || decide (at_ op 2 1 < at_ prog 1 1)) && (opSlots prog op).all (fun s => decide (s ≤ 1023))

/-! ### Scale-table entries a program names (05 R155) -/

/-- The entries named, each with its destination format and whether its use ends. -/
def namedEntries (prog : Bytes) : List (Nat × Nat × Bool) :=
  let all := (progOps prog).filterMap (fun op =>
    let w := chainWord prog op
    if at_ op 0 1 = 0x20 ∧ fld w 200 2 = 2 then some (at_ op 12 2, fld w 192 8, bit w 206) else none)
  (all.map (·.1)).eraseDups.map (fun n =>
    (n, ((all.find? (fun x => x.1 == n)).map (fun x => x.2.1)).getD 0, all.any (fun x => x.1 == n && x.2.2)))

/-- The address of scale-table entry n. -/
def Part.scEntry (P : Part) (n : Nat) : Nat := fld P.scTableBase.toNat 5 47 * 32 + 32 * n

/-- Whether a command holds an entry: from its start until it finishes (05 R155). -/
def Part.entryHeld (P : Part) (n : Nat) : Bool :=
  P.queues.any (fun q => q.2.entries.any (fun e =>
    decide (e.phase = .running ∨ e.phase = .executed) && e.snaps.any (fun sn => sn.entry == n)))

/-! ### Ranges a sweep reaches (08 R222) -/

/-- The coordinates that matter to a linear form: all along a direction with a step, else the first. -/
def stepCoords (c : Bytes) (sx sy sz : Bool) : List Nat :=
  let n (b : Bool) (k : Nat) : Nat := if b then k else 1
  (List.range (n sz (gridZ c))).flatMap (fun z => (List.range (n sy (gridY c))).flatMap (fun y =>
    (List.range (n sx (gridX c))).map (fun x => x + gridX c * (y + gridY c * z))))

/-- Ranges of a tile copy over every thread. -/
def copyOpRngs (g : ProgCtx) (op : Bytes) : List Rng :=
  let h := shapeOf (g.slot (at_ op 2 2) ++ g.slot (at_ op 2 2 + 1))
  let ts := stepCoords g.cmd (decide (at_ op 0x10 4 ≠ 0)) (decide (at_ op 0x14 4 ≠ 0)) (decide (at_ op 0x18 4 ≠ 0))
  let aux : List Rng := if h.kind = 3 ∨ h.kind = 4 then
      [{ va := (h.aux : Int), len := 4 * h.rows * gridSize g.cmd, write := false }]
    else []
  match at_ op 0 1 with
  | 0x01 => aux ++ ts.flatMap (fun t => toRngs false (h.reach (tileVa g.cmd op t) 0 0).src)
  | 0x02 => aux ++ ts.flatMap (fun t => toRngs true (h.reach 0 (tileVa g.cmd op t) 0).dst)
  | _ => []

/-- Ranges of the spill records of a row operation over every thread. -/
def rowOpRngs (g : ProgCtx) (op : Bytes) : List Rng :=
  let cap := statCap g.overlapped
  let rows := at_ op 0x0C 2 + 1
  let base := at_ (g.slot (at_ op 0x0E 2)) 0 8
  let write := decide (at_ op 0 1 = 0x30) && !bit (at_ op 1 1) 2
  let ts := stepCoords g.cmd (decide (at_ op 0x14 2 ≠ 0)) (decide (at_ op 0x16 2 ≠ 0)) (decide (at_ op 0x18 2 ≠ 0))
  ts.filterMap (fun t =>
    let b := statBase g.cmd op t
    if b + rows ≤ cap then none
    else
      let q1 := (max b cap - cap) / 63
      let q2 := (b + rows - 1 - cap) / 63
      some { va := ((base + 512 * q1 : Nat) : Int), len := 512 * (q2 - q1 + 1), write := write })

/-- Every range the threads of a sweep reach. -/
def progRngs (g : ProgCtx) : List Rng :=
  (progOps g.prog).flatMap (fun op =>
    match at_ op 0 1 with
    | 0x01 | 0x02 => copyOpRngs g op
    | 0x30 | 0x31 => rowOpRngs g op
    | _ => [])

/-! ### Capacity of a gang (02 R55) -/

/-- Threads of a program that one empty core holds. -/
def coreCapacity (cmd prog : Bytes) : Nat :=
  let gran := (at_ prog 4 4 + 2047) / 2048
  let ls := if gran = 0 then 1024 else 768 / gran
  let acc := if at_ prog 3 1 = 0 then 1024 else 16 / at_ prog 3 1
  let lim := if swLimit cmd = 0 then 1024 else swLimit cmd
  min (min 1024 lim) (min ls acc)

/-- The next present core of the partition in a die, from an offset, wrapping (02 R46).
(Log: DEDUCED, unsafe, entry 94.) -/
def State.nextOnDie (s : State) (p : Fin 4) (die off : Nat) : Option Nat :=
  ((List.range 320).map (fun k => 320 * die + (off + k) % 320)).find? (fun l => s.present p l)

/-- Where a thread with a home core runs (02 R46).
(Log: DEDUCED, unsafe, entry 94.) -/
def State.homeOf (s : State) (p : Fin 4) (home : Nat) : Option Nat :=
  if s.present p home then some home
  else
    let d := home / 320
    [0, 1, 2, 3].findSome? (fun k => s.nextOnDie p ((d + k) % 4) (home % 320))

/-- The placement set of a sweep (02 R44, R46). -/
def State.placementSet (s : State) (p : Fin 4) (cmd : Bytes) (list : List Nat) : List Nat :=
  match swRule cmd with
  | 0 => (List.range 1280).filter (s.present p)
  | 1 => (List.range 1280).filter (fun l => s.present p l && bit (swMask cmd) (l / 320))
  | 2 => ((List.range (swCount cmd)).filterMap (fun k => s.homeOf p (swFirst cmd + k))).eraseDups
  | _ => (list.filterMap (s.homeOf p)).eraseDups

/-! ### Acceptance -/

/-- A gang fits the placement set of its cores (02 R55). -/
def State.gangOk (s : State) (p : Fin 4) (c prog : Bytes) (list : List Nat) : Bool :=
  !bit (at_ prog 2 1) 0 || decide (gridSize c ≤ coreCapacity c prog * (s.placementSet p c list).length)

/-- The state checks of a program that need no slot: the side-memory bank (02 R70), the entries it names (05 R155), and the
capacity of a gang whose cores no list names (02 R55). -/
def State.progStateOk (s : State) (p : Fin 4) (q : Nat) (c prog : Bytes) : Bool :=
  let P := s.part p
  let G := P.group (groupOf q)
  let bankOk := match cmdPass c with
    | 0 => true
    | 3 => false
    | _ => decide (G.bank (cmdMicro c) = .held (cmdMicro c))
  (!bit (at_ prog 2 1) 1 || (G.owner && bankOk)) && !(namedEntries prog).any (fun n => P.entryHeld n.1) &&
    (decide (swRule c = 3) || s.gangOk p c prog [])

/-- The checks of a SWEEP of a queue, in their stages (02 R39): what it translated and reads, and the sweep as it was
accepted. The program, the list and the slots are read through their own translations before what is in them is
checked; the checks that the program's own bytes decide come before the translation of its slots and list. -/
def State.sweepCheck (s : State) (p : Fin 4) (q : Nat) (e : Entry) : Except Status (List Xlat × List Rng × Sweep) :=
  let c := e.cmd
  let P := s.part p
  let G := P.group (groupOf q)
  if !sweepFieldsOk c || !P.maskOk c then .error .invalid
  else
    let rng (a n : Nat) : Rng := { va := (a : Int), len := n, write := false }
    match s.translate p [rng (swProg c) 64] with
    | none => .error .isolation
    | some x0 =>
      let h := s.readVa x0 (swProg c) 64
      if !progHeaderOk h then .error .invalid
      else
        let rp := rng (swProg c) (progLen h)
        match s.translate p [rp] with
        | none => .error .isolation
        | some x1 =>
          let prog := s.readVa x1 (swProg c) (progLen h)
          let g0 : ProgCtx := { cmd := c, prog := prog, slot := fun _ => zeros 32, scCount := fld P.scTableEntries.toNat 0 17,
                                overlapped := G.overlapped }
          if !progFlagsOk prog || !(progOps prog).all (opShapeOk prog) ||
              !opsPlain g0 { tiles := [], written := [], pre := none } (progOps prog) || !s.progStateOk p q c prog then .error .invalid
          else
            let rs := (progSlots prog).map (fun n => rng (swArgs c + 32 * n) 32)
            let rl := if swRule c = 3 then [rng (swList c) (2 * swCount c)] else []
            match s.translate p ((rp :: rs) ++ rl) with
            | none => .error .isolation
            | some x2 =>
              let slots := (progSlots prog).map (fun n => (n, s.readVa x2 (swArgs c + 32 * n) 32))
              let list := if swRule c = 3 then words16 (swCount c) (s.readVa x2 (swList c) (2 * swCount c)) else []
              let w : Sweep := { prog := prog, slots := slots, coreList := list,
                                 compat := false, modeFixed := false,
                                 placed := 0, threads := [], retired := [], coreOf := [], coloc := none }
              let g : ProgCtx := { g0 with slot := w.slot }
              if !opsCheck g { tiles := [], written := [], pre := none } (progOps prog) || !s.gangOk p c prog list then .error .invalid
              else if !P.namesOwned c list then .error .isolation
              else
                let sc := (namedEntries prog).flatMap (fun n =>
                  [{ va := (P.scEntry n.1 : Int), len := 32, write := false },
                   { va := (P.scEntry n.1 : Int), len := 32, write := true }])
                let all := (rp :: rs) ++ rl ++ sc ++ progRngs g
                match s.translate p all with
                | none => .error .isolation
                | some xs => .ok (xs, all, w)

/-- What acceptance itself reads, for poison (13 R375). -/
def sweepTables (e : Entry) (w : Sweep) : List (Nat × Nat) :=
  (swProg e.cmd, w.prog.length) :: (w.slots.map (fun x => (swArgs e.cmd + 32 * x.1, 32)) ++
    (if swRule e.cmd = 3 then [(swList e.cmd, 2 * swCount e.cmd)] else []))

end Sys2Proof.Machine
end

