-- ==== Sys2Proof/Machine/Collective.lean ====
section
/-! DEFINITION. Collectives and plan switches (12 R338 to R354; 03 R103 to R106; 05 R162 to R164; 09 R266; 11 R314,
R319, R326 to R328). -/

namespace Sys2Proof.Machine

/-! ### Receive windows and arrivals (11 R314, 12 R346) -/

/-- Whether a window entry is VALID. -/
def Window.valid (w : Window) : Bool := bit (at_ w.entry 0x12 1) 0 && !w.xlats.isEmpty
/-- BASE of a window. -/
def Window.base (w : Window) : Nat := at_ w.entry 0 8
/-- SIZE of a window. -/
def Window.size (w : Window) : Nat := at_ w.entry 8 8
/-- Whether a source endpoint may write to the window. -/
def Window.admits (w : Window) (src : Nat) : Bool := bit (at_ w.entry 0x10 2) 15 || decide (fld (at_ w.entry 0x10 2) 0 14 = src)

/-- The window of a partition by number, when present and VALID. -/
def Part.window (P : Part) (n : Nat) : Option Window := (P.windows[n]?).filter Window.valid

/-- Write bytes that arrive for a window: they are never restored (13 R367). -/
def State.windowWrite (s : State) (w : Window) (off : Nat) (b : Bytes) : State :=
  (pieces (b.length / 65536 + 2) (w.base + off) b).foldl (fun s pc =>
    match locate w.xlats pc.va with
    | none => s
    | some (true, a) => s.hostWrite a pc.bytes
    | some (false, a) => s.writeOutside a pc.bytes) s

/-- Add an interval to a list of disjoint rising intervals that do not touch. -/
def ivInsert (a b : Nat) : List (Nat × Nat) → List (Nat × Nat)
  | [] => [(a, b)]
  | (c, d) :: r => if b < c then (a, b) :: (c, d) :: r else if d < a then (c, d) :: ivInsert a b r
    else ivInsert (min a c) (max b d) r

/-- Bytes [a, a + n) have arrived in a window.
(Log: DEDUCED, unsafe, entry 59.) -/
def Part.arrive (P : Part) (window a n : Nat) : Part :=
  if n = 0 then P else { P with arrivals := sset [] P.arrivals window (ivInsert a (a + n) (sget [] P.arrivals window)) }

/-- Whether bytes [a, a + n) of a window have all arrived.
(Log: DEDUCED, unsafe, entry 59.) -/
def Part.hasArrived (P : Part) (window a n : Nat) : Bool :=
  decide (n = 0) || (sget [] P.arrivals window).any (fun x => decide (x.1 ≤ a ∧ a + n ≤ x.2))

/-- How many bytes of a window have arrived. -/
def Part.arrivedBytes (P : Part) (window : Nat) : Nat := (sget [] P.arrivals window).foldl (fun n x => n + (x.2 - x.1)) 0

/-! ### The descriptor (12 Tables 12.1 to 12.3) -/

/-- OP. -/
def coOp (c : Bytes) : Nat := at_ c 0x20 1
/-- A bit of XFLAGS: 0 SR, 1 EF, 2 RESHARD. -/
def coFlag (c : Bytes) (n : Nat) : Bool := bit (at_ c 0x21 1) n
/-- SRC_FMT. -/
def coSrcFmt (c : Bytes) : Nat := at_ c 0x22 1
/-- IN_FMT. -/
def coInFmt (c : Bytes) : Nat := at_ c 0x23 1
/-- ACC_FMT. -/
def coAccFmt (c : Bytes) : Nat := at_ c 0x24 1
/-- OUT_FMT. -/
def coOutFmt (c : Bytes) : Nat := at_ c 0x25 1
/-- R. -/
def coR (c : Bytes) : Nat := at_ c 0x2A 2 + 1
/-- SELF. -/
def coSelf (c : Bytes) : Nat := at_ c 0x2C 2
/-- ROOT. -/
def coRoot (c : Bytes) : Nat := at_ c 0x2E 2
/-- The plan named. -/
def coPlan (c : Bytes) : Nat := fld (at_ c 0x28 1) 0 4
/-- UNIFORM. -/
def coUniform (c : Bytes) : Bool := bit (at_ c 0x28 1) 4
/-- WINDOW. -/
def coWindow (c : Bytes) : Nat := at_ c 0x68 2
/-- ELEM_BASE. -/
def coBase (c : Bytes) : Nat := at_ c 0x34 4
/-- SRC. -/
def coSrc (c : Bytes) : Nat := at_ c 0x50 8
/-- DST. -/
def coDst (c : Bytes) : Nat := at_ c 0x58 8
/-- RESIDUAL. -/
def coResidual (c : Bytes) : Nat := at_ c 0x60 8
/-- MOVE_COUNT. -/
def coMoves (c : Bytes) : Nat := at_ c 0x6C 4
/-- ARRIVAL_TIMEOUT in ticks. -/
def coTimeout (c : Bytes) : Nat := (if at_ c 0x6A 2 = 0 then 100 else at_ c 0x6A 2) * 10000
/-- Whether the OP is a reduction. -/
def coReduce (c : Bytes) : Bool := decide (coOp c ≤ 1)

/-- Groups of ranks (12 R339). -/
def coQ (r : Nat) : Nat := (r + 31) / 32
/-- Members of group q. -/
def coSize (r q : Nat) : Nat := min 32 (r - 32 * q)
/-- The collector of segment s in group q. -/
def collector (r s q : Nat) : Nat := 32 * q + s % coSize r q
/-- The final unit of a segment. -/
def finalOf (r s : Nat) : Nat := collector r s (coQ r - 1)
/-- The positions of group q. -/
def members (r q : Nat) : List Nat := (List.range (coSize r q)).map (· + 32 * q)

/-- Bytes of an array of n elements of a format: an MXFP4 array is its codes, then its scales. -/
def arrayBytes (fmt n : Nat) : Nat := elemBits fmt * n / 8 + (if isMx fmt then n / 32 else 0)

/-- The sum of the counts below a position. -/
def startOf (counts : List Nat) (s : Nat) : Nat := (counts.take s).foldl (· + ·) 0

/-- Count of a position. -/
def countOf (counts : List Nat) (s : Nat) : Nat := counts.getD s 0

/-- An entry of a move list. -/
structure Move where
  dest : Nat
  bytes : Nat
  src : Nat
  win : Nat

/-- The move list of a PERMUTE.
(Log: DEDUCED, unsafe, entry 59.) -/
def movesOf : Nat → Bytes → List Move
  | 0, _ => []
  | n + 1, b => { dest := at_ b 0 2, bytes := at_ b 4 4, src := at_ b 8 8, win := at_ b 0x10 8 } :: movesOf n (b.drop 32)

/-- Whether a move-list entry is in form. -/
def moveOk (r : Nat) (b : Bytes) : Bool :=
  decide (at_ b 0 2 < r ∧ at_ b 2 2 = 0 ∧ 1 ≤ at_ b 4 4 ∧ at_ b 0x18 8 = 0)

/-! ### The staging layout (12 R345, R349) -/

/-- A region of a window: whose contribution to which segment, a partial, a result, or a rank's part of an exchange. -/
inductive CoRegion where
  | contrib (s m : Nat)
  | partialSum (s : Nat)
  | result (s : Nat)
  | part (from_ : Nat)
deriving DecidableEq, Repr

/-- A region placed in a window. -/
structure Placed where
  region : CoRegion
  off : Nat
  len : Nat
deriving DecidableEq, Repr

/-- Place regions one after another, each at the next 4 KiB boundary, from `off`. -/
def placeRegions (off : Nat) : List (CoRegion × Nat) → List Placed
  | [] => []
  | (r, n) :: rest => { region := r, off := off, len := n } :: placeRegions ((off + n + 4095) / 4096 * 4096) rest

/-- staging_layout of 12 R345 for rank p of a reduction, without its arrival map. -/
def stagingLayout (c : Bytes) (counts : List Nat) (p : Nat) : List Placed :=
  let r := coR c
  let q := p / 32
  let mine := (List.range r).filter (fun s => decide (collector r s q = p))
  let ins := mine.flatMap (fun s => ((members r q).filter (fun m => decide (m ≠ p))).map (fun m =>
    (CoRegion.contrib s m, arrayBytes (coInFmt c) (countOf counts s))))
  let parts := if q = 0 then [] else mine.map (fun s => (CoRegion.partialSum s, arrayBytes (coAccFmt c) (countOf counts s)))
  let outs := ((List.range r).filter (fun s => decide (finalOf r s ≠ p ∧ (coOp c = 0 ∨ s = p)))).map (fun s =>
    (CoRegion.result s, arrayBytes (coOutFmt c) (countOf counts s)))
  placeRegions 0 (ins ++ parts ++ outs)

/-- The parts of an exchange's window that arrive from other ranks (12 R349). -/
def exchangeLayout (c : Bytes) (k : Coll) : List Placed :=
  let r := coR c
  let me := coSelf c
  match coOp c with
  | 2 => ((List.range r).filter (· != me)).map (fun s =>
      { region := .part s, off := startOf k.counts s, len := countOf k.counts s })
  | 3 =>
    let recv := indices r k.aux
    ((List.range r).filter (· != me)).map (fun s => { region := .part s, off := startOf recv s, len := countOf recv s })
  | 5 => if me = coRoot c then [] else [{ region := .part (coRoot c), off := 0, len := countOf k.counts (coRoot c) }]
  | _ => [{ region := .part 0, off := 0, len := at_ c 0x70 8 }]

/-- The layout of the issuing rank's window. -/
def layoutOf (c : Bytes) (k : Coll) : List Placed := if coReduce c then stagingLayout c k.counts (coSelf c) else exchangeLayout c k

/-- The bytes of a window before its arrival map: a reduction's staging layout (12 R345), of an exchange the bytes it receives
(R349).
(Log: DESIGN CHOICE, unsafe, entry 127.) -/
def mapAt (c : Bytes) (k : Coll) : Nat :=
  if coReduce c then ((layoutOf c k).getLast?.map (fun x => (x.off + x.len + 4095) / 4096 * 4096)).getD 0
  else
    match coOp c with
      | 2 => startOf k.counts (coR c)
      | 3 => startOf (indices (coR c) k.aux) (coR c)
      | 5 => countOf k.counts (coRoot c)
      | _ => at_ c 0x70 8

/-- Bytes of an arrival map that begins at an offset. -/
def mapBytes (off : Nat) : Nat := ((off + 4095) / 4096 + 511) / 512 * 64

/-- Where the arrival map of a window of `size` bytes begins: a reduction's at the end of its staging layout (12 R345), an
exchange's right after the bytes received, a PERMUTE's, whose moves may land anywhere (R354), at the end of the window.
(Log: DESIGN CHOICE, unsafe, entry 127.) -/
def mapPlace (size : Nat) (c : Bytes) (k : Coll) : Nat :=
  if coOp c = 4 then size - mapBytes (mapAt c k) else mapAt c k

/-- Whether a region has arrived: a PERMUTE's when RECV_BYTES have (12 R349). -/
def Part.regionArrived (P : Part) (c : Bytes) (x : Placed) : Bool :=
  if coOp c = 4 then decide (x.len ≤ P.arrivedBytes (coWindow c)) else P.hasArrived (coWindow c) x.off x.len

/-- The arrival map, for the window bytes before `m` (12 R346): the bit of each 4 KiB unit whose region bytes are all there. -/
def Part.mapOf (P : Part) (c : Bytes) (k : Coll) (m : Nat) : Bytes :=
  let l := layoutOf c k
  let bitOf (u : Nat) : Bool :=
    if coReduce c then l.any (fun x => decide (x.off / 4096 ≤ u ∧ u * 4096 < x.off + x.len) &&
      P.hasArrived (coWindow c) (u * 4096) (min 4096 (x.off + x.len - u * 4096)))
    else P.hasArrived (coWindow c) (u * 4096) (min 4096 (m - u * 4096))
  (List.range (mapBytes (mapAt c k))).map (fun i => BitVec.ofNat 8 ((List.range 8).foldl (fun n b =>
    n + (if 8 * i + b < (m + 4095) / 4096 ∧ bitOf (8 * i + b) = true then 2 ^ b else 0)) 0))

/-- Write the arrival map of a command into its window; a byte that has arrived is never written again (12 R349).
(Log: DESIGN CHOICE, unsafe, entry 127.) -/
def State.writeMap (s : State) (p : Fin 4) (c : Bytes) (k : Coll) : State :=
  match (s.part p).window (coWindow c) with
  | none => s
  | some w =>
    let m := mapPlace w.size c k
    let b := (s.part p).mapOf c k m
    if coOp c = 4 ∧ sget [] (s.part p).arrivals (coWindow c) ≠ [] then
      (b.mapIdx (fun i x => (m + i, x))).foldl (fun s (y : Nat × Byte) =>
        if (s.part p).hasArrived (coWindow c) y.1 1 then s else s.windowWrite w y.1 [y.2]) s
    else s.windowWrite w m b

/-- Keep the maps of the started collectives that name a window in step with its arrivals. -/
def State.refreshMaps (s : State) (p : Fin 4) (window : Nat) : State :=
  (s.part p).queues.foldl (fun s q => q.2.entries.foldl (fun s e =>
    match e.coll with
    | some k => if e.phase ≠ .waiting ∧ coWindow e.cmd = window then s.writeMap p e.cmd k else s
    | none => s) s) s

/-- Clear a window's arrivals and the map in it (12 R346). -/
def State.clearArrivals (s : State) (p : Fin 4) (c : Bytes) (k : Coll) : State :=
  (s.modPart p (fun P => { P with arrivals := serase P.arrivals (coWindow c) })).writeMap p c k

/-! ### What each rank sends (12 R344, R349) -/

/-- Where another rank's window takes a region of a reduction. -/
def regionAt (c : Bytes) (counts : List Nat) (p : Nat) (r : CoRegion) : Nat :=
  (((stagingLayout c counts p).find? (fun x => x.region = r)).map (·.off)).getD 0

/-- The ranks that take the result of segment s from rank p (12 R344). -/
def resultTo (c : Bytes) (s p : Nat) : List Nat :=
  let r := coR c
  let last := coQ r - 1
  if coOp c = 1 then (if finalOf r s = p ∧ s ≠ p then [s] else [])
  else if finalOf r s = p then
    (List.range last).map (fun q => collector r s q) ++ (members r last).filter (fun m => decide (m ≠ p))
  else if collector r s (p / 32) = p then (members r (p / 32)).filter (fun m => decide (m ≠ p))
  else []

/-- The destination positions to which a command's part sends bytes.
(Log: DEDUCED, unsafe, entry 59.) -/
def sendsTo (c : Bytes) (k : Coll) : List Nat :=
  let r := coR c
  let me := coSelf c
  match coOp c with
  | 0 | 1 => ((List.range r).filter (fun s => decide (0 < countOf k.counts s))).flatMap (fun s =>
      let col := collector r s (me / 32)
      (if col = me then (if me / 32 + 1 < coQ r then [collector r s (me / 32 + 1)] else []) else [col]) ++ resultTo c s me)
  | 2 => if countOf k.counts me = 0 then [] else (List.range r).filter (fun d => decide (d ≠ me))
  | 3 => (List.range r).filter (fun d => decide (d ≠ me ∧ 0 < countOf k.counts d))
  | 4 => ((movesOf (coMoves c) k.aux).map (·.dest)).filter (fun d => decide (d ≠ me))
  | _ =>
    if countOf k.counts (coRoot c) = 0 then []
    else
      let heads := (List.range (coQ r)).map (fun q => 32 * q + coRoot c % coSize r q)
      (if me = coRoot c then heads.filter (fun d => decide (d ≠ me)) else []) ++
        (if heads.contains me then (members r (me / 32)).filter (fun d => decide (d ≠ me)) else [])

/-! ### Checks (12 R341, R342, R351; 09 R266) -/

/-- Formats of a reduction (12 Table 12.2). -/
def coFormatsOk (c : Bytes) : Bool :=
  if coSrcFmt c = 1 then decide (coInFmt c = 1 ∧ coAccFmt c = 1 ∧ coOutFmt c = 1) && !coFlag c 1
  else
    decide (coSrcFmt c = 2 ∨ coSrcFmt c = 3) &&
      (decide (coInFmt c = 2 ∨ coInFmt c = 3) && !coFlag c 1 || decide (coInFmt c = 0x0C) && coFlag c 1) &&
      decide (coAccFmt c = 2) && decide (coOutFmt c = 2 ∨ coOutFmt c = 3 ∨ coOutFmt c = 0x0C)

/-- The field checks of COLLECTIVE that need no table. -/
def coFieldsOk (c : Bytes) : Bool :=
  let op := coOp c
  let red := coReduce c
  decide (op ≤ 5 ∧ at_ c 0x21 1 < 8 ∧ at_ c 0x28 1 < 32 ∧ at_ c 0x29 1 = 0 ∧ coR c ≤ 16384 ∧ coSelf c < coR c) &&
    zeroAt c 0x78 8 && decide (at_ c 0x26 2 ≤ 512) &&
    (if op = 5 then decide (coRoot c < coR c) else decide (coRoot c = 0)) &&
    (if red then coFormatsOk c
     else zeroAt c 0x22 6 && zeroAt c 0x30 8 && zeroAt c 0x58 16 && !coFlag c 0 && !coFlag c 1) &&
    (if op = 4 then decide (at_ c 0x40 8 = 0) else !coFlag c 2 && decide (coMoves c = 0) && zeroAt c 0x70 8) &&
    (decide (op = 3 ∨ op = 4) || decide (at_ c 0x48 8 = 0)) &&
    (coFlag c 1 || decide (coResidual c = 0))

/-- The tables a COLLECTIVE names: rank table, count table, auxiliary table. -/
def coTables (c : Bytes) : List Rng :=
  let rng (a n : Nat) : Rng := { va := (a : Int), len := n, write := false }
  let op := coOp c
  rng (at_ c 0x38 8) (2 * coR c) :: (if op = 4 then [] else [rng (at_ c 0x40 8) (4 * coR c)]) ++
    (if op = 3 then [rng (at_ c 0x48 8) (4 * coR c)] else if op = 4 then [rng (at_ c 0x48 8) (32 * coMoves c)] else [])

/-- The tables as read. -/
def State.readColl (s : State) (c : Bytes) (xs : List Xlat) : Coll :=
  let op := coOp c
  { ranks := words16 (coR c) (s.readVa xs (at_ c 0x38 8) (2 * coR c)),
    counts := if op = 4 then [] else indices (coR c) (s.readVa xs (at_ c 0x40 8) (4 * coR c)),
    aux := if op = 3 then s.readVa xs (at_ c 0x48 8) (4 * coR c)
      else if op = 4 then s.readVa xs (at_ c 0x48 8) (32 * coMoves c) else [],
    enc := [], circuits := false, opened := false, regionsDone := [], startTick := 0 }

/-- Elements of a reduction. -/
def coN (c : Bytes) (k : Coll) : Nat := startOf k.counts (coR c)

/-- The bytes of a command's local input. -/
def coSrcRanges (c : Bytes) (k : Coll) : List (Nat × Nat) :=
  match coOp c with
  | 0 | 1 => [(coSrc c, arrayBytes (coSrcFmt c) (coN c k))]
  | 2 => [(coSrc c, countOf k.counts (coSelf c))]
  | 3 => [(coSrc c, startOf k.counts (coR c))]
  | 4 => (movesOf (coMoves c) k.aux).map (fun m => (coSrc c + m.src, m.bytes))
  | _ => if coSelf c = coRoot c then [(coSrc c, countOf k.counts (coRoot c))] else []

/-- Elements of a reduction's local output. -/
def coOutN (c : Bytes) (k : Coll) : Nat := if coOp c = 0 then coN c k else countOf k.counts (coSelf c)

/-- The bytes of a reduction's local output. -/
def coDstRange (c : Bytes) (k : Coll) : Nat × Nat := if coReduce c then (coDst c, arrayBytes (coOutFmt c) (coOutN c k)) else (0, 0)

/-- The bytes of the residual region that a command uses.
(Log: DEDUCED, unsafe, entry 56.) -/
def coResRange (c : Bytes) (k : Coll) : Nat × Nat := if coFlag c 1 then (coResidual c + 2 * coBase c, 2 * coN c k) else (0, 0)

/-- Whether two byte ranges share a byte. -/
def rangesMeet (a b : Nat × Nat) : Bool := decide (0 < a.2 ∧ 0 < b.2 ∧ a.1 < b.1 + b.2 ∧ b.1 < a.1 + a.2)

/-- The bucket limits of 09 R266 on a reduction's source: the bucket that holds it begins ELEM_BASE elements before.
(Log: DEDUCED, unsafe, entry 55.) -/
def bucketOk (c : Bytes) (k : Coll) : Bool :=
  let z := elemBits (coSrcFmt c) / 8
  let n := coN c k * z
  decide (coBase c * z ≤ coSrc c ∧ (coSrc c - coBase c * z) % 65536 = 0 ∧ 64 ≤ n ∧ n % 64 = 0 ∧
    coBase c * z + n ≤ 2 ^ 28)

/-- The checks of the tables and the window (12 R342, R354).
(Log: DEDUCED, unsafe, entry 55.) -/
def State.collTablesOk (s : State) (p : Fin 4) (c : Bytes) (k : Coll) : Bool :=
  let P := s.part p
  let mx := decide (coInFmt c = 0x0C ∨ coOutFmt c = 0x0C)
  let src := coSrcRanges c k
  k.ranks.all (fun x => decide (x < 2 ^ 14)) && decide (k.ranks.eraseDups.length = k.ranks.length) &&
    decide (P.endpoint = some (k.ranks.getD (coSelf c) 0)) &&
    (!mx || decide (coBase c % 32 = 0) && k.counts.all (fun n => decide (n % 32 = 0))) &&
    (!coReduce c || bucketOk c k &&
      (let a := (coSrc c, arrayBytes (coSrcFmt c) (coN c k))
       let b := coDstRange c k
       if coDst c = coSrc c then decide (coOutFmt c = coSrcFmt c) else !rangesMeet a b)) &&
    (decide (coOp c ≠ 4) || (List.range (coMoves c)).all (fun i => moveOk (coR c) ((k.aux.drop (32 * i)).take 32))) &&
    (match P.window (coWindow c) with
     | none => false
     | some w =>
       decide (mapAt c k + mapBytes (mapAt c k) ≤ w.size) && (coUniform c || decide (w.size ≤ 2 ^ 32)) &&
         (!coFlag c 2 || !src.any (rangesMeet (w.base, w.size))))

/-- The owner of a plan. -/
def Fab.owner (f : Fab) (plan : Nat) : Nat := fld f.planOwner.toNat (2 * plan) 2

/-- The state of a plan (11 Table 11.17). -/
def Fab.plan (f : Fab) (plan : Nat) : PlanState :=
  match sget 0 f.planState plan with
  | 0 => .empty
  | 1 => .ready
  | 2 => .active
  | _ => .fault

/-- Set the state of a plan. -/
def Fab.setPlan (f : Fab) (plan : Nat) (st : PlanState) : Fab :=
  { f with planState := sset 0 f.planState plan (match st with | .empty => 0 | .ready => 1 | .active => 2 | .fault => 3) }

/-- The ACTIVE plan of a partition. -/
def Fab.activePlan (f : Fab) (p : Fin 4) : Option Nat :=
  (List.range 16).find? (fun n => decide (f.owner n = p.val ∧ f.plan n = .active))

/-- The ranges a COLLECTIVE can reach. -/
def coRanges (c : Bytes) (k : Coll) : List Rng :=
  let w (write : Bool) (x : Nat × Nat) : Rng := { va := (x.1 : Int), len := x.2, write := write }
  coTables c ++ (coSrcRanges c k).map (w false) ++ [w true (coDstRange c k), w false (coResRange c k), w true (coResRange c k)]

/-- The checks of COLLECTIVE that need no table (02 R39, stage 1): the fields, the window there is, and what of the bucket,
block and output rules the descriptor alone shows. -/
def Part.collPlain (P : Part) (c : Bytes) : Bool :=
  let z := elemBits (coSrcFmt c) / 8
  coFieldsOk c &&
    (decide (coInFmt c ≠ 0x0C ∧ coOutFmt c ≠ 0x0C) || decide (coBase c % 32 = 0)) &&
    (!coReduce c || decide (coBase c * z ≤ coSrc c ∧ (coSrc c - coBase c * z) % 65536 = 0) &&
      (decide (coDst c ≠ coSrc c) || decide (coOutFmt c = coSrcFmt c))) &&
    (match P.window (coWindow c) with
     | none => false
     | some w => (coUniform c || decide (w.size ≤ 2 ^ 32)) &&
         (decide (coOp c ≠ 4) || decide (at_ c 0x70 8 + mapBytes (at_ c 0x70 8) ≤ w.size)))

/-- The checks of COLLECTIVE: fields, the tables read through their own translation, plan, endpoints and permissions,
and every range (02 R39; 12 R342, R351).
(Log: DEDUCED, unsafe, entry 60; DEDUCED, unsafe, entry 61.) -/
def State.collCheck (s : State) (p : Fin 4) (e : Entry) : Except Status (List Xlat × List Rng × Coll) :=
  let c := e.cmd
  if !(s.part p).collPlain c then .error .invalid
  else
    match s.translate p (coTables c) with
    | none => .error .isolation
    | some tx =>
      let k := s.readColl c tx
      if !s.collTablesOk p c k then .error .invalid
      else
        let P := s.part p
        let others := k.ranks.filter (fun x => some x != P.endpoint)
        if !coUniform c && decide (s.fab.owner (coPlan c) ≠ p.val) then .error .isolation
        else if !others.all P.maySend || (!P.flowEnable && !(sendsTo c k).isEmpty) then .error .isolation
        else
          match s.translate p (coRanges c k) with
          | none => .error .isolation
          | some xs => .ok (xs, coRanges c k, k)

/-! ### Contributions, sums and outputs (12 R342, R344; 03 R103, R105; 05 R163, R164) -/

/-- The format of a code as a floating format. -/
def fmtOf (d : Nat) : FFmt := (elemFmt d).getD .fp32

/-- The values of an array of n elements in a format. -/
def arrayVals (fmt n : Nat) (b : Bytes) : List Val :=
  let sc := b.drop (elemBits fmt * n / 8)
  (List.range n).map (fun i =>
    let v := codeVal fmt [] (packedCode (elemBits fmt) b i)
    if isMx fmt then scaled v (sc.getD (i / 32) 0).toNat else v)

/-- COLUMN of command element i (04 Table 4.12): its index within the command's output, which for REDUCE_SCATTER holds one
segment (12 R344).
(Log: DESIGN CHOICE, unsafe, entry 126.) -/
def coColumn (c : Bytes) (counts : List Nat) (i : Nat) : Nat :=
  if coOp c = 1 then
    i - (((List.range (coR c)).find? (fun s => decide (i < startOf counts s + countOf counts s))).map (startOf counts)).getD 0
  else i

/-- Occurrences at command elements, with their columns in the command's output. -/
def coColumns (c : Bytes) (counts : List Nat) (xs : List Exc) : List Exc :=
  xs.map (fun x => { x with col := coColumn c counts x.col })

/-- An occurrence at command element i of a collective. -/
def coExc (tick i chunk fmtA fmtOut : Nat) (e : Evt) : Exc :=
  { e.exc 0 0 0 i tick fmtA 0 fmtOut with chunk := chunk }

/-- ef_encode over the elements of a command (05 R163): the contribution's bytes, the residual's, and the
occurrences of R117, the only ones the rule counts.
(Log: DEDUCED, unsafe, entry 56.) -/
def efEncode (c : Bytes) (tick n : Nat) (g r : Bytes) : Bytes × Bytes × List Exc :=
  let gv := arrayVals (coSrcFmt c) n g
  let rv := arrayVals 3 n r
  let v := (List.range n).map (fun i => (addF .fp32 (gv.getD i (.zero false)) (rv.getD i (.zero false))).1)
  let blocks := (chunks32 n v).map (fun l =>
    let s := localScale 0x0C [] (amaxOf l)
    let (codes, s', ev) := encodeBlock 0x0C s l (FFmt.encode .fp32) (fun _ => none)
    let res := (List.range l.length).map (fun i =>
      if s' = 0xFF then 0
      else
        let q := scaled (codeVal 0x0C [] (codes.getD i 0)) s'
        (convert .bf16 (addF .fp64 (l.getD i .nan) q.neg).1 0 none).code)
    (codes, s', ev, res))
  let ex := (blocks.mapIdx (fun b x => x.2.2.1.map (fun (y : Nat × Evt) =>
    coExc tick (32 * b + y.1) 0xFFFFFFFF 2 0x0C y.2))).flatten
  (packCodes 4 (blocks.flatMap (·.1)) ++ blocks.map (fun x => BitVec.ofNat 8 x.2.1), packCodes 16 (blocks.flatMap (·.2.2.2)),
    ex)

/-- A rank's own contribution to a segment, with its occurrences: converted from SRC, or the part encoded with error
feedback. -/
def State.ownContrib (s : State) (e : Entry) (k : Coll) (seg : Nat) : Bytes × List Exc :=
  let c := e.cmd
  let st := startOf k.counts seg
  let n := countOf k.counts seg
  if coFlag c 1 then
    let total := coN c k
    ((k.enc.drop (st / 2)).take (n / 2) ++ (k.enc.drop (total / 2 + st / 32)).take (n / 32), [])
  else
    let z := elemBits (coSrcFmt c) / 8
    let b := s.readVa e.xlats (coSrc c + st * z) (n * z)
    if coSrcFmt c = coInFmt c then (b, [])
    else
      let conv := (arrayVals (coSrcFmt c) n b).mapIdx (fun i v =>
        convert (fmtOf (coInFmt c)) v (packedCode (8 * z) b i) none)
      (packCodes (elemBits (coInFmt c)) (conv.map (·.code)),
        (conv.mapIdx (fun i x => x.evts.map (coExc s.tick (st + i) 0xFFFFFFFF (coSrcFmt c) (coInFmt c)))).flatten)

/-- One element's group sum and combination (03 R103, R105). -/
def groupStep (c : Bytes) (seed : W64) (tick q i : Nat) (acc : Val) (xs : List Val) : Val × List Exc :=
  let f := fmtOf (coAccFmt c)
  let (g, bad) := chunkSum (some (fmtOf (coInFmt c)).window) xs
  let th := if at_ c 0x26 2 = 0 then 1 else at_ c 0x26 2
  let word := if coFlag c 0 && decide (th ≤ q + 1) then some (rankWord seed (at_ c 0x30 4) (coBase c + i) q) else none
  let (v, ev) := combine f acc g word
  (v, (if bad then [coExc tick i q (coInFmt c) (coAccFmt c) (Evt.plain 2 0 0)] else []) ++
    ev.map (coExc tick i q (coInFmt c) (coAccFmt c)))

/-- The output array of a segment from its accumulators, with its occurrences (12 R342; 05 R164). -/
def outArray (c : Bytes) (seed : W64) (tick st : Nat) (vals : List Val) : Bytes × List Exc :=
  let fmt := coOutFmt c
  let sc (b : Nat) : Nat := localScale fmt [] (amaxOf ((vals.drop (32 * b)).take 32))
  let word (i : Nat) : Option Nat :=
    if isMx fmt then
      some (philox (seed.toNat % 2 ^ 32) (seed.toNat / 2 ^ 32) (at_ c 0x30 4) ((coBase c + st + i) % 2 ^ 32) 1 (2 ^ 28)).1
    else none
  let (codes, scs, ev) := encodeRow fmt vals sc (FFmt.encode (fmtOf (coAccFmt c))) word
  (packCodes (elemBits fmt) codes ++ scs.map (fun x => BitVec.ofNat 8 x),
    ev.map (fun (x : Nat × Evt) => coExc tick (st + x.1) 0xFFFFFFFF (coAccFmt c) fmt x.2))

/-! ### Sending (12 R346, R350; 11 R319, R326) -/

/-- The circuit of a plan whose source entry names a partition and a destination. -/
def Fab.circuitTo (f : Fab) (p : Fin 4) (plan dest : Nat) : Option Nat :=
  (f.circuits.find? (fun x =>
    let e := x.2.toNat
    decide (fld e 0 2 = 1 ∧ fld e 8 2 = p.val ∧ fld e 64 14 = dest) && bit (fld e 16 16) plan)).map (·.1)

/-- A collective sends bytes to a rank's window, on a circuit of its plan or on VC 4; once ENABLE is cleared it sends
nothing further and fails (11 R319).
(Log: DEDUCED, unsafe, entry 73.) -/
def State.collSend (s : State) (c : Cid) (pos off : Nat) (b : Bytes) : State :=
  match s.entry c with
  | none => s
  | some e =>
    match e.coll with
    | none => s
    | some k =>
      let P := s.part c.p
      if e.phase ≠ .running ∨ b = [] then s
      else if !P.flowEnable then s.failSend (some c) .isolation
      else
        let dest := k.ranks.getD pos 0
        let path := if k.circuits then s.fab.circuitTo c.p (coPlan e.cmd) dest else none
        (cutWrites (b.length / 8192 + 2) off b).foldl (fun s w =>
          match path with
          | some id => s.sendCircuit c.p (some c) P.openEpoch 0x06 id w.1 w.2
          | none => s.sendAddressed c.p (some c) P.openEpoch 0x03 dest 4 (coWindow e.cmd) w.1 (at_ e.cmd 0x30 4) w.2) s

/-- Writes of a collective to DST, which are in place when DST equals SRC (13 R361). -/
def collDue (c : Bytes) (l : List (Nat × Bytes)) : List (Bool × Nat × Bytes) := l.map (fun x => (decide (coDst c = coSrc c), x))

/-- The writes of a segment's result to DST. -/
def dstWrites (c : Bytes) (k : Coll) (seg : Nat) (out : Bytes) : List (Nat × Bytes) :=
  let fmt := coOutFmt c
  let st := if coOp c = 0 then startOf k.counts seg else 0
  let n := countOf k.counts seg
  let codes := elemBits fmt * n / 8
  (coDst c + elemBits fmt * st / 8, out.take codes) ::
    (if isMx fmt then [(coDst c + elemBits fmt * coOutN c k / 8 + st / 32, out.drop codes)] else [])

/-- The result of a segment goes to the ranks that take it from this one. -/
def State.sendResult (s : State) (c : Cid) (cmd : Bytes) (k : Coll) (seg : Nat) (out : Bytes) : State :=
  (resultTo cmd seg (coSelf cmd)).foldl (fun s d => s.collSend c d (regionAt cmd k.counts d (.result seg)) out) s

/-- Whether this rank writes the result of a segment to its DST. -/
def takesResult (c : Bytes) (seg : Nat) : Bool := decide (coOp c = 0 ∨ seg = coSelf c)

/-! ### Stages -/

/-- Whether a region's arrival has been taken; one without bytes needs none. -/
def Coll.taken (k : Coll) (l : List Placed) (r : CoRegion) : Bool :=
  match l.findIdx? (fun x => x.region = r) with
  | none => true
  | some i => k.regionsDone.contains i || decide ((l.getD i { region := r, off := 0, len := 0 }).len = 0)

/-- Bytes of a region in the command's window. -/
def State.regionBytes (s : State) (p : Fin 4) (c : Bytes) (l : List Placed) (r : CoRegion) : Bytes :=
  match l.find? (fun x => x.region = r), (s.part p).window (coWindow c) with
  | some x, some w => s.readVa w.xlats (w.base + x.off) x.len
  | _, _ => []

/-- What forming segment `seg` at this rank gives: the accumulators and the occurrences (12 R344). -/
def State.formSegment (s : State) (c : Cid) (e : Entry) (k : Coll) (seg : Nat) : List Val × List Exc :=
  let cmd := e.cmd
  let l := layoutOf cmd k
  let me := coSelf cmd
  let q := me / 32
  let n := countOf k.counts seg
  let (own, e0) := s.ownContrib e k seg
  let xs := (members (coR cmd) q).map (fun m =>
    arrayVals (coInFmt cmd) n (if m = me then own else s.regionBytes c.p cmd l (.contrib seg m)))
  let prev := if q = 0 then [] else arrayVals (coAccFmt cmd) n (s.regionBytes c.p cmd l (.partialSum seg))
  let st := startOf k.counts seg
  let seed := ((s.part c.p).group (groupOf c.q)).seed
  let res := (List.range n).map (fun i =>
    groupStep cmd seed s.tick q (st + i) (if q = 0 then .zero true else prev.getD i .nan) (xs.map (fun l => l.getD i .nan)))
  (res.map (·.1), e0 ++ res.flatMap (·.2))

/-- Whether this rank collects segment `seg` and every input of it has been taken. -/
def formable (cmd : Bytes) (k : Coll) (seg : Nat) : Bool :=
  let l := layoutOf cmd k
  let me := coSelf cmd
  decide (collector (coR cmd) seg (me / 32) = me) &&
    (members (coR cmd) (me / 32)).all (fun m => decide (m = me) || k.taken l (.contrib seg m)) &&
    (decide (me / 32 = 0) || k.taken l (.partialSum seg))

/-- A stage of a collective: what it writes, sends and counts. -/
structure Stage where
  writes : List (Nat × Bytes)
  sends : List (Nat × Nat × Bytes)
  excs : List Exc

/-- The stage that forms a segment: its partial goes on to the next group, or its result is written and sent out. -/
def State.segmentStage (s : State) (c : Cid) (e : Entry) (k : Coll) (seg : Nat) : Stage :=
  let cmd := e.cmd
  let me := coSelf cmd
  let (vals, ex) := s.formSegment c e k seg
  if me / 32 + 1 < coQ (coR cmd) then
    let d := collector (coR cmd) seg (me / 32 + 1)
    { writes := [], excs := coColumns cmd k.counts ex,
      sends := [(d, regionAt cmd k.counts d (.partialSum seg),
        packCodes (elemBits (coAccFmt cmd)) (vals.map (fmtOf (coAccFmt cmd)).encode))] }
  else
    let seed := ((s.part c.p).group (groupOf c.q)).seed
    let (out, ex') := outArray cmd seed s.tick (startOf k.counts seg) vals
    { writes := if takesResult cmd seg then dstWrites cmd k seg out else [],
      excs := coColumns cmd k.counts (ex ++ ex'),
      sends := (resultTo cmd seg me).map (fun d => (d, regionAt cmd k.counts d (.result seg), out)) }

/-- The stage that a region's arrival allows, with the region taken into `k`. -/
def State.regionStage (s : State) (c : Cid) (e : Entry) (k : Coll) (r : CoRegion) : Stage :=
  let cmd := e.cmd
  let l := layoutOf cmd k
  let me := coSelf cmd
  match r with
  | .contrib seg _ | .partialSum seg =>
    if formable cmd k seg then s.segmentStage c e k seg else { writes := [], sends := [], excs := [] }
  | .result seg =>
    let out := s.regionBytes c.p cmd l r
    { writes := dstWrites cmd k seg out, excs := [],
      sends := (resultTo cmd seg me).map (fun d => (d, regionAt cmd k.counts d (.result seg), out)) }
  | .part _ =>
    if coOp cmd = 5 then
      let out := s.regionBytes c.p cmd l r
      { writes := [], excs := [],
        sends := ((sendsTo cmd k).filter (fun d => decide (d / 32 = me / 32))).map (fun d => (d, 0, out)) }
    else { writes := [], sends := [], excs := [] }

/-- The occurrences that element `i` of a received array can have had in groups `lo` to `hi` - 1 of its rank chain, and of a
result (`out`) at its conversion (04 R127): only one that is not finite had any. A NaN can come of opposite infinities in a
group's sum (kind 2) or in a combination (kind 3), an infinity or a NaN of a combination that overflowed (kind 5), an infinity
or a NaN block of the conversion (kind 6). No packet says which happened: each is a free choice from `free` on, as are its group
and what of its values the element does not give.
(Log: DESIGN CHOICE, safe, entry 57.) -/
def remoteElem (c : Bytes) (out : Bool) (lo hi tick free i : Nat) (v : Val) : List Exc :=
  let yes (j : Nat) : Bool := Config.freeBool (free + j)
  let w (j : Nat) : Nat := (Config.freeWord (free + j)).toNat
  let f := fmtOf (coAccFmt c)
  let ev (q : Nat) (e : Evt) : Exc := coExc tick i q (coInFmt c) (coAccFmt c) e
  let infinite (nan sign : Bool) : List Exc :=
    let from1 := max lo 1
    let sums := (List.range (hi - lo)).flatMap (fun j => if nan && yes (8 + j) then [ev (lo + j) (Evt.plain 2 0 0)] else [])
    let opposite := if nan && decide (from1 < hi) && yes 1 then
        [ev (from1 + w 2 % (hi - from1)) (Evt.plain 3 (f.encode (.inf (yes 3))) 0)] else []
    let passed := if decide (lo < hi) && yes 4 then
        [ev (lo + w 5 % (hi - lo)) (Evt.plain 5 (w 6 % 2 ^ elemBits (coAccFmt c)) (f.encode (.inf sign)))] else []
    let mx := isMx (coOutFmt c)
    let conv := if out && decide (coOutFmt c ≠ coAccFmt c) && (mx || !nan && passed.isEmpty) && yes 7 then
        [coExc tick i 0xFFFFFFFF (coAccFmt c) (coOutFmt c) (if mx then Evt.plain 6 (f.encode (.inf sign)) 0xFF
          else Evt.plain 6 (w 6 % 2 ^ elemBits (coAccFmt c)) ((fmtOf (coOutFmt c)).encode (.inf sign)))] else []
    sums ++ opposite ++ passed ++ conv
  match v with
  | .nan => infinite true (yes 0)
  | .inf s => infinite false s
  | _ => []

/-- Occurrences that other ranks counted in the elements of a received array of segment `seg` count here too (04 R127).
(Log: DESIGN CHOICE, safe, entry 57.) -/
def State.noteRemote (s : State) (c : Cid) (cmd : Bytes) (k : Coll) (seg : Nat) (out : Bool) (lo hi : Nat) (vals : List Val) : State :=
  let st := startOf k.counts seg
  let xs := (vals.mapIdx (fun i v => remoteElem cmd out lo hi s.tick (s.free + 1024 * i) (st + i) v)).flatten
  { s with free := s.free + 1024 * vals.length }.note c (coColumns cmd k.counts xs)

/-- The occurrences of other ranks that a region's arrival brings: a result's, but for those of the groups whose sums this rank
has formed itself or received before; and with a segment formed here, those of the partial sum it began from.
(Log: DESIGN CHOICE, safe, entry 57.) -/
def State.noteArrival (s : State) (c : Cid) (cmd : Bytes) (k : Coll) (r : CoRegion) : State :=
  let me := coSelf cmd
  let q := me / 32
  let vals (fmt seg : Nat) (r : CoRegion) : List Val :=
    arrayVals fmt (countOf k.counts seg) (s.regionBytes c.p cmd (layoutOf cmd k) r)
  match r with
  | .result seg => s.noteRemote c cmd k seg true (if collector (coR cmd) seg q = me then q + 1 else 0) (coQ (coR cmd))
      (vals (coOutFmt cmd) seg r)
  | .contrib seg _ | .partialSum seg =>
    if formable cmd k seg ∧ 0 < q then s.noteRemote c cmd k seg false 0 q (vals (coAccFmt cmd) seg (.partialSum seg)) else s
  | .part _ => s

/-- Perform a stage: its engine stalls at a write that finds no free shadow block (13 R364). -/
def State.runStage (s : State) (c : Cid) (e : Entry) (g : Stage) : State :=
  let s := s.engineWrite c (e.writer c) e.xlats (collDue e.cmd g.writes)
  (g.sends.foldl (fun s x => s.collSend c x.1 x.2.1 x.2.2) s).note c g.excs

/-- A collective whose regions have all been taken and whose engine has made its writes is done: its finish waits for its
acknowledgements (12 R348). -/
def State.collSettle (s : State) (c : Cid) : State :=
  match s.entry c with
  | none => s
  | some e =>
    match e.coll with
    | none => s
    | some k =>
      if e.phase = .running ∧ k.opened = true ∧ e.owed = [] ∧ (layoutOf e.cmd k).all (fun x => k.taken (layoutOf e.cmd k) x.region) = true then
        s.executed c id
      else s

/-- Change the collective of a command. -/
def State.modColl (s : State) (c : Cid) (f : Coll → Coll) : State := s.modEntry c (fun e => { e with coll := e.coll.map f })

/-- The tables of a partition's collective: as it read them at its acceptance, or as they stand while it waits for that. -/
def State.collOf (s : State) (p : Fin 4) (e : Entry) : Option Coll :=
  match e.coll with
  | some k => some k
  | none =>
    if cmdKind e.cmd = 0x03 ∧ e.phase = .waiting ∧ (s.part p).collPlain e.cmd = true then
      (s.translate p (coTables e.cmd)).map (s.readColl e.cmd)
    else none

/-- The exchanges of kind `op` that the partition of an endpoint in this package has in its queues for a window.
(Log: DEDUCED, safe, entry 58; DEDUCED, unsafe, entry 59.) -/
def State.peersAt (s : State) (dest op window : Nat) : List (Entry × Coll) :=
  (List.finRange 4).flatMap (fun p =>
    if (s.part p).endpoint = some dest then
      (s.part p).queues.flatMap (fun q => q.2.entries.filterMap (fun e =>
        if cmdKind e.cmd = 0x03 ∧ coOp e.cmd = op ∧ coWindow e.cmd = window then (s.collOf p e).map (fun k => (e, k)) else none))
    else [])

/-- Where rank `d`'s window takes this rank's part of an ALL_TO_ALL (12 R349): the sum of the receiver's receive counts below
this rank. A receiver in this package has them in its own command; those of another package no rule brings here, and
software alone keeps them in agreement: a free value of the command and the receiver.
(Log: DEDUCED, unsafe, entry 59.) -/
def State.receiveAt (s : State) (c : Cid) (cmd : Bytes) (k : Coll) (d : Nat) : Nat :=
  let dest := k.ranks.getD d 0
  match (s.peersAt dest 3 (coWindow cmd)).find? (fun x => decide (x.1.phase ≠ .finished)) with
  | some x => startOf (indices (coR x.1.cmd) x.2.aux) (coSelf cmd)
  | none => Config.receiveBase dest (coWindow cmd + 2 ^ 16 * (c.q + 2 ^ 9 * c.n)) (coSelf cmd)

/-- The opening part of an exchange: the rank's own part into its window, and its sends (12 R349).
(Log: DEDUCED, unsafe, entry 59.) -/
def State.openExchange (s : State) (c : Cid) (e : Entry) (k : Coll) : State :=
  let cmd := e.cmd
  let me := coSelf cmd
  let src := coSrc cmd
  let rd (a n : Nat) : Bytes := s.readVa e.xlats a n
  let own (s : State) (off : Nat) (b : Bytes) : State :=
    match (s.part c.p).window (coWindow cmd) with
    | none => s
    | some w => (s.writeVa (e.writer c) w.xlats (w.base + off) b).modPart c.p (fun P => P.arrive (coWindow cmd) off b.length)
  let others := (List.range (coR cmd)).filter (fun d => decide (d ≠ me))
  match coOp cmd with
  | 2 =>
    let b := rd src (countOf k.counts me)
    others.foldl (fun s d => s.collSend c d (startOf k.counts me) b) (own s (startOf k.counts me) b)
  | 3 =>
    let piece (d : Nat) : Bytes := rd (src + startOf k.counts d) (countOf k.counts d)
    let recv := indices (coR cmd) k.aux
    others.foldl (fun s d => s.collSend c d (s.receiveAt c cmd k d) (piece d))
      (own s (startOf recv me) (piece me))
  | 4 => (movesOf (coMoves cmd) k.aux).foldl (fun s m =>
      let b := rd (src + m.src) m.bytes
      if m.dest = me then own s m.win b else s.collSend c m.dest m.win b) s
  | _ =>
    if me = coRoot cmd then
      let b := rd src (countOf k.counts me)
      (sendsTo cmd k).foldl (fun s d => s.collSend c d 0 b) (own s 0 b)
    else s

/-- The opening part of a reduction: the contribution is encoded, parts go to their collectors, and segments without
inputs from others are formed (12 R344). -/
def State.openReduction (s : State) (c : Cid) (e : Entry) (k : Coll) : State :=
  let cmd := e.cmd
  let me := coSelf cmd
  let r := coR cmd
  let n := coN cmd k
  let (enc, res, ex) :=
    if coFlag cmd 1 then
      efEncode cmd s.tick n (s.readVa e.xlats (coSrc cmd) (arrayBytes (coSrcFmt cmd) n))
        (s.readVa e.xlats (coResRange cmd k).1 (2 * n))
    else ([], [], [])
  let k := { k with enc := enc }
  let s := (s.modColl c (fun x => { x with enc := enc })).note c (coColumns cmd k.counts ex)
  let s := if coFlag cmd 1 then s.engineWrite c (e.writer c) e.xlats [(true, (coResRange cmd k).1, res)] else s
  let s := (List.range r).foldl (fun s seg =>
    let col := collector r seg (me / 32)
    if col = me then s
    else
      let (b, ex) := s.ownContrib e k seg
      (s.collSend c col (regionAt cmd k.counts col (.contrib seg me)) b).note c (coColumns cmd k.counts ex)) s
  ((List.range r).filter (formable cmd k)).foldl (fun s seg => s.runStage c e (s.segmentStage c e k seg)) s

/-- The bytes of its own window that an exchange writes in its opening part, as offset and length (12 R349). -/
def ownParts (c : Bytes) (k : Coll) : List (Nat × Nat) :=
  let me := coSelf c
  match coOp c with
  | 0 | 1 => []
  | 2 => [(startOf k.counts me, countOf k.counts me)]
  | 3 => [(startOf (indices (coR c) k.aux) me, countOf k.counts me)]
  | 4 => ((movesOf (coMoves c) k.aux).filter (fun m => decide (m.dest = me))).map (fun m => (m.win, m.bytes))
  | _ => if me = coRoot c then [(0, countOf k.counts me)] else []

/-- Whether the own parts of an exchange find free shadow blocks (13 R364). -/
def State.ownRoom (s : State) (c : Cid) (e : Entry) (k : Coll) : Bool :=
  match (s.part c.p).window (coWindow e.cmd) with
  | none => true
  | some w => s.shadowRoom (e.writer c) w.xlats ((ownParts e.cmd k).map (fun x => (w.base + x.1, x.2)))

/-- The opening part of a started collective: a poisoned source escalates, and an exchange whose own part finds no free
shadow block stalls there (13 R364, R375). -/
def State.collOpen (s : State) (c : Cid) : State :=
  match s.entry c with
  | none => s
  | some e =>
    match e.coll with
    | none => s
    | some k =>
      if e.phase ≠ .running ∨ k.opened = true then s
      else
        match s.poisonReads e.xlats (coSrcRanges e.cmd k ++ [coResRange e.cmd k]) with
        | some sec => s.escalate c sec (sectorVa e.xlats sec)
        | none =>
          if s.ownRoom c e k then
            let s := s.modColl c (fun k => { k with opened := true })
            let s := if coReduce e.cmd then s.openReduction c e k else s.openExchange c e k
            (s.refreshMaps c.p (coWindow e.cmd)).collSettle c
          else s.stallCmd c

/-- A region of a started collective has arrived: its stage runs, unless the engine is stalled (12 R346; 13 R364). -/
def State.collRegion (s : State) (c : Cid) (i : Nat) : State :=
  match s.entry c with
  | none => s
  | some e =>
    match e.coll with
    | none => s
    | some k =>
      let l := layoutOf e.cmd k
      match l[i]? with
      | none => s
      | some x =>
        if e.phase ≠ .running ∨ k.opened = false ∨ e.owed ≠ [] ∨ k.regionsDone.contains i = true ∨ x.len = 0 ∨
            (s.part c.p).regionArrived e.cmd x = false then s
        else
          let wx := ((s.part c.p).window (coWindow e.cmd)).getD { entry := [], xlats := [] }
          match s.poisonReads wx.xlats [(wx.base + x.off, if coReduce e.cmd || decide (coOp e.cmd = 5) then x.len else 0)] with
          | some sec => s.escalate c sec (sectorVa wx.xlats sec)
          | none =>
            let k' := { k with regionsDone := k.regionsDone ++ [i] }
            let g := s.regionStage c e k' x.region
            let s := (s.modColl c (fun _ => k')).runStage c e g
            (s.noteArrival c e.cmd k' x.region).collSettle c

/-- COLLECTIVE_REGION_READY (12 R346). -/
def collectiveRegionReady (c : Cid) (region : Nat) (s : State) : State := s.collRegion c region

/-- A collective starts: on circuits while its plan is ACTIVE, on VC 4 with FALLBACK when the plan is in FAULT; otherwise it
waits, also when its plan is cleared after its acceptance (12 R350 to R352).
(Log: DEDUCED, unsafe, entry 60.) -/
def State.collStart (s : State) (c : Cid) (e : Entry) : State :=
  let st := s.fab.plan (coPlan e.cmd)
  if coUniform e.cmd || decide (st = .active) || decide (st = .fault) then
    let fault := !coUniform e.cmd && decide (st = .fault)
    let s := s.begin c
    let s := s.modEntry c (fun e => { e with
      detail := if fault then e.detail ||| 1 else e.detail,
      coll := e.coll.map (fun k => { k with circuits := !coUniform e.cmd && decide (st = .active), startTick := s.tick }) })
    s.collOpen c
  else s

/-- Whether a head of a collective queue can start on a collective engine: a COLLECTIVE in uniform mode, or whose plan is
ACTIVE or in FAULT (12 R351), or a PLAN_SWITCH. -/
def Fab.collReady (f : Fab) (e : Entry) : Bool :=
  decide (cmdKind e.cmd = 0x04) || (decide (cmdKind e.cmd = 0x03) &&
    (coUniform e.cmd || decide (f.plan (coPlan e.cmd) = .active) || decide (f.plan (coPlan e.cmd) = .fault)))

/-- The row COLLECTIVE (12 R341, R351).
(Log: DEDUCED, safe, entry 39.) -/
def collective (p : Fin 4) (q : Nat) (s : State) : State :=
  s.engineRow p q .collective s.fab.collReady (fun s => s.acceptHead p q 0x03 (fun c e =>
    if e.accepted then s.collStart c e
    else
      match s.collCheck p e with
      | .error st => s.refuse c st
      | .ok (xs, rs, k) =>
        match (s.walkPoison p rs).orElse (fun _ => s.poisonReads xs (readRanges (coTables e.cmd))) with
        | some sec => s.refusePoisoned c sec (sectorVa xs sec)
        | none =>
          let s := (s.accepted c xs rs).modEntry c (fun e => { e with coll := some k })
          match s.entry c with
          | none => s
          | some e => if !coUniform e.cmd && decide (s.fab.plan (coPlan e.cmd) = .empty) then s.refuse c .notReady else s.collStart c e))

/-- Whether all that a rank sends to this one's window by a PERMUTE has arrived, as its move list says; none where no move list of
it is in this package.
(Log: DEDUCED, safe, entry 58.) -/
def State.permuteArrived (s : State) (p : Fin 4) (c : Bytes) (k : Coll) (r : Nat) : Option Bool :=
  match s.peersAt (k.ranks.getD r 0) 4 (coWindow c) with
  | [] => none
  | l => some (l.all (fun x => (movesOf (coMoves x.1.cmd) x.2.aux).all (fun m =>
      decide (m.dest ≠ coSelf c) || (s.part p).hasArrived (coWindow c) m.win m.bytes)))

/-- The lowest rank position whose data has not arrived (12 Table 12.4). A PERMUTE's senders say in their move lists what they
send; of one in another package, whose list no rule brings here, whether it is missing is a free choice.
(Log: DEDUCED, safe, entry 58.) -/
def State.firstMissing (s : State) (p : Fin 4) (c : Bytes) (k : Coll) : Nat :=
  let P := s.part p
  if coOp c = 4 then
    let at' (r : Nat) : Option Bool := s.permuteArrived p c k r
    let first := ((List.range (coR c)).find? (fun r => at' r == some false)).getD (coR c)
    let open' := (List.range first).filter (fun r => at' r == none)
    let could := if first < coR c then open' ++ [first] else open'
    could.getD ((Config.freeWord (2 ^ 80 + k.startTick * 2 ^ 48 + coWindow c)).toNat % could.length) 0
  else
  let who (r : CoRegion) : Nat := match r with
    | .contrib _ m => m
    | .partialSum s => collector (coR c) s (coSelf c / 32 - 1)
    | .result s =>
      if coOp c = 1 ∨ coSelf c / 32 + 1 = coQ (coR c) ∨ collector (coR c) s (coSelf c / 32) = coSelf c then finalOf (coR c) s
      else collector (coR c) s (coSelf c / 32)
    | .part f => f
  let missing := ((layoutOf c k).filter (fun x => !P.regionArrived c x)).map (fun x => who x.region)
  missing.foldl min (coR c)

/-- ARRIVAL_TIMEOUT (12 R348): the command completes as UNRECOVERABLE with MISSING.
(Log: DESIGN CHOICE, safe, entry 62.) -/
def arrivalTimeout (c : Cid) (s : State) : State :=
  match s.entry c with
  | none => s
  | some e =>
    match e.coll with
    | none => s
    | some k =>
      let P := s.part c.p
      if e.phase = .running ∧ (layoutOf e.cmd k).any (fun x => !P.regionArrived e.cmd x) = true then
        let s := s.advance (k.startTick + coTimeout e.cmd)
        let first := s.firstMissing c.p e.cmd k
        (s.failCmd c .unrecoverable).modEntry c (fun e => { e with
          detail := BitVec.ofNat 32 (e.detail.toNat % 2 + 2 + first * 2 ^ 16) })
      else s

/-! ### Plans that use a port (11 R324, R329) -/

/-- The circuits of a plan in increasing id: entries in use whose PLAN_MASK names it. -/
def Fab.planCircuits (f : Fab) (plan : Nat) : List (Nat × Nat) :=
  (f.circuits.map (fun x => (x.1, x.2.toNat))).filter (fun x => decide (ceRole x.2 ≠ 0) && bit (cePlans x.2) plan)

/-- Whether an entry uses a port, to arrive by or to leave by. -/
def ceUses (e port : Nat) : Bool :=
  (decide (ceRole e = 2 ∨ ceRole e = 3) && decide (ceIn e = port)) || (decide (ceRole e = 1 ∨ ceRole e = 2) && decide (ceOut e = port))

/-- Whether a port is LOST, or counts as lost because its Velac die cannot be reached (10 R289; 13 Table 13.8). -/
def State.portGone (s : State) (i : Nat) : Bool := decide ((s.port i).state = .lost) || !s.reachable i

/-- The plan `n` in FAULT, where it is ACTIVE and uses the port.
(Log: DEDUCED, unsafe, entry 81.) -/
def Fab.faultPlan (f : Fab) (port n : Nat) : Fab :=
  if f.plan n = .active ∧ (f.planCircuits n).any (fun x => ceUses x.2 port) = true then f.setPlan n .fault else f

/-- The ACTIVE plans that use a port, in FAULT. -/
def Fab.faultPort (f : Fab) (port : Nat) : Fab := (List.range 16).foldl (fun f n => f.faultPlan port n) f

/-- The plans that are ACTIVE on a port that is gone, in FAULT.
(Log: DEDUCED, unsafe, entry 81.) -/
def State.faultGone (s : State) : State :=
  { s with fab := ((List.range 32).filter s.portGone).foldl Fab.faultPort s.fab }

/-- Started collectives whose plan is in FAULT go on in uniform mode (12 R352). -/
def State.fallBack (s : State) (p : Fin 4) : State :=
  (s.part p).queues.foldl (fun (s : State) (q : Nat × Queue) => q.2.entries.foldl (fun (s : State) (e : Entry) =>
    if e.coll.any (fun k => k.circuits) = true ∧ e.phase = .running ∧ s.fab.plan (coPlan e.cmd) = .fault then
      s.modEntry { p := p, q := q.1, n := e.n } (fun e => { e with
        coll := e.coll.map (fun k => { k with circuits := false }), detail := e.detail ||| 1 })
    else s) s) s

/-! ### PLAN_SWITCH (12 R353; 11 R328) -/

/-- The positions a started collective has still to send to: all while its opening part stands, then what its missing regions
will bring about (12 R344, R349). -/
def Coll.sendsLeft (k : Coll) (c : Bytes) : List Nat :=
  let r := coR c
  let me := coSelf c
  let l := layoutOf c k
  if !k.opened then sendsTo c k
  else if coReduce c then
    (List.range r).flatMap (fun seg =>
      if collector r seg (me / 32) = me ∧ formable c k seg = false then
        (if me / 32 + 1 < coQ r then [collector r seg (me / 32 + 1)] else []) ++ resultTo c seg me
      else if k.taken l (.result seg) then [] else resultTo c seg me)
  else if coOp c = 5 ∧ me ≠ coRoot c ∧ k.taken l (.part (coRoot c)) = false then sendsTo c k
  else []

/-- Whether a started collective of the partition still sends on circuits of the ACTIVE plan (12 R353): it has a packet held at
its source, or will send to a destination that the plan has a circuit to. -/
def State.stillSending (s : State) (p : Fin 4) : Bool :=
  (s.part p).queues.any (fun q => q.2.entries.any (fun e =>
    decide (e.phase = .running) && (match e.coll with
      | some k => k.circuits && ((k.sendsLeft e.cmd).any (fun d => (s.fab.circuitTo p (coPlan e.cmd) (k.ranks.getD d 0)).isSome) ||
          s.fab.held.any (fun h => h.send.any (fun (x : Fin 4 × Option Cid × Nat × Nat) =>
            decide (x.2.1 = some { p := p, q := q.1, n := e.n } ∧ 2 ^ 20 ≤ x.2.2.2))))
      | none => false)))

/-- The plan active now, as DETAIL holds it: 16 for none. -/
def Fab.activeCode (f : Fab) (p : Fin 4) : Nat := (f.activePlan p).getD 16

/-- Make a plan the ACTIVE plan of a partition, or none (11 R328). -/
def Fab.switchTo (f : Fab) (p : Fin 4) (plan : Option Nat) : Fab :=
  let f := match f.activePlan p with | some n => f.setPlan n .ready | none => f
  match plan with
  | some n => f.setPlan n .active
  | none => f

/-- The plan a PLAN_SWITCH names: none when NONE is set. -/
def psPlan (c : Bytes) : Option Nat := if bit (at_ c 0x20 1) 4 then none else some (fld (at_ c 0x20 1) 0 4)

/-- A started PLAN_SWITCH switches once no collective still sends (12 R353).
(Log: DEDUCED, unsafe, entry 40; DEDUCED, unsafe, entry 60.) -/
def State.doSwitch (s : State) (c : Cid) (e : Entry) : State :=
  if s.stillSending c.p then s
  else
    let was := BitVec.ofNat 32 (s.fab.activeCode c.p)
    let ready : Bool := (psPlan e.cmd).all (fun n => decide (s.fab.owner n = c.p.val ∧ s.fab.plan n = .ready))
    if ready then
      ({ s with fab := s.fab.switchTo c.p (psPlan e.cmd) }.releaseHeld).executed c (fun e => { e with detail := was })
    else ((s.refuse c .notReady).modEntry c (fun e => { e with detail := was, startTick := s.tick, endTick := s.tick })).traceCmd c 2

/-- The row PLAN_SWITCH: of another's plan an ISOLATION_FAULT, of a plan not READY a NOT_READY, both changing nothing.
(Log: DEDUCED, safe, entry 39.) -/
def planSwitch (p : Fin 4) (q : Nat) (s : State) : State :=
  match ((s.part p).queue q).entries.find? (fun e => decide (e.phase = .running ∧ cmdKind e.cmd = 0x04)) with
  | some e => s.doSwitch { p := p, q := q, n := e.n } e
  | none =>
    s.engineRow p q .collective s.fab.collReady (fun s => s.acceptHead p q 0x04 (fun c e =>
      let detail (s : State) : State := s.modEntry c (fun e => { e with detail := BitVec.ofNat 32 (s.fab.activeCode p) })
      if !(decide (at_ e.cmd 0x20 1 < 32) && zeroAt e.cmd 0x21 95) then s.refuse c .invalid
      else if (psPlan e.cmd).any (fun n => decide (s.fab.owner n ≠ p.val)) then detail (s.refuse c .isolation)
      else if (psPlan e.cmd).any (fun n => decide (s.fab.plan n ≠ .ready)) then detail (s.refuse c .notReady)
      else ((s.accepted c [] []).begin c).doSwitch c e))

/-- The meaning of COLLECTIVE. -/
def execCollective (p : Fin 4) (q : Nat) (s : State) : Host.Outcome State Fault Refusal := .next (collective p q s)
/-- The meaning of COLLECTIVE_REGION_READY. -/
def execCollectiveRegionReady (c : Cid) (region : Nat) (s : State) : Host.Outcome State Fault Refusal :=
  .next (collectiveRegionReady c region s)
/-- The meaning of ARRIVAL_TIMEOUT. -/
def execArrivalTimeout (c : Cid) (s : State) : Host.Outcome State Fault Refusal := .next (arrivalTimeout c s)
/-- The meaning of PLAN_SWITCH. -/
def execPlanSwitch (p : Fin 4) (q : Nat) (s : State) : Host.Outcome State Fault Refusal := .next (planSwitch p q s)

end Sys2Proof.Machine
end

