-- ==== Sys2Proof/Machine/Dispatcher.lean ====
section
/-! DEFINITION. The dispatcher: which sweep thread is placed on a core, gangs, recompute co-location and the phases of
ordering class S; the rows SWEEP and PLACE_NEXT (02 R55, R63 to R72). -/

namespace Sys2Proof.Machine

/-! ### Streams, ranks and shares (02 R64, Tables 2.13 to 2.15) -/

/-- MIN of a stream, in units of 64. -/
def Part.shareMin (P : Part) (stream : Nat) : Nat := fld P.streamShare.toNat (5 * stream) 5

/-- MAX of a stream, in units of 64. -/
def Part.shareMax (P : Part) (stream : Nat) : Nat :=
  match stream with
  | 0 => fld P.streamShare.toNat 21 5
  | 1 => fld P.streamShare.toNat 26 5
  | 2 => fld P.streamShareHigh.toNat 0 5
  | _ => fld P.streamShareHigh.toNat 5 5

/-! ### Room on a core (02 R47, R63) -/

/-- The resident threads of a partition on a core. -/
def Part.onCore (P : Part) (c : Nat) : List (Nat × Entry × Thread) := P.residents.filter (fun x => x.2.2.core == c)

/-- A context of a core that no resident thread holds: which one a thread takes is a free value.
(Log: DESIGN CHOICE, safe, entry 33.) -/
def Part.freeContext (P : Part) (c free : Nat) : Nat :=
  let used := (P.onCore c).map (fun x => x.2.2.context)
  ((List.range 1024).map (fun k => (free + k) % 1024)).find? (fun k => !used.contains k) |>.getD 0

/-- 2 KiB granules of a program's threads. -/
def progGran (prog : Bytes) : Nat := (at_ prog 4 4 + 2047) / 2048

/-- The program of a command's sweep. -/
def Entry.prog (e : Entry) : Bytes := match e.sweep with | none => [] | some w => w.prog

/-- Contexts that a stream holds on a core: resident(c, s). -/
def Part.streamOn (P : Part) (c stream : Nat) : Nat := ((P.onCore c).filter (fun x => streamOf x.1 == stream)).length

/-- How many more threads of a sweep fit a core (02 R63). -/
def Part.room (P : Part) (c q n : Nat) (cmd prog : Bytes) : Nat :=
  let l := P.onCore c
  let gran := l.foldl (fun k x => k + progGran x.2.1.prog) 0
  let acc := l.foldl (fun k x => k + at_ x.2.1.prog 3 1) 0
  let mine := (l.filter (fun x => x.1 == q && x.2.1.n == n)).length
  let lim := if swLimit cmd = 0 then 1024 else swLimit cmd
  let a := if progGran prog = 0 then 1024 else (768 - gran) / progGran prog
  let b := if at_ prog 3 1 = 0 then 1024 else (16 - acc) / at_ prog 3 1
  min (min (1024 - l.length) (lim - mine)) (min a b)

/-! ### Heads -/

/-- A sweep with threads still to place at the head of a queue: its queue, command and sweep. -/
structure SweepHead where
  q : Nat
  e : Entry
  w : Sweep

/-- The stream of a head. -/
def SweepHead.stream (h : SweepHead) : Nat := streamOf h.q
/-- The group of a head. -/
def SweepHead.group (h : SweepHead) : Nat := groupOf h.q
/-- Whether its program has GANG set. -/
def SweepHead.gang (h : SweepHead) : Bool := bit (at_ h.w.prog 2 1) 0
/-- Whether its program has ROW_ENGINE set. -/
def SweepHead.rowEngine (h : SweepHead) : Bool := bit (at_ h.w.prog 2 1) 1

/-- The accepted sweep at the head of queue q with unplaced threads; a sweep that has started goes on being placed
whatever becomes of its queue (02 R77, 15 R447). -/
def State.sweepHead (s : State) (p : Fin 4) (q : Nat) : Option SweepHead :=
  if engineOf q ≠ .sweep then none
  else
    match ((s.part p).queue q).headEntry with
    | none => none
    | some e =>
      match e.sweep with
      | none => none
      | some w =>
        if e.accepted && decide (w.placed < gridSize e.cmd) &&
            (decide (e.phase = .running) || (decide (e.phase = .waiting) && s.mayStart p q e)) then
          some { q := q, e := e, w := w }
        else none

/-- The heads of every sweep queue. -/
def State.heads (s : State) (p : Fin 4) : List SweepHead := (s.part p).queues.filterMap (fun x => s.sweepHead p x.1)

/-- The bank rule of R70 for a sweep that has not started: an F sweep with the row engine waits for its bank. -/
def SweepHead.bankOk (h : SweepHead) (G : Group) : Bool :=
  !(h.rowEngine && decide (cmdPass h.e.cmd = 0)) || decide (h.e.phase = .running) ||
    (match G.bank (cmdMicro h.e.cmd) with
     | .free => true
     | .held m => decide (m = cmdMicro h.e.cmd))

/-- The phase rule of R72: in class S no thread of the other pass. -/
def SweepHead.phaseOk (h : SweepHead) (G : Group) : Bool :=
  G.overlapped || (if G.phaseB then decide (h.stream ≠ 0) else decide (h.stream ≠ 1))

/-- The core thread t must go to: that of its co-located thread, its home, or none named. -/
def State.needCore (s : State) (p : Fin 4) (h : SweepHead) (t : Nat) : Option (Option Nat) :=
  match h.e.coloc with
  | some (_, cores) => some (s.homeOf p (sget 0 cores t - 1))
  | none => if 2 ≤ swRule h.e.cmd then some (s.homeOf p (homeCore h.e.cmd h.w.coreList t)) else none

/-! ### Gangs (02 R55) -/

/-- Deal n threads from thread t to cores: `order` in turn from place i, skipping cores without room; a thread with a
core of its own goes there. `used` counts what has been dealt.
(Log: DEDUCED, unsafe, entry 37.) -/
def dealGang (order : List Nat) (need : Nat → Option (Option Nat)) (room : Nat → Nat) :
    Nat → Nat → Nat → SMap Nat → Option (List Nat)
  | 0, _, _, _ => some []
  | n + 1, t, i, used =>
    let free (c : Nat) : Bool := decide (sget 0 used c < room c)
    match need t with
    | some none => none
    | some (some c) =>
      if free c then (dealGang order need room n (t + 1) i (sset 0 used c (sget 0 used c + 1))).map (c :: ·) else none
    | none =>
      match (List.range order.length).find? (fun k => free (order.getD ((i + k) % order.length) 0)) with
      | none => none
      | some k =>
        let c := order.getD ((i + k) % order.length) 0
        (dealGang order need room n (t + 1) (i + k + 1) (sset 0 used c (sget 0 used c + 1))).map (c :: ·)

/-- Where the threads of a gang sweep go when all can be resident at once on cores that nothing withholds.
(Log: DEDUCED, unsafe, entry 37.) -/
def State.gangPlan (s : State) (p : Fin 4) (h : SweepHead) (withheld : Nat → Bool) : Option (List Nat) :=
  let P := s.part p
  dealGang (s.placementSet p h.e.cmd h.w.coreList) (s.needCore p h)
    (fun c => if withheld c then 0 else P.room c h.q h.e.n h.e.cmd h.w.prog)
    (gridSize h.e.cmd - h.w.placed) h.w.placed 0 []

/-! ### Readiness (02 R63, R66) -/

/-- Whether the next thread of a head may go to core c, its class rules apart. -/
def State.fitsCore (s : State) (p : Fin 4) (h : SweepHead) (c : Nat) : Bool :=
  let inSet := match s.needCore p h h.w.placed with
    | some x => x == some c
    | none => s.present p c && (decide (swRule h.e.cmd = 0) || bit (swMask h.e.cmd) (c / 320))
  inSet && decide (0 < (s.part p).room c h.q h.e.n h.e.cmd h.w.prog)

/-- Whether a head is ready for some core but for the phase rule. -/
def State.readySomewhere (s : State) (p : Fin 4) (h : SweepHead) : Bool :=
  h.bankOk ((s.part p).group h.group) &&
    (if h.gang then (s.gangPlan p h (fun _ => false)).isSome
     else match s.needCore p h h.w.placed with
       | some none => false
       | some (some c) => s.fitsCore p h c
       | none => (s.placementSet p h.e.cmd h.w.coreList).any (s.fitsCore p h))

/-- The phase of a class S group when none of its pass is resident and the other pass has a ready head (02 R72). -/
def State.nextPhase (s : State) (p : Fin 4) (hs : List SweepHead) (g : Nat) : State :=
  let P := s.part p
  let G := P.group g
  if G.overlapped || !G.created then s
  else
    let cur := if G.phaseB then 1 else 0
    let resident := P.residents.any (fun x => groupOf x.1 == g && streamOf x.1 == cur)
    let ready (st : Nat) : Bool := hs.any (fun h => h.group == g && h.stream == st && s.readySomewhere p h)
    if !resident && ready (1 - cur) && (!ready cur || decide (P.rank (1 - cur) < P.rank cur)) then
      s.modPart p (fun P => P.setGroup g { G with phaseB := !G.phaseB })
    else s

/-- Whether a waiting gang sweep keeps a stream off a core (02 R55).
(Log: DEDUCED, unsafe, entry 37.) -/
def State.gangHolds (s : State) (p : Fin 4) (hs : List SweepHead) (stream c : Nat) : Bool :=
  let P := s.part p
  hs.any (fun h => h.gang && h.bankOk (P.group h.group) && h.phaseOk (P.group h.group) &&
    (s.placementSet p h.e.cmd h.w.coreList).contains c && decide (P.rank h.stream ≤ P.rank stream))

/-- Whether a waiting gang sweep keeps another gang sweep off a core (02 R55): one of better rank, or one of equal rank that
still gathers room; of two that both fit, place_next chooses (R66). -/
def State.gangWithheld (s : State) (p : Fin 4) (hs : List SweepHead) (h : SweepHead) (c : Nat) : Bool :=
  let P := s.part p
  hs.any (fun g => decide (g.q ≠ h.q) && g.gang && g.bankOk (P.group g.group) && g.phaseOk (P.group g.group) &&
    (s.placementSet p g.e.cmd g.w.coreList).contains c &&
    (decide (P.rank g.stream < P.rank h.stream) ||
      decide (P.rank g.stream = P.rank h.stream) && (s.gangPlan p g (fun _ => false)).isNone))

/-- Whether a head is a candidate of place_next on core c.
(Log: DEDUCED, unsafe, entry 37.) -/
def State.candidate (s : State) (p : Fin 4) (hs : List SweepHead) (c : Nat) (h : SweepHead) : Bool :=
  let P := s.part p
  let G := P.group h.group
  h.bankOk G && h.phaseOk G &&
    (if h.gang then (s.placementSet p h.e.cmd h.w.coreList).contains c && !s.gangWithheld p hs h c &&
         (s.gangPlan p h (s.gangWithheld p hs h)).isSome
     else s.fitsCore p h c && !s.gangHolds p hs h.stream c &&
       decide (P.streamOn c h.stream < P.shareMax h.stream * 64))

/-- The queue place_next chooses on core c (02 R66). -/
def State.choose (s : State) (p : Fin 4) (hs : List SweepHead) (c : Nat) : Option SweepHead :=
  let P := s.part p
  let cand := hs.filter (s.candidate p hs c)
  let low := cand.filter (fun h => decide (P.streamOn c h.stream < P.shareMin h.stream * 64))
  let pool := if low.isEmpty then cand else low
  match (pool.map (fun h => P.rank h.stream)).min? with
  | none => none
  | some r =>
    let pool := pool.filter (fun h => P.rank h.stream == r)
    let last := sget 0 P.lastGroup (4 * c + r)
    let key (h : SweepHead) : Nat := if last < h.group then h.group else h.group + 32
    match (pool.map key).min? with
    | none => none
    | some k => pool.find? (fun h => key h == k)

/-! ### Arrival at the head and co-location (02 R68) -/

/-- A recompute sweep. -/
def isRecompute (c : Bytes) : Bool := decide (cmdKind c = 0x01) && cmdFlag c 0

/-- The same grid and placement fields: bytes 0x28 to 0x35 and 0x36 to 0x3B and LIST_ADDRESS (02 R68).
(Log: DEDUCED, unsafe, entry 35.) -/
def samePlacement (a b : Bytes) : Bool :=
  decide ((a.drop 0x28).take 0x14 = (b.drop 0x28).take 0x14) && decide (swList a = swList b)

/-- Drop every retained copy of a recompute command (09 R261). -/
def State.dropAllRetained (s : State) (c : Cid) : State :=
  { s with cores := { s.cores with retained := s.cores.retained.filter (fun r => r.cid != c) } }

/-- The command that has come to the head of a queue behind a recompute sweep is co-located with it, or the
co-location is lost (02 R68).
(Log: DEDUCED, unsafe, entry 35.) -/
def State.arrive (s : State) (p : Fin 4) (q : Nat) : State :=
  let Q := (s.part p).queue q
  match Q.headEntry with
  | none => s
  | some e =>
    if e.arrived then s
    else
      let c : Cid := { p := p, q := q, n := e.n }
      let s := s.modEntry c (fun e => { e with arrived := true })
      match Q.entries.find? (fun x => decide ((x.n + 1) % 2 ^ 32 = e.n)) with
      | none => s
      | some x =>
        if !isRecompute x.cmd then s
        else
          let resident := match x.sweep with | none => false | some w => !w.threads.isEmpty
          if cmdKind e.cmd = 0x01 then
            if resident && samePlacement x.cmd e.cmd then
              s.modEntry c (fun e => { e with coloc := some (x.n, match x.sweep with | none => [] | some w => w.coreOf) })
            else (s.modEntry c (fun e => { e with colocLost := true })).dropAllRetained { c with n := x.n }
          else
            (s.modEntry { c with n := x.n } (fun e => { e with colocLost := true })).dropAllRetained { c with n := x.n }

/-! ### Placing (02 R66, R70; 05 R151; 09 R261) -/

/-- The snapshots of the entries a sweep names, read as it starts (05 R151). -/
def State.snapsOf (s : State) (p : Fin 4) (e : Entry) (prog : Bytes) : List Snap :=
  let P := s.part p
  (namedEntries prog).map (fun n =>
    scStart n.1 (P.scEntry n.1) (s.readVa e.xlats (P.scEntry n.1) 32) (fld P.scCfg.toNat 0 4) n.2.2 n.2.1)

/-- The copy that gives way first on a core: of the oldest sweep, the highest thread (09 R261). -/
def firstToDrop (l : List Retained) (c : Nat) : Option Retained :=
  match l.find? (fun r => r.core == c) with
  | none => none
  | some r0 =>
    let same := l.filter (fun r => r.core == c && r.cid == r0.cid)
    let top := same.foldl (fun m r => max m r.t) 0
    same.find? (fun r => r.t == top)

/-- Drop retained copies on a core until `need` more granules fit.
(Log: DEDUCED, unsafe, entry 36.) -/
def dropFor (c free need : Nat) : Nat → List Retained → List Retained
  | 0, l => l
  | n + 1, l =>
    let used := (l.filter (fun r => r.core == c)).foldl (fun k r => k + (r.bytes.length + 2047) / 2048) 0
    if need + used ≤ free then l
    else
      match firstToDrop l c with
      | none => l
      | some r => dropFor c free need n (l.erase r)

/-- A sweep's start fixes its mode of maximum and minimum, which every replay keeps (04 R125). -/
def Sweep.fixMode (w : Sweep) (numericDefault : W32) (cmd : Bytes) : Sweep :=
  let mode := fld (at_ cmd 0x50 4) 0 2
  let compat := if mode = 0 then decide (fld numericDefault.toNat 0 2 = 1) else decide (mode = 2)
  if w.modeFixed then w else { w with compat := compat, modeFixed := true }

/-- A sweep starts (02 R37, R70; 04 R125): its mode is fixed, its entries are read, its bank is held. -/
def State.beginSweep (s : State) (p : Fin 4) (h : SweepHead) : State :=
  let c : Cid := { p := p, q := h.q, n := h.e.n }
  let P := s.part p
  let s := s.modEntry c (fun e => { e with
    snaps := s.snapsOf p h.e h.w.prog,
    sweep := e.sweep.map (fun w => { w.fixMode P.numericDefault h.e.cmd with coloc := e.coloc.map (·.1) }) })
  let s := if h.rowEngine && decide (cmdPass h.e.cmd = 0) then
      s.modPart p (fun P => P.setGroup h.group ((P.group h.group).setBank (cmdMicro h.e.cmd) (.held (cmdMicro h.e.cmd))))
    else s
  s.begin c

/-- Put thread t of a sweep on core c.
(Log: DESIGN CHOICE, safe, entry 33.) -/
def State.putThread (s : State) (p : Fin 4) (h : SweepHead) (t c : Nat) : State :=
  let i : Cid := { p := p, q := h.q, n := h.e.n }
  let P := s.part p
  let used := (P.onCore c).foldl (fun k x => k + progGran x.2.1.prog) 0
  let kept := dropFor c (768 - used) (progGran h.w.prog) s.cores.retained.length s.cores.retained
  let th : Thread := { t := t, core := c, context := P.freeContext c (Config.freeWord s.free).toNat, since := s.cores.placed, op := 0, wait := .ready, ls := [], acc := [], regs := [],
                       holdsRegs := false, preload := none, carry := [], unreb := false, events := [], owed := [], done := 0 }
  let s := { s with cores := { s.cores with placed := s.cores.placed + 1, retained := kept }, free := s.free + 1 }
  let s := s.modEntry i (fun e => e.modSweep (fun w =>
    { w with placed := t + 1, threads := w.threads ++ [th], coreOf := sset 0 w.coreOf t (c + 1) }))
  (s.coreEvent p c 14 1 (some h.e.cmd)).traceThread i 3 t c th.context

/-- Put consecutive threads on the cores of a list. -/
def State.putAll (s : State) (p : Fin 4) (h : SweepHead) : Nat → List Nat → State
  | _, [] => s
  | t, c :: r => (s.putThread p h t c).putAll p h (t + 1) r

/-- The sweep chosen on a core is placed: one thread, or the whole gang; a poisoned scale-table entry escalates. -/
def State.placeHead (s : State) (p : Fin 4) (h : SweepHead) (c : Nat) : State :=
  let cid : Cid := { p := p, q := h.q, n := h.e.n }
  let P := s.part p
  let start := decide (h.e.phase = .waiting)
  let entries := (namedEntries h.w.prog).map (fun n => (P.scEntry n.1, 32))
  match if start then s.poisonReads h.e.xlats entries else none with
  | some sec =>
    let s := s.modEntry cid (fun e => { e with sweep := e.sweep.map (fun w => w.fixMode P.numericDefault h.e.cmd) })
    ((s.begin cid).escalate cid sec (sectorVa h.e.xlats sec)).arrive p h.q
  | none =>
    let cores := if h.gang then (s.gangPlan p h (s.gangWithheld p (s.heads p) h)).getD [] else [c]
    let s := if start then s.beginSweep p h else s
    let s := s.putAll p h h.w.placed cores
    let s := s.modPart p (fun P => { P with lastGroup := sset 0 P.lastGroup (4 * c + P.rank h.stream) h.group })
    s.arrive p h.q

/-- place_next on core c until no candidate is left (02 R66); fuel bounds the placements.
(Log: DESIGN CHOICE, safe, entry 38.) -/
def State.placeLoop (s : State) (p : Fin 4) (c : Nat) : Nat → State
  | 0 => s
  | n + 1 =>
    let hs := s.heads p
    if hs.isEmpty then s
    else
      let s := (hs.map SweepHead.group).eraseDups.foldl (fun s g => s.nextPhase p hs g) s
      match s.choose p hs c with
      | none => s
      | some h => (s.placeHead p h c).placeLoop p c n

/-- place_next of a core that a partition owns and that is present.
(Log: DESIGN CHOICE, safe, entry 38.) -/
def State.placeOn (s : State) (p : Fin 4) (c : Nat) : State :=
  if s.present p c then s.placeLoop p c 2048 else s

/-- PLACE_NEXT (02 R66): a core has freed resources. -/
def placeNext (c : Nat) (s : State) : State := (List.finRange 4).foldl (fun s p => s.placeOn p c) s

/-- place_next on every core of a partition, in increasing logical id (02 R66). -/
def State.placeAll (s : State) (p : Fin 4) : State :=
  if (s.heads p).isEmpty then s else (List.range 1280).foldl (fun s c => s.placeOn p c) s

/-- The row SWEEP (02 R39, R41, R66): the sweep at the head of the queue is accepted, and what can be placed is. -/
def sweep (p : Fin 4) (q : Nat) (s : State) : State :=
  (s.arrive p q).acceptHead p q 0x01 (fun c e =>
    if e.accepted then (s.arrive p q).placeAll p
    else
      let s := s.arrive p q
      match s.sweepCheck p q e with
      | .error st => s.refuse c st
      | .ok (xs, rs, w) =>
        match (s.walkPoison p rs).orElse (fun _ => s.poisonReads xs (sweepTables e w)) with
        | some sec => s.refusePoisoned c sec (sectorVa xs sec)
        | none => ((s.accepted c xs rs).modEntry c (fun e => { e with sweep := some w })).placeAll p)

/-- The meaning of SWEEP. -/
def execSweep (p : Fin 4) (q : Nat) (s : State) : Host.Outcome State Fault Refusal := .next (sweep p q s)

/-- The meaning of PLACE_NEXT. -/
def execPlaceNext (core : Nat) (s : State) : Host.Outcome State Fault Refusal := .next (placeNext core s)

end Sys2Proof.Machine
end

