-- ==== Sys2Proof/Machine/Queue.lean ====
section
/-! DEFINITION. Doorbells, admission, and the control of queues, groups and partitions (02 R33, R69, R73, R77; 14 R398,
R399, R408 to R414, R417, R419, R421). -/

namespace Sys2Proof.Machine

/-! ### Who may write (14 R398, R399, R405) -/

/-- Whether a function exists: the PF always, VF n while SR-IOV is on with NumVFs above n. -/
def State.fnExists (s : State) : Fn → Bool
  | .pf => true
  | .vf n => s.hi.vfEnable && decide (n.val < s.hi.numVfs)

/-- Whether a function may write the registers of partition block p: after DEVICE_READY, the function that serves it. -/
def State.mayWritePart (s : State) (fn : Fn) (p : Fin 4) : Bool :=
  s.life.deviceReady && s.fnExists fn && decide (s.servingFn p = fn)

/-- Whether a function may write a package register: the PF after DEVICE_READY. -/
def State.mayWritePkg (s : State) (fn : Fn) : Bool := s.life.deviceReady && decide (fn = .pf)

/-- Whether partition p has registers in force: it is ENABLED or DRAINING. -/
def Part.live (P : Part) : Bool := decide (P.state = .enabled) || decide (P.state = .draining)

/-! ### Doorbells and polling (14 R411 to R414) -/

/-- Entries of the submission ring. -/
def Queue.sqSize (Q : Queue) : Nat := ringSize (fld Q.cfg.toNat 0 4)

/-- Entries of the completion ring. -/
def Queue.cqSize (Q : Queue) : Nat := ringSize (fld Q.cfg.toNat 4 4)

/-- Whether a doorbell word is in error (14 R413): counts modulo 2^32. -/
def Queue.doorbellBad (Q : Queue) (d : Nat) : Bool :=
  decide (Q.sqSize < (BitVec.ofNat 32 d - Q.head).toNat) || decide (Q.cqSize < (Q.tail - BitVec.ofNat 32 (d / 2 ^ 32)).toNat)

/-- The doorbell word of queue q as it stands in host memory. -/
def State.doorbell (s : State) (p : Fin 4) (q : Nat) : Nat := s.hostWord ((s.part p).doorbellBase.toNat + 8 * q)

/-- A queue takes a doorbell word: one in error stops it and keeps its counts; a DRAINING queue keeps the tail it
captured (14 R413, R419).
(Log: DEDUCED, unsafe, entry 43.) -/
def Queue.ring (Q : Queue) (d : Nat) : Queue :=
  match Q.state with
  | .disabled => Q
  | .draining => if Q.doorbellBad d then Q else { Q with cqHead := BitVec.ofNat 32 (d / 2 ^ 32) }
  | _ =>
    if Q.doorbellBad d then { Q.halt with doorbellError := true, reread := true }
    else { Q with sqTail := BitVec.ofNat 32 d, cqHead := BitVec.ofNat 32 (d / 2 ^ 32) }

/-- The queues that a summary line marks. -/
def lineQueues (line : Bytes) : List Nat :=
  (List.range 512).filter (fun q => bit (at_ line (q / 64 * 8) 8) (q % 64))

/-- Swap every nonzero word of the summary line to 0. -/
def State.swapSummary (s : State) (base : Nat) : State :=
  (List.range 8).foldl (fun s w => if s.hostWord (base + 8 * w) = 0 then s else s.hostWrite (base + 8 * w) (zeros 8)) s

/-- Whether a partition is busy (14 R414). -/
def Part.busy (P : Part) (tick : Nat) : Bool :=
  P.queues.any (fun q => q.2.entries.any (fun e => decide (e.phase ≠ .finished))) || decide (tick < P.busyUntil)

/-- The interval to the next poll (14 R414). -/
def Part.nextInterval (P : Part) (busy : Bool) : Nat :=
  if busy then fld P.pollCfg.toNat 0 8 * 100 else min (2 * P.pollInterval) (fld P.pollCfg.toNat 8 10 * 1000)

/-- DEVICE_POLL (14 R411): what the host has stored by then, then one poll.
(Log: DEDUCED, unsafe, entry 46.) -/
def devicePoll (p : Fin 4) (host : HostStores) (s : State) : State :=
  let s := { s with host := sstores s.host host }
  let P := s.part p
  if !P.live then s
  else
    let s := s.advance P.pollAt
    let swap := !bit P.pollCfg.toNat 18
    let base := P.summaryBase.toNat
    let marked :=
      if swap then lineQueues (sread s.host base 64)
      else (P.queues.filter (fun q => decide (q.2.state = .enabled ∨ q.2.state = .stopped))).map (·.1)
    let held := (P.queues.filter (fun q => q.2.spaceHeld)).map (·.1)
    let qs := ((marked ++ held).eraseDups).filter queueExists
    let s := if swap then s.swapSummary base else s
    let newTail := qs.any (fun q =>
      let Q := P.queue q
      decide (Q.state ≠ .disabled) && decide ((Q.ring (s.doorbell p q)).sqTail ≠ Q.sqTail))
    let s := qs.foldl (fun s q => s.modQueue p q (fun Q => Q.ring (s.doorbell p q))) s
    s.modPart p (fun P =>
      let i := P.nextInterval (P.busy s.tick || newTail)
      { P with pollInterval := i, pollAt := s.tick + i })

/-! ### Admission (14 R411, R412; 02 R73) -/

/-- A command as admitted. -/
def Entry.fresh (n : Nat) (cmd : Bytes) : Entry :=
  { n := n, cmd := cmd, phase := .waiting, accepted := false, refused := false, status := .ok, startTick := 0, endTick := 0,
    epoch := 0, invalid := 0, overflow := 0, corr := 0, sat := 0, excs := [], queueStopped := false, signalHeld := false,
    resumed := false, replayed := false, afterCut := false, coldScale := false, colocLost := false, counterSat := false,
    excTruncated := false, threads := 0, detail := 0, xlats := [], reads := [], snaps := [], kept := [], arrived := false,
    coloc := none, sweep := none, coll := none, unrebuildable := false, lost := false, owed := [] }

/-- A command that a drain cancels (14 R419). -/
def Entry.cancel (e : Entry) : Entry :=
  { e with phase := .finished, status := .cancelled, startTick := 0, endTick := 0, epoch := 0, sweep := none, coll := none }

/-- Whether a queue takes commands from its ring: ENABLED, or DRAINING up to the tail captured. -/
def Queue.admits (Q : Queue) : Bool := decide (Q.state = .enabled) || decide (Q.state = .draining)

/-- COMMAND_ADMIT (14 R411, R412): one command, while the completion ring has a slot for it. The command comes to the
head of its queue at once when none is before it (02 R68); behind a recompute sweep whose record has left the queue it is
not co-located, and the sweep's retained copies go (09 R261).
(Log: DEDUCED, unsafe, entry 35.) -/
def commandAdmit (p : Fin 4) (q : Nat) (s : State) : State :=
  let Q := (s.part p).queue q
  if !(s.part p).live || !Q.admits || decide (Q.head = Q.sqTail) then s
  else if Q.cqSize ≤ (Q.head - Q.cqHead).toNat then s.modQueue p q (fun Q => { Q with spaceHeld := true })
  else
    let cmd := sread s.host (Q.sqBase.toNat + 128 * (Q.head.toNat % Q.sqSize)) 128
    let n := Q.head.toNat
    let e := Entry.fresh n cmd
    let alone := decide ((Q.entries.any (fun x => decide ((x.n + 1) % 2 ^ 32 = n))) = false)
    let parted := alone && Q.prevRecompute && decide (Q.state ≠ .draining)
    let e := if Q.state = .draining then e.cancel
      else if parted then { e with arrived := true, colocLost := decide (cmdKind cmd = 0x01) }
      else e
    let s := s.modQueue p q (fun Q => { Q with
      head := Q.head + 1, spaceHeld := false, prevRecompute := isRecompute cmd, entries := Q.entries ++ [e] })
    let s := if parted then s.dropAllRetained { p := p, q := q, n := (n + 2 ^ 32 - 1) % 2 ^ 32 } else s
    let s := if Q.state = .draining then (s.stayBusy p).dropParted p q else s
    (s.modPart p (fun P => P.reach q)).arrive p q

/-! ### Draining (14 R419, R421) -/

/-- A DRAINING queue with nothing left becomes DISABLED (14 R419). -/
def Queue.settle (Q : Queue) : Queue :=
  if Q.state = .draining ∧ Q.entries = [] ∧ Q.head = Q.sqTail then { Q with state := .disabled, drainDue := none } else Q

/-- A DRAINING partition whose queues are all DISABLED becomes DISABLED (14 R421). -/
def Part.settle (P : Part) : Part :=
  let P := { P with queues := P.queues.map (fun q => (q.1, q.2.settle)) }
  if P.state = .draining ∧ P.queues.all (fun q => decide (q.2.state = .disabled)) then
    { P with state := .disabled, drainDue := none }
  else P

/-- The drain of a queue begins (14 R419): its doorbell word is read once, its held signal is discarded, and every
admitted command that has not started is cancelled. A word in error captures nothing beyond what is admitted.
(Log: DEDUCED, unsafe, entry 43; DEDUCED, unsafe, entry 44.) -/
def Queue.drain (Q : Queue) (d : Nat) (due : Option Nat) : Queue :=
  if Q.state = .enabled ∨ Q.state = .stopped then
    let bad := Q.doorbellBad d
    { Q with
      state := .draining, drainDue := due, held := [], rolledBack := false,
      doorbellError := Q.doorbellError || bad,
      sqTail := if bad then Q.head else BitVec.ofNat 32 d,
      cqHead := if bad then Q.cqHead else BitVec.ofNat 32 (d / 2 ^ 32),
      entries := Q.entries.map (fun e => if e.phase = .waiting ∧ e.replayed = false then e.cancel else e) }
  else Q

/-- The drain of queue q of partition p. -/
def State.drainQueue (s : State) (p : Fin 4) (q : Nat) (due : Option Nat) : State :=
  let busy := ((s.part p).queue q).entries.any (fun e => decide (e.phase = .waiting))
  let s := (s.modQueue p q (fun Q => Q.drain (s.doorbell p q) due)).modPart p (fun P => P.reach q)
  let s := s.dropParted p q
  if busy then s.stayBusy p else s

/-- QUEUE_DISABLE: a write of DISABLE to a queue (14 R419). -/
def queueDisable (fn : Fn) (p : Fin 4) (q : Nat) (s : State) : State :=
  if s.mayWritePart fn p && queueExists q then
    (s.drainQueue p q (some (s.tick + 100000))).modPart p Part.settle
  else s

/-! ### Queue control (14 R410; 02 R77) -/

/-- QUEUE_ENABLE: a write of ENABLE to a queue (14 R410).
(Log: DEDUCED, unsafe, entry 44; DESIGN CHOICE, safe, entry 45.) -/
def queueEnable (fn : Fn) (p : Fin 4) (q : Nat) (s : State) : State :=
  if s.mayWritePart fn p && queueExists q then
    let P := s.part p
    s.modQueue p q (fun Q =>
      if Q.state = .disabled ∧ P.state = .enabled ∧ ((P.group (groupOf q)).created = true ∨ q = 0) ∧ Q.sqBase ≠ 0 ∧
          Q.cqBase ≠ 0 then
        { Q with
          state := .enabled, head := 0, tail := 0, sqTail := 0, cqHead := 0, spaceHeld := false, held := [], reread := false,
          unsignalled := 0, irqDue := none, prevRecompute := false, entries := [] }
      else { Q with enableRefused := true })
  else s

/-- Add a signal to a cut's counters.
(Log: DEDUCED, unsafe, entry 42.) -/
def Cut.signal (c : Cut) (cmd : Bytes) : Cut :=
  let k := at_ cmd 0x18 2
  let v := BitVec.ofNat 32 (at_ cmd 0x1C 4)
  let old := sget 0 c.counters k
  { c with counters := sset 0 c.counters k (if cmdSignalSet cmd then maxW old v else (addSat old v).1) }

/-- Whether a cut holds command n of queue q as finished or no longer holds it.
(Log: DEDUCED, unsafe, entry 42.) -/
def Cut.past (c : Cut) (q n : Nat) : Bool :=
  match c.queues.find? (fun x => x.1 == q) with
  | none => false
  | some (_, l) =>
    match l.find? (fun e => e.n == n) with
    | some e => decide (e.phase = .finished)
    | none => false

/-- Apply a held signal at its queue's resumption (02 R77); cuts taken after the command's finish take it too, so that
a restore keeps it.
(Log: DEDUCED, unsafe, entry 42.) -/
def State.applyHeld (s : State) (p : Fin 4) (q : Nat) (h : Nat × Bytes) : State :=
  let gone := (((s.part p).queue q).entry h.1).isNone
  let s := s.applySignal { p := p, q := q, n := h.1 } h.2
  s.modPart p (fun P => { P with
    base := if gone || P.base.past q h.1 then P.base.signal h.2 else P.base
    closed := P.closed.map (fun x => if gone || x.cut.past q h.1 then { x with cut := x.cut.signal h.2 } else x) })

/-- QUEUE_RESUME: a write of RESUME to a queue (02 R77; 14 R413): held signals first, then ENABLED; after a doorbell
error the word is read again.
(Log: DEDUCED, unsafe, entry 41.) -/
def queueResume (fn : Fn) (p : Fin 4) (q : Nat) (s : State) : State :=
  let Q := (s.part p).queue q
  if s.mayWritePart fn p && queueExists q && decide (Q.state = .stopped) then
    let s := Q.held.foldl (fun s h => s.applyHeld p q h) s
    let s := s.modQueue p q (fun Q => { Q with
      state := .enabled, held := [], entries := Q.entries.map (fun e => { e with resumed := e.resumed || e.queueStopped }) })
    if Q.reread then s.modQueue p q (fun Q => { Q with reread := false }.ring (s.doorbell p q)) else s
  else s

/-! ### Groups (14 R409; 02 R33, R34, R69) -/

/-- GROUP_CREATE: a write of CREATE to a group's control register; of several errors the first of 4, 5, 3, 1.
(Log: DESIGN CHOICE, safe, entry 45.) -/
def groupCreate (fn : Fn) (p : Fin 4) (g : Nat) (s : State) : State :=
  if s.mayWritePart fn p && decide (1 ≤ g ∧ g ≤ 31) then
    let P := s.part p
    let G := P.group g
    if G.created then s
    else
      let cfg := G.cfgReg.toNat
      let owner := bit cfg 1
      let error : Nat :=
        if P.state ≠ .enabled then 4
        else if !bit cfg 6 then 5
        else if fld cfg 2 4 ≠ 1 then 3
        else if owner && P.groups.any (fun x => x.2.created && x.2.owner) then 1
        else 0
      s.setPart p (P.setGroup g (
        if error = 0 then
          { G with
            created := true, error := 0, seed := G.seedReg, overlapped := bit cfg 0, owner := owner,
            bankZero := .free, bankOne := .free, phaseB := false }
        else { G with error := BitVec.ofNat 4 error }))
  else s

/-- The queues of a group. -/
def groupQueues (g : Nat) : List Nat := (List.range 12).map (· + 16 * g)

/-- GROUP_DESTROY: a write of DESTROY, accepted when every queue of the group is DISABLED; its banks become FREE. -/
def groupDestroy (fn : Fn) (p : Fin 4) (g : Nat) (s : State) : State :=
  if s.mayWritePart fn p && decide (1 ≤ g ∧ g ≤ 31) then
    let P := s.part p
    let G := P.group g
    if !G.created then s
    else if (groupQueues g).all (fun q => decide ((P.queue q).state = .disabled)) then
      s.setPart p (P.setGroup g { G with created := false, error := 0, bankZero := .free, bankOne := .free, phaseB := false })
    else s.setPart p (P.setGroup g { G with error := 2 })
  else s

/-! ### Partition control (14 R408, R421) -/

/-- PARTITION_ENABLE: a write of ENABLE = 1. The watchdog counts from here.
(Log: DEDUCED, unsafe, entry 46.) -/
def partitionEnable (fn : Fn) (p : Fin 4) (s : State) : State :=
  let P := s.part p
  if s.mayWritePart fn p && decide (P.state = .disabled) then
    if P.cores = 0 then s.setPart p { P with enableRefused := true }
    else
      let i := fld P.pollCfg.toNat 8 10 * 1000
      ({ s with life := { s.life with mayStep := false } }.setPart p
        { P with state := .enabled, openedAt := s.tick, pollInterval := i, pollAt := s.tick + i }).firstCut p
  else s

/-- PARTITION_DISABLE: a write of ENABLE = 0 drains every queue at once (14 R421).
(Log: DEDUCED, unsafe, entry 44.) -/
def partitionDisable (fn : Fn) (p : Fin 4) (s : State) : State :=
  let P := s.part p
  if s.mayWritePart fn p && decide (P.state = .enabled) then
    let s := s.setPart p { P with state := .draining, drainDue := some (s.tick + 100000), rolledBack := false }
    let s := (P.queues.map (·.1)).foldl (fun s q => s.drainQueue p q none) s
    s.modPart p Part.settle
  else s

/-! ### Interrupts of completion rings (14 R417) -/

/-- IRQ_TIMER_EXPIRY: TIMER has passed since a queue's first unsignalled record. -/
def irqTimerExpiry (p : Fin 4) (q : Nat) (s : State) : State :=
  let Q := (s.part p).queue q
  match Q.irqDue with
  | none => s
  | some t =>
    ((s.advance t).modQueue p q (fun Q => { Q with irqDue := none, unsignalled := 0 })).raiseMsix (s.servingFn p)
      (fld Q.cfg.toNat 9 11)

/-- MSIX_VECTOR_UNMASK: a write that clears a vector's mask bit sends its pending message (14 R417). -/
def msixVectorUnmask (fn : Fn) (v : Nat) (s : State) : State :=
  if s.life.deviceReady && s.fnExists fn && decide (v < fnVectors fn) then
    let w := s.hi.msixWord fn (4 * v + 3)
    let s := { s with hi := s.hi.setMsixWord fn (4 * v + 3) (w &&& 0xFFFFFFFE) }
    if s.hi.pendingBit fn v && s.hi.msixOn fn && !s.hi.fnMasked fn then { s with hi := s.hi.setPending fn v false }.sendMsix fn v else s
  else s

/-- The meaning of DEVICE_POLL. -/
def execDevicePoll (p : Fin 4) (host : HostStores) (s : State) : Host.Outcome State Fault Refusal := .next (devicePoll p host s)
/-- The meaning of COMMAND_ADMIT. -/
def execCommandAdmit (p : Fin 4) (q : Nat) (s : State) : Host.Outcome State Fault Refusal := .next (commandAdmit p q s)
/-- The meaning of QUEUE_DISABLE. -/
def execQueueDisable (fn : Fn) (p : Fin 4) (q : Nat) (s : State) : Host.Outcome State Fault Refusal := .next (queueDisable fn p q s)
/-- The meaning of QUEUE_ENABLE. -/
def execQueueEnable (fn : Fn) (p : Fin 4) (q : Nat) (s : State) : Host.Outcome State Fault Refusal := .next (queueEnable fn p q s)
/-- The meaning of QUEUE_RESUME. -/
def execQueueResume (fn : Fn) (p : Fin 4) (q : Nat) (s : State) : Host.Outcome State Fault Refusal := .next (queueResume fn p q s)
/-- The meaning of GROUP_CREATE. -/
def execGroupCreate (fn : Fn) (p : Fin 4) (g : Nat) (s : State) : Host.Outcome State Fault Refusal := .next (groupCreate fn p g s)
/-- The meaning of GROUP_DESTROY. -/
def execGroupDestroy (fn : Fn) (p : Fin 4) (g : Nat) (s : State) : Host.Outcome State Fault Refusal := .next (groupDestroy fn p g s)
/-- The meaning of PARTITION_ENABLE. -/
def execPartitionEnable (fn : Fn) (p : Fin 4) (s : State) : Host.Outcome State Fault Refusal := .next (partitionEnable fn p s)
/-- The meaning of PARTITION_DISABLE. -/
def execPartitionDisable (fn : Fn) (p : Fin 4) (s : State) : Host.Outcome State Fault Refusal := .next (partitionDisable fn p s)
/-- The meaning of IRQ_TIMER_EXPIRY. -/
def execIrqTimerExpiry (p : Fin 4) (q : Nat) (s : State) : Host.Outcome State Fault Refusal := .next (irqTimerExpiry p q s)
/-- The meaning of MSIX_VECTOR_UNMASK. -/
def execMsixVectorUnmask (fn : Fn) (v : Nat) (s : State) : Host.Outcome State Fault Refusal := .next (msixVectorUnmask fn v s)

end Sys2Proof.Machine
end

