-- ==== Sys2Proof/Machine/Epoch.lean ====
section
/-! DEFINITION. Epochs: their close, the capture of a cut and the release (13 R355 to R360, R363 to R367; 02 R73 to R75;
04 R129 to R131; 14 R415 to R419). -/

namespace Sys2Proof.Machine

/-! ### Close and capture (13 R356 to R358) -/

/-- Close age of the open epoch: 26 µs in Long mode, 6 µs in Short mode.
(Log: DEDUCED, unsafe, entry 46.) -/
def Part.closeAge (P : Part) : Nat := if P.capShort then 6000 else 26000

/-- EPOCH_WATCHDOG_CLOSE (13 R356): the open epoch reaches its close age.
(Log: DEDUCED, unsafe, entry 85.) -/
def epochWatchdogClose (p : Fin 4) (s : State) : State :=
  let P := s.part p
  if P.live && P.closeRequest.isNone then
    let s := s.advance (P.openedAt + P.closeAge)
    s.modPart p (fun P => P.requestClose s.tick)
  else s

/-- Whether a byte belongs to a send entry of VC 5. -/
def inSignalSends (rs : List (Nat × Nat)) (a : Nat) : Bool :=
  rs.any (fun r => decide (r.1 ≤ a ∧ a < r.1 + r.2 ∧ r.2 = 65536 ∧ 40 ≤ a % 64 ∧ a % 64 < 48))

/-- A cut once the remote signals of its epoch have left at the release: they are never sent again, so the send entries of
VC 5 are held as the release leaves them.
(Log: DEDUCED, unsafe, entry 76.) -/
def Cut.signalled (c : Cut) (m : Mem) : Cut :=
  { c with sendEntries := c.sendEntries.filter (fun x => !inSignalSends c.sendRanges x.1) ++
      m.bytes.filter (fun x => inSignalSends c.sendRanges x.1) }

/-- Bytes of carry on a core (13 R366): those that retired threads wrote into the threads resident there. -/
def Part.carryOn (P : Part) (core : Nat) : Nat :=
  P.residents.foldl (fun n x =>
    if x.2.2.core = core then
      n + (x.2.2.carry.filter (fun b => ((x.2.1.sweep.map (·.retired)).getD []).contains (b.2 - 1))).length
    else n) 0

/-- Threads on a core whose carry is above 64 KiB are marked unrebuildable (13 R366). -/
def Part.markCarry (P : Part) : Part :=
  let heavy (c : Nat) : Bool := decide (65536 < P.carryOn c)
  { P with queues := P.queues.map (fun q => (q.1, { q.2 with entries := q.2.entries.map (fun e =>
      e.modSweep (fun w => { w with threads := w.threads.map (fun h => { h with unreb := heavy h.core }) })) })) }

/-- A partition has closed an epoch, as the dies that wait for a clock change see it (01 R29). -/
def Power.closed (w : Power) (p : Fin 4) : Power :=
  { w with closedSince := w.closedSince ||| (1#4 <<< p.val) }

/-- The spares of a die that hold no logical id, are not retired and are not under test.
(Log: DESIGN CHOICE, unsafe, entry 21.) -/
def Cores.freeSpares (k : Cores) (die : Nat) : List Nat :=
  ((List.range 4).map (fun i => 324 * die + 320 + i)).filter (fun x =>
    !k.retired.contains x && !k.moved.any (fun y => y.2 == x) && !k.background.any (fun b => b.started && b.phys == x))

/-- The time a core's test takes (16 Table 16.9; 14 R424). -/
def workTime (target : Nat) : Nat := if target = 1 then 40000000 else if target = 0 ∨ target = 4 then 2000000 else 0

/-- An epoch boundary of a partition comes for its background work (16 R464) and for the partial resets of its cores (14
R424); a core is not vacated at one that finds fewer than two unused spares of its die, nor returned at one before its test
ends. -/
def Cores.boundary (k : Cores) (p : Fin 4) (tick : Nat) (owns : Nat → Bool) : Cores :=
  { k with background := k.background.map (fun b =>
    if (b.cid.any (fun c => c.p == p) || (b.target == 4 && owns b.index)) &&
        (if b.started then decide (b.start + workTime b.target ≤ tick) else decide (2 ≤ (k.freeSpares (b.index / 320)).length))
    then { b with boundaryAt := some tick } else b) }

/-- Whether a core's background work is at an epoch boundary now; a core of no partition that runs has no epoch to wait for.
(Log: DEDUCED, unsafe, entry 102; DEDUCED, unsafe, entry 118.) -/
def State.atBoundary (s : State) (b : Background) : Bool :=
  decide (b.boundaryAt = some s.tick) ||
    !(List.finRange 4).any (fun p => (s.part p).ownsCore b.index && decide ((s.part p).state ≠ .disabled))

/-- Close the open epoch and open the next.
(Log: DEDUCED, unsafe, entry 85.) -/
def State.capture (s : State) (p : Fin 4) : State :=
  let s := s.modPart p Part.markCarry
  let c := s.cutOf p
  let s := s.modPart p (fun P => { P with
    closed := P.closed ++ [{ epoch := P.openEpoch, cut := c, requested := P.closeRequest.getD s.tick }],
    openEpoch := P.openEpoch + 1, openedAt := s.tick, closeRequest := none, capShort := bit P.epochCfg.toNat 0 })
  { s with power := s.power.closed p, cores := s.cores.boundary p s.tick (s.part p).ownsCore }

/-- CUT_CAPTURE (13 R357, R358): a close requested takes effect; at most two closed epochs wait for their release.
(Log: DEDUCED, unsafe, entry 85.) -/
def cutCapture (p : Fin 4) (s : State) : State :=
  let P := s.part p
  if P.closeRequest.isSome && decide (P.closed.length < 2) then s.capture p else s

/-! ### Records (02 Tables 2.16, 2.17; 04 Table 4.12) -/

/-- Status codes (14 Table 14.18). -/
def Status.code : Status → Nat
  | .ok => 0 | .cancelled => 1 | .rolledBack => 2 | .deferred => 3 | .notReady => 4 | .invalid => 5 | .isolation => 6
  | .unrecoverable => 7

/-- An exception record. -/
def excRecord (cmd : Bytes) (q : Nat) (last stopped : Bool) (x : Exc) : Bytes :=
  fit 15 cmd ++ toLe 1 x.kind ++ toLe 8 x.tick ++ toLe 4 x.thread ++ toLe 1 x.op ++ toLe 1 x.fmtA ++ toLe 1 x.fmtB ++
    toLe 1 x.fmtOut ++ toLe 4 x.row ++ toLe 4 x.col ++ toLe 4 x.chunk ++ toLe 1 x.term ++
    toLe 1 (last.toNat + 2 * stopped.toNat) ++ toLe 2 q ++ toLe 8 x.valA.toNat ++ toLe 8 x.valB.toNat

/-- CFLAGS of a completion record. -/
def Entry.cflags (e : Entry) : Nat :=
  e.queueStopped.toNat + 2 * e.signalHeld.toNat + 4 * e.replayed.toNat + 8 * e.coldScale.toNat + 16 * e.colocLost.toNat +
    32 * e.counterSat.toNat + 64 * e.excTruncated.toNat

/-- A completion record (02 Table 2.16). -/
def Entry.record (e : Entry) (q excWritten phase : Nat) : Bytes :=
  let timed := !(decide (e.status = .cancelled) || decide (e.status = .deferred))
  fit 15 e.cmd ++ toLe 1 e.status.code ++ toLe 8 (if timed then e.startTick else 0) ++ toLe 8 (if timed then e.endTick else 0) ++
    toLe 4 e.epoch ++ toLe 2 e.invalid ++ toLe 2 e.overflow ++ toLe 2 e.corr ++ toLe 2 e.sat ++ toLe 2 excWritten ++
    toLe 2 e.cflags ++ toLe 8 e.threads ++ toLe 4 e.detail.toNat ++ toLe 2 q ++ toLe 1 phase ++ [0]

/-! ### Rings (14 R416, R417) -/

/-- One exception record into a ring that has room; its message when the unsignalled records reach THRESHOLD, which with
THRESHOLD 0 every record does, or it is the first record of a command that stopped its queue. -/
def State.excPut (s : State) (p : Fin 4) (b : Bytes) (fire : Bool) : State :=
  let P := s.part p
  let cfg := P.excRingCfg.toNat
  let size := ringSize (fld cfg 0 4)
  let th := fld cfg 16 16
  let send := fire || decide (th ≤ P.excUnsignalled + 1)
  let s := s.hostWrite (P.excRingBase.toNat + 64 * (P.excWritten % size)) b
  let s := s.modPart p (fun P => { P with
    excWritten := P.excWritten + 1, excUnsignalled := if send then 0 else P.excUnsignalled + 1 })
  if send then s.raiseMsix (s.servingFn p) (fld cfg 5 11) else s

/-- Number a list from 0. -/
def numbered {α : Type} (l : List α) : List (Nat × α) := l.mapIdx (fun i x => (i, x))

/-- The exception records of a finished command (04 R131): in key order, those that find room; how many were written.
(Log: DEDUCED, unsafe, entry 86.) -/
def State.writeExcs (s : State) (p : Fin 4) (q : Nat) (e : Entry) : State × Nat :=
  let P := s.part p
  let cfg := P.excRingCfg.toNat
  let used := s.doorbell p 1
  let room := if bit cfg 4 then ringSize (fld cfg 0 4) - (P.excWritten - used) else 0
  let l := e.excs.take room
  let drops := e.excs.length - l.length
  let s := s.setPart p { P with excConsumed := used }
  let s := (numbered l).foldl (fun s x =>
    s.excPut p (excRecord e.cmd q (decide (x.1 + 1 = l.length)) e.queueStopped x.2) (e.queueStopped && decide (x.1 = 0))) s
  let s := s.modPart p (fun P => { P with excDrops := P.excDrops + drops })
  let s := if bit cfg 4 then
      (List.range drops).foldl (fun s _ =>
        (s.modPart p (fun P => { P with excUnsignalled := 0 })).raiseMsix (s.servingFn p) (fld cfg 5 11)) s
    else s
  (if e.excs = [] then s else s.statusLine p, l.length)

/-- Raise the message of a completion ring, or start its timer, after a record (14 Table 14.17). -/
def State.signalRing (s : State) (p : Fin 4) (q : Nat) (irq : Bool) : State :=
  let Q := (s.part p).queue q
  let th := fld Q.irq.toNat 0 16
  let timer := fld Q.irq.toNat 16 10
  if irq || (decide (th ≠ 0) && decide (th ≤ Q.unsignalled + 1)) then
    (s.modQueue p q (fun Q => { Q with unsignalled := 0, irqDue := none })).raiseMsix (s.servingFn p) (fld Q.cfg.toNat 9 11)
  else
    s.modQueue p q (fun Q => { Q with
      unsignalled := Q.unsignalled + 1,
      irqDue := if timer ≠ 0 ∧ Q.irqDue = none then some (s.tick + 1000 * timer) else Q.irqDue })

/-- The records of one finished command: exception records, then the completion record in two posted writes (14 R415).
(Log: DEDUCED, unsafe, entry 86.) -/
def State.writeRecord (s : State) (p : Fin 4) (q : Nat) (e : Entry) : State :=
  let (s, n) := s.writeExcs p q e
  let Q := (s.part p).queue q
  let log := 6 + fld Q.cfg.toNat 4 4
  let b := { e with excTruncated := e.excTruncated || decide (n < e.excs.length) }.record q n ((Q.tail.toNat / 2 ^ log + 1) % 2)
  let a := Q.cqBase.toNat + 64 * (Q.tail.toNat % Q.cqSize)
  let s := (s.hostWrite a (b.take 62)).hostWrite (a + 62) (b.drop 62)
  let s := s.modQueue p q (fun Q => { Q with tail := Q.tail + 1, entries := Q.entries.drop 1 })
  s.signalRing p q (cmdFlag e.cmd 3)

/-- Whether the record of a command is ready: it finished in an epoch up to the one released. -/
def Entry.ready (e : Entry) (epoch : Nat) : Bool :=
  decide (e.phase = .finished) && decide (e.epoch ≠ 0) && decide (e.epoch ≤ epoch)

/-- Write the records of a queue that are ready, in submission order. -/
def State.writeQueue (s : State) (p : Fin 4) (epoch : Nat) (q : Nat) : State :=
  (((s.part p).queue q).entries.takeWhile (fun e => e.ready epoch)).foldl (fun s e => s.writeRecord p q e) s

/-! ### Release (13 R359) -/

/-- The commands that finished in an epoch. -/
def Part.finishedIn (P : Part) (epoch : Nat) : List Entry :=
  P.queues.flatMap (fun q => q.2.entries.filter (fun e => decide (e.phase = .finished ∧ e.epoch = epoch)))

/-- A staged write leaves: to host memory, or the step record with its DONE bit (13 R367, R389).
(Log: DEDUCED, unsafe, entry 48; DEDUCED, unsafe, entry 95.) -/
def State.unstage (s : State) (p : Fin 4) (x : Staged) : State :=
  if x.device then
    (s.writeOutside x.addr x.bytes).modPart p (fun P => { P with
      stepRecordCtrl := BitVec.ofNat 64 (setFld (setFld P.stepRecordCtrl.toNat 16 1 0) 17 1 1) })
  else s.hostWrite x.addr x.bytes

/-- The remote signal of a SIGNAL command that finished OK; discarded once fabric traffic is off (11 R319).
(Log: DEDUCED, unsafe, entry 86.) -/
def State.remoteSignal (s : State) (p : Fin 4) (e : Entry) : State :=
  if cmdKind e.cmd = 0x06 ∧ e.status = .ok ∧ bit (at_ e.cmd 0x28 1) 0 = true ∧ (s.part p).flowEnable = true then
    s.sendSignal p 0 (fld (at_ e.cmd 0x20 2) 0 14) (at_ e.cmd 0x22 2) (BitVec.ofNat 32 (at_ e.cmd 0x24 4))
  else s

/-- Whether a shadow is still in use once an epoch is released (13 R362 to R364): one kept for a thread until the epoch that
follows the thread's retirement has been released. -/
def Shadow.inUse (x : Shadow) (released : Nat) : Bool :=
  decide (released < x.epoch) ||
    x.kept.any (fun k => match k.2 with | none => true | some r => decide (released < r + 1))

/-- How far a command has come: not started, executing (by operations of its threads and regions taken), executed, finished. -/
def Entry.progress (e : Entry) : Nat :=
  match e.phase with
  | .waiting => 0
  | .running =>
    1 + (match e.sweep with
      | none => 0
      | some w => w.threads.foldl (fun n h => n + h.op) (w.retired.length * opCount w.prog)) +
      (match e.coll with | none => 0 | some k => k.opened.toNat + k.regionsDone.length)
  | .executed => 2 ^ 62
  | .finished => 2 ^ 63

/-- Whether the work done when a core faulted is still being done again (13 R378): a command has not come back to its mark.
(Log: DESIGN CHOICE, unsafe, entry 132.) -/
def Part.replaying (P : Part) : Bool :=
  P.replayMarks.any (fun m => ((P.queue m.1).entry m.2.1).any (fun e => decide (e.progress < m.2.2)))

/-- Release the oldest closed epoch.
(Log: DEDUCED, unsafe, entry 86; DESIGN CHOICE, unsafe, entry 132.) -/
def State.release (s : State) (p : Fin 4) (x : Closed) : State :=
  let s := s.drift
  let P := s.part p
  let finished := P.finishedIn x.epoch
  let s := (P.staged.filter (fun y => decide (y.epoch ≤ x.epoch))).foldl (fun s y => s.unstage p y) s
  let s := (P.queues.map (·.1)).foldl (fun s q => s.writeQueue p x.epoch q) s
  let s := finished.foldl (fun s e => s.remoteSignal p e) s
  let s := finished.foldl (fun s e => match e.coll with | some k => s.clearArrivals p e.cmd k | none => s) s
  let s := s.tally 1 p.val 0 1
  let cut := x.cut.signalled s.mem
  (s.modPart p (fun P => { P with
    staged := P.staged.filter (fun y => decide (x.epoch < y.epoch)),
    shadows := P.shadows.filter (fun y => y.inUse x.epoch),
    readMarks := P.readMarks.filter (fun m => decide (x.epoch < m.2.2.2)),
    wrote := P.wrote.filter (fun w => decide (x.epoch < w.2.2)),
    remoteSets := P.remoteSets.filter (fun r => decide (x.epoch < r.1)),
    released := x.epoch, base := cut, closed := P.closed.drop 1,
    faultsFromCut := 0, faultedCores := if P.replaying then P.faultedCores else [],
    replayMarks := if P.replaying then P.replayMarks else [] })).modPart p Part.settle

/-- Whether a held packet belongs to an epoch of a partition, at most the one given. -/
def Held.ofEpoch (h : Held) (p : Fin 4) (upTo : Nat) : Bool :=
  h.send.any (fun (x : Fin 4 × Option Cid × Nat × Nat) => decide (x.1 = p ∧ x.2.2.1 ≠ 0 ∧ x.2.2.1 ≤ upTo))

/-- Whether every packet that an epoch has sent has been acknowledged. -/
def Part.acknowledged (P : Part) (epoch : Nat) : Bool := P.sends.all (fun x => decide (x.epoch = 0 ∨ epoch < x.epoch))

/-- EPOCH_RELEASE (13 R359): in order, and not before its sends have left and are acknowledged. -/
def epochRelease (p : Fin 4) (s : State) : State :=
  match (s.part p).closed with
  | [] => s
  | x :: _ => if (s.part p).acknowledged x.epoch && !s.fab.held.any (fun h => h.ofEpoch p x.epoch) then s.release p x else s

/-! ### The step record (13 R389) -/

/-- Bytes read through the page tables in force; a byte that does not translate reads as 0. -/
def State.readNow (s : State) (p : Fin 4) (va n : Nat) : Bytes :=
  let pages := (List.range ((va + n - 1) / 2 ^ 21 + 1 - va / 2 ^ 21)).map (· + va / 2 ^ 21)
  s.readVa (pages.filterMap (fun g => (s.pageXlat p g).filter (fun x => s.mem.allowed p x false))) va n

/-- STEP_RECORD_WRITE: the armed counter has reached its value.
(Log: DEDUCED, unsafe, entry 95.) -/
def stepRecordWrite (p : Fin 4) (s : State) : State :=
  let P := s.part p
  let ctrl := P.stepRecordCtrl.toNat
  let va := fld P.stepRecordBase.toNat 6 46 * 64
  if P.live && bit ctrl 16 && P.satisfied (fld ctrl 0 16) (BitVec.ofNat 32 (fld ctrl 32 32)) &&
      !P.staged.any (fun x => x.device) then
    match s.obsAddr p va with
    | none => s
    | some pa =>
      let streams := fld P.streamTable.toNat 4 48 * 16
      let n := (fld P.streamTable.toNat 52 4 + 1) * 65536
      let m := fld P.scTableEntries.toNat 0 17 * 32
      let head := s.mem.read pa 0x18
      let body := head ++ fingerprint (blockCrcs (s.readNow p streams n)) n ++
        fingerprint (blockCrcs (s.readNow p (P.scEntry 0) m)) m
      let b := (body.drop 0x18) ++ toLe 4 (crc32c body)
      s.modPart p (fun P => { P with
        staged := P.staged ++ [{ epoch := P.openEpoch, device := true, addr := pa + 0x18, bytes := b }] })
  else s

/-- The meaning of EPOCH_WATCHDOG_CLOSE. -/
def execEpochWatchdogClose (p : Fin 4) (s : State) : Host.Outcome State Fault Refusal := .next (epochWatchdogClose p s)
/-- The meaning of CUT_CAPTURE. -/
def execCutCapture (p : Fin 4) (s : State) : Host.Outcome State Fault Refusal := .next (cutCapture p s)
/-- The meaning of EPOCH_RELEASE. -/
def execEpochRelease (p : Fin 4) (s : State) : Host.Outcome State Fault Refusal := .next (epochRelease p s)
/-- The meaning of STEP_RECORD_WRITE. -/
def execStepRecordWrite (p : Fin 4) (s : State) : Host.Outcome State Fault Refusal := .next (stepRecordWrite p s)

end Sys2Proof.Machine
end

