-- ==== Sys2Proof/Machine/Replay.lean ====
section
/-! DEFINITION. Replay and recovery: restores, strikes, retirement and spares, the third fault, drain rollbacks and a
failed stack (13 R367 to R382; 14 R419 to R421; 08 R217). -/

namespace Sys2Proof.Machine

/-! ### Physical cores (02 R43; 13 R378 to R380) -/

/-- The physical core of a logical id: the first 1,280 in order, four spares after each die's 320.
(Log: DESIGN CHOICE, unsafe, entry 21.) -/
def Cores.phys (k : Cores) (l : Nat) : Nat :=
  match k.moved.find? (fun x => x.1 == l) with
  | some x => x.2
  | none => 324 * (l / 320) + l % 320

/-- Where a logical id moves: its own first place is not listed. -/
def Cores.place (k : Cores) (l phys : Nat) : Cores :=
  { k with moved := if phys = 324 * (l / 320) + l % 320 then serase k.moved l else sinsert k.moved l phys }

/-- The partition that owns a logical core. -/
def State.coreOwner (s : State) (l : Nat) : Option (Fin 4) := (List.finRange 4).find? (fun p => (s.part p).ownsCore l)

/-- PARTITIONS of a record about a core. -/
def State.ownerBits (s : State) (l : Nat) : Nat := ((s.coreOwner l).map (fun p => 2 ^ p.val)).getD 0

/-- The copy of a core's side memory that Darn keeps (13 R365): of the last capture. -/
def Part.sideCopy (P : Part) : List (Nat × W64) :=
  match P.closed.getLast? with
  | some x => x.cut.side
  | none => P.base.side

/-- The side memory of a core as reloaded from its copy. -/
def State.reloadSide (s : State) (l : Nat) : State :=
  let copy := ((s.coreOwner l).map (fun p => (s.part p).sideCopy)).getD []
  let kept := s.cores.side.filter (fun x => x.1 / 8192 != l)
  { s with cores := { s.cores with
      side := (copy.filter (fun x => x.1 / 8192 == l)).foldl (fun m x => sinsert m x.1 x.2) kept } }

/-- Retire the physical core behind a logical id (13 R378 to R380): a spare of its die takes the id, or the id becomes
absent, its records are written and the replacement request is raised. The records carry the chunk of a row 1 fault that
led to them, the epoch replayed and the ticks of its recovery (Table 13.7).
(Log: DEDUCED, unsafe, entry 131.) -/
def State.retire (s : State) (cause l chunk epoch ns : Nat) : State :=
  let k := s.cores
  let phys := k.phys l
  let k := { k with retired := k.retired ++ [phys], strikes := k.strikes.filter (fun x => x.1 != phys) }
  match k.freeSpares (l / 320) with
  | sp :: _ =>
    let s := ({ s with cores := k.place l sp }.reloadSide l).lifeNote 1 (1 + l / 320) [phys, sp]
    (s.lifeNote 2 (1 + l / 320) [phys, cause]).health { Health.plain 4 cause (s.ownerBits l) phys s.tick with
      spare := sp, chunk := chunk, epoch := epoch, recovery := ns }
  | [] =>
    let s := { s with cores := { k with
      absent := k.absent ||| (1 <<< l), side := k.side.filter (fun x => x.1 / 8192 != l) } }
    ((s.lifeNote 2 (1 + l / 320) [phys, cause]).health
      { Health.plain 5 cause (s.ownerBits l) phys s.tick with chunk := chunk, epoch := epoch, recovery := ns }).replace cause 1

/-- Ticks of 24 hours. -/
def day : Nat := 86400000000000

/-- A strike against a physical core (13 R378). -/
def Cores.strike (k : Cores) (phys tick : Nat) : Cores :=
  { k with strikes := k.strikes.filter (fun x => decide (tick < x.2 + day)) ++ [(phys, tick)] }

/-- STRIKE_LAPSE (13 R378): a strike 24 hours old lapses.
(Log: DEDUCED, unsafe, entry 93.) -/
def strikeLapse (phys : Nat) (s : State) : State :=
  match s.cores.strikes.find? (fun x => x.1 == phys) with
  | none => s
  | some x =>
    let s := s.advance (x.2 + day)
    { s with cores := { s.cores with strikes := s.cores.strikes.filter (fun y => !(y.1 == phys && decide (y.2 + day ≤ s.tick))) } }

/-! ### Restore (13 R369, Table 13.4) -/

/-- A command that goes back to its beginning: its acceptance and what it read then stay (02 R39). One refused at its checks has
not started, and is not run again (02 R37).
(Log: DEDUCED, unsafe, entry 87; DEDUCED, unsafe, entry 91.) -/
def Entry.restart (e : Entry) : Entry :=
  { e with
    phase := .waiting,
    accepted := e.accepted && !(e.refused && decide (e.status = .unrecoverable)),
    refused := e.refused && decide (e.status ≠ .unrecoverable),
    status := if e.refused && decide (e.status ≠ .unrecoverable) then e.status else .ok,
    endTick := 0, epoch := 0, invalid := 0, overflow := 0, corr := 0, sat := 0, excs := [], signalHeld := false,
    replayed := e.replayed || !e.refused, coldScale := false, counterSat := false, excTruncated := false, threads := 0, detail := 0,
    snaps := [], unrebuildable := false, owed := [],
    sweep := e.sweep.map (fun w => { w with placed := 0, threads := [], retired := [], coreOf := [], coloc := none }),
    coll := e.coll.map (fun k => { k with enc := [], opened := false, regionsDone := [] }) }

/-- The co-location decision of a command goes back to the cut's, when the command ahead of it is still there to decide
it again. -/
def Entry.colocFrom (e : Entry) (old : Option Entry) (ahead : Bool) : Entry :=
  match old with
  | some o => { e with arrived := o.arrived, coloc := o.coloc, colocLost := o.colocLost }
  | none => if ahead then { e with arrived := false, coloc := none, colocLost := false } else e

/-- A command of a queue after a restore to a cut that holds it as `old`: in progress at the cut it goes on from there,
started later it goes back to its beginning, finished before it stays. One that a drain rolled back or cancelled, or that
ended with a failed stack, is not run again (14 R419, R420; 13 R376): its record takes the epoch that opens now.
(Log: DEDUCED, unsafe, entry 87.) -/
def Entry.restored (e : Entry) (old : Option Entry) (base : Nat) (ahead : Bool) : Entry :=
  let fromCut (o : Entry) : Entry := { o with
    replayed := true, queueStopped := e.queueStopped, resumed := e.resumed, signalHeld := false, afterCut := e.afterCut }
  if e.phase = .finished ∧ e.status = .cancelled then (if e.epoch < base then e else { e with epoch := 0 })
  else if e.phase = .finished ∧ (e.status = .rolledBack ∨ e.lost = true) then { e with epoch := min e.epoch base }
  else if e.lost then e
  else
    match old with
    | some o =>
      if o.phase = .finished then e
      else if o.phase = .running ∨ o.phase = .executed then fromCut o
      else if e.phase = .waiting then e.colocFrom old ahead
      else e.restart.colocFrom old ahead
    | none => if e.phase = .waiting then e.colocFrom none ahead else e.restart.colocFrom none ahead

/-- The commands of a queue after a restore. -/
def restoreEntries (cut : List Entry) (base : Nat) (l : List Entry) : List Entry :=
  l.map (fun e => e.restored (cut.find? (fun o => o.n == e.n)) base (l.any (fun x => decide ((x.n + 1) % 2 ^ 32 = e.n))))

/-- A queue after a restore: signals held by commands that run again are dropped. -/
def Queue.restored (Q : Queue) (cut : List Entry) (base : Nat) : Queue :=
  let l := restoreEntries cut base Q.entries
  { Q with entries := l, held := Q.held.filter (fun h => !l.any (fun e => decide (e.n = h.1 ∧ e.phase ≠ .finished))) }

/-- A group after a restore: the bank states and phase of the cut. -/
def Group.restored (G old : Group) : Group :=
  if G.created then { G with bankZero := old.bankZero, bankOne := old.bankOne, phaseB := old.phaseB } else G

/-- The state of a plan after a restore: a switch is undone, also of a plan loaded since; one in FAULT or cleared stays.
(Log: DEDUCED, unsafe, entry 81.) -/
def restoredPlan (now old : Nat) : Nat := if now = 1 ∨ now = 2 then (if old = 2 then 2 else 1) else now

/-- The fabric after a restore: plan states, and no packet held that the replay sends again.
(Log: DEDUCED, unsafe, entry 81.) -/
def Fab.restored (f : Fab) (p : Fin 4) (cut : Cut) (epoch : Nat) : Fab :=
  { f with
    planState := (List.range 16).foldl (fun m n =>
      if f.owner n = p.val then sset 0 m n (restoredPlan (sget 0 m n) (sget 0 cut.plans n)) else m) f.planState,
    held := f.held.filter (fun x => !x.ofEpoch p epoch) }

/-- Device memory after a restore: shadows newest first, so that the oldest of a block is what stays, then the send
entries of the flow table. -/
def Mem.restored (m : Mem) (p : Fin 4) (P : Part) (cut : Cut) : Mem :=
  let m := (P.shadows.filter (fun x => decide (P.released < x.epoch))).foldl Mem.restoreBlock m
  { m with
    bytes := cut.sendEntries.foldl (fun l x => sset 0 l x.1 x.2) (m.bytes.filter (fun x => !inSendHalf cut.sendRanges x.1)),
    pressQueue := m.pressQueue.filter (fun x => x.2.p != p) ++ cut.press }

/-- A shadow after a restore: a thread that has ended since the last released cut runs again, so that its shadow stays kept for
it (13 R363). -/
def Shadow.restored (released : Nat) (x : Shadow) : Shadow :=
  { x with kept := x.kept.map (fun k => (k.1, k.2.filter (fun r => decide (r ≤ released)))) }

/-- The partition after a restore to its last released cut: a remote signal received since then, which its sender does not
send again, is set again (02 R75).
(Log: DEDUCED, unsafe, entry 77; DEDUCED, unsafe, entry 87.) -/
def Part.restored (P : Part) : Part :=
  let cut := P.base
  let old (q : Nat) : List Entry := ((cut.queues.find? (fun x => x.1 == q)).map (·.2)).getD []
  let sets := P.remoteSets.map (fun r => (min r.1 cut.epoch, r.2.1, r.2.2))
  { P with
    counters := sets.foldr (fun r m => sset 0 m r.2.1 (maxW (sget 0 m r.2.1) r.2.2)) cut.counters,
    remoteSets := sets, wrote := [],
    groups := P.groups.map (fun g => (g.1, g.2.restored (sget Group.reset cut.groups g.1))),
    queues := P.queues.map (fun q => (q.1, q.2.restored (old q.1) cut.epoch)),
    shadows := (P.shadows.filter (fun x => decide (x.epoch ≤ P.released))).map (fun x => x.restored P.released),
    readMarks := P.readMarks.map (fun m => (m.1, m.2.1, m.2.2.1, min m.2.2.2 cut.epoch)),
    staged := [], stalls := cut.stalls, sends := P.sends.filter (fun x => decide (x.epoch = 0)),
    closed := [], closeRequest := none, openEpoch := cut.epoch, replays := min (P.replays + 1) 65535 }

/-- The threads of a partition that are resident once restored. -/
def rebuiltOps (w : Sweep) (h : Thread) : Nat :=
  ((List.range h.op).filter (fun i =>
    [0x01, 0x03, 0x10, 0x11, 0x12, 0x20, 0x30, 0x31, 0x43].contains (at_ (opAt w.prog i) 0 1))).length

/-- Rebuilt threads count their operations again, and the events these caused (13 R370; 15 R429, Table 15.3 event 18); their
COPY_MESH operations deliver to threads that are rebuilt alone.
(Log: DEDUCED, unsafe, entry 87.) -/
def State.countRebuild (s : State) (p : Fin 4) : State :=
  (s.part p).residents.foldl (fun s x =>
    match x.2.1.sweep with
    | none => s
    | some w =>
      let k := rebuiltOps w x.2.2
      let s := (s.tally 0 x.2.2.core 2 k).coreEvent p x.2.2.core 18 k (some x.2.1.cmd)
      x.2.2.events.foldl (fun s (y : Nat × Nat) =>
        if y.1 < 16 then s.coreEvent p x.2.2.core y.1 y.2 (some x.2.1.cmd)
        else
          match w.thread (y.1 - 16) with
          | some d => s.coreEvent p d.core 9 y.2 (some x.2.1.cmd)
          | none => s) s) s

/-- A thread that moves to another core: the block it had preloaded is gone with the array, and it loads it again (06 R179). -/
def Thread.moveTo (h : Thread) (core context : Nat) : Thread :=
  { h with core := core, context := context, preload := none, op := if h.preload.isSome then h.op - 1 else h.op }

/-- A thread resident on a core that has become absent goes on where its home moves (02 R46).
(Log: DEDUCED, unsafe, entry 94.) -/
def State.rehome (s : State) (p : Fin 4) : State :=
  ((s.part p).residents.filter (fun x => s.cores.absent.getLsbD x.2.2.core)).foldl (fun s x =>
    let core := (s.homeOf p x.2.2.core).getD x.2.2.core
    let context := (s.part p).freeContext core (Config.freeWord s.free).toNat
    { s with free := s.free + 1 }.modThread { cid := { p := p, q := x.1, n := x.2.1.n }, t := x.2.2.t }
      (fun h => h.moveTo core context)) s

/-- Commands with a thread that cannot be rebuilt complete as UNRECOVERABLE (13 R366, R369). -/
def State.settleRestored (s : State) (p : Fin 4) : State :=
  (s.part p).queues.foldl (fun (s : State) (q : Nat × Queue) => q.2.entries.foldl (fun (s : State) (e : Entry) =>
    let c : Cid := { p := p, q := q.1, n := e.n }
    let lost := (match e.sweep with | some w => w.threads.any (fun h => h.unreb) | none => false) && decide (e.phase = .running)
    if lost then (s.failCmd c .unrecoverable).modEntry c (fun e => { e with unrebuildable := true }) else s) s) s

/-- The restore step of 13 R369: partition p goes back to its last released cut.
(Log: DEDUCED, unsafe, entry 87.) -/
def State.restore (s : State) (p : Fin 4) : State :=
  let P := s.part p
  let s := { s with
    mem := s.mem.restored p P P.base, fab := s.fab.restored p P.base P.openEpoch,
    cores := { s.cores with retained := s.cores.retained.filter (fun r => r.cid.p != p) } }
  let s := (s.setPart p P.restored).tally 1 p.val 1 1
  let s := (s.part p).queues.foldl (fun s q => s.modPart p (fun P => P.reach q.1)) s
  (((s.rehome p).countRebuild p).settleRestored p).faultGone.fallBack p

/-! ### Recovery (13 R369 to R373) -/

/-- The slowest clock of the dies whose cores a partition has, at most Silk's 1,400 MHz, which is all that lengthens a replay; the
floor of throttling is 800 (17 R480, R481).
(Log: DESIGN CHOICE, safe, entry 88.) -/
def State.replayClock (s : State) (P : Part) : Nat :=
  ((List.finRange 4).filter (fun die => (List.range 320).any (fun k => P.cores.getLsbD (320 * die.val + k)))).foldl
    (fun m die => min m (max 800 (s.power.clocks.get die))) 1400

/-- The ticks a recovery takes, which the manual bounds (13 Table 13.5; 10 R287 for a Seam) when the release of the
replayed epoch was on time: 20 µs, for a Seam 18, and the replay, which grows as a throttled die slows (17 R481).
(Log: DESIGN CHOICE, safe, entry 88.) -/
def State.recoveryTime (s : State) (P : Part) (cause : Nat) : Nat :=
  let x := (Config.freeWord s.free).toNat
  let replay := (if P.capShort then 10000 else 30000) * 1400 / s.replayClock P
  if P.closed.isEmpty then x % ((if cause = 4 then 18000 else 20000) + replay + 1) else x % 2 ^ 32

/-- What the record of a command says of its run, which a restore has undone: whether it was re-executed, and of a sweep its
threads that ran and the cores they used (02 Tables 2.16, 2.17). -/
def Entry.ran (e : Entry) (before : Option Entry) : Entry :=
  match before with
  | none => e
  | some b =>
    let e := { e with replayed := b.replayed }
    match b.sweep with
    | none => e
    | some w => { e with threads := w.coreOf.length, detail := BitVec.ofNat 32 (w.coreOf.map (·.2)).eraseDups.length }

/-- A command of number `n` among those of a queue. -/
def findEntry (l : List Entry) (n : Nat) : Option Entry := l.find? (fun e => e.n == n)

/-- A command when the third fault from one cut ends it (13 R373): one refused at its checks never started, and keeps its
status; `before` is the command before the restore. -/
def Entry.givenUp (e : Entry) (before : Option Entry) (tick epoch : Nat) : Entry :=
  let done : Entry := { e.ran before with phase := .finished, epoch := epoch, sweep := none, owed := [] }
  if e.phase = .waiting ∧ e.refused = true then { done with endTick := e.startTick }
  else if e.phase = .running ∨ e.phase = .executed ∨ (e.phase = .waiting ∧ e.replayed = true) then
    { done with status := .unrecoverable, endTick := tick }
  else e

/-- Every command in progress at the cut or started after it completes as UNRECOVERABLE, and every queue stops: the
third fault from one cut (13 R373). The state is closed and released, and the record is written. `before` is the partition
before the restore.
(Log: DEDUCED, unsafe, entry 90.) -/
def State.giveUp (s : State) (before : Part) (p : Fin 4) (cause unit chunk flags tick : Nat) : State :=
  let epoch := (s.part p).openEpoch
  let ended (q : Nat) (e : Entry) : Entry := e.givenUp (findEntry (before.queue q).entries e.n) s.tick epoch
  let s := s.modPart p (fun P =>
    let queues := P.queues.map (fun (q : Nat × Queue) => (q.1, { q.2.halt with entries := q.2.entries.map (ended q.1) }))
    { P with queues := queues, stalls := [], drainDue := none }.freeKeptOf (fun _ => true))
  let s := (s.part p).queues.foldl (fun s q => s.modPart p (fun P => P.reach q.1)) s
  let s := { s with mem := { s.mem with pressQueue := s.mem.pressQueue.filter (fun x => x.2.p != p) } }
  let s := (s.stayBusy p).capture p
  let s := match (s.part p).closed with | [] => s | x :: _ => s.release p x
  s.health { Health.plain 3 cause (2 ^ p.val) unit tick with epoch := epoch, flags := flags, chunk := chunk }

/-- Recovery of one partition from a replayable fault detected at tick `t` (13 R369); `before` acts before the resumption, as a
spare substitution does, and is given the epoch that is replayed and the recovery's ticks, 0 where there is none.
(Log: DESIGN CHOICE, safe, entry 88.) -/
def State.recoverPart (s : State) (p : Fin 4) (cause unit chunk t : Nat) (before : Nat → Nat → State → State) : State :=
  let P := s.part p
  if P.state ≠ .enabled ∧ P.state ≠ .draining then before 0 0 s
  else
    let late := P.closed.any (fun x => decide (x.requested + 4000 < t))
    let flags := late.toNat + 2 * (decide (1 ≤ P.faultsFromCut)).toNat
    let r := s.recoveryTime P cause
    let age := t - P.openedAt
    let s := before P.base.epoch (if 2 ≤ P.faultsFromCut then 0 else r) { s with free := s.free + 1 }
    let s := s.restore p
    let s := s.modPart p (fun P => { P with faultsFromCut := P.faultsFromCut + 1 })
    if 3 ≤ (s.part p).faultsFromCut then s.giveUp P p cause unit chunk flags t
    else
      let s := s.advance (t + r)
      let s := s.modPart p (fun P => { P with openedAt := t + r - age })
      let epoch := (s.part p).openEpoch
      let s := s.trace p (t + r) 6 false false (toLe 8 epoch ++ toLe 4 r ++ zeros 2) (unitOf 1 p.val) cause
      s.health { Health.plain 1 cause (2 ^ p.val) unit t with epoch := epoch, recovery := r, chunk := chunk, flags := flags }

/-- Recovery of several partitions from one fault, which has one tick of detection. -/
def State.recoverMany (s : State) (who : Fin 4 → Bool) (cause unit : Nat) : State :=
  (List.finRange 4).foldl (fun u p => if who p then u.recoverPart p cause unit 0xFFFFFFFF s.tick (fun _ _ s => s) else u) s

/-- The started commands of a partition and how far each has come. -/
def Part.progressMarks (P : Part) : List (Nat × Nat × Nat) :=
  P.queues.flatMap (fun q => (q.2.entries.filter (fun e => decide (e.phase ≠ .waiting))).map (fun e => (q.1, e.n, e.progress)))

/-- A core's fault is noted, with the work that its replay does again; marks of a replay that has ended go.
(Log: DESIGN CHOICE, unsafe, entry 132.) -/
def Part.noteFault (P : Part) (phys : Nat) : Part :=
  { P with
    faultedCores := phys :: (if P.replaying then P.faultedCores else []),
    replayMarks := P.progressMarks ++ (if P.replaying then P.replayMarks else []) }

/-- Whether a core that faults now retires: its own fault is being replayed, or this is its third strike.
(Log: DEDUCED, unsafe, entry 93.) -/
def State.retires (s : State) (p : Fin 4) (phys : Nat) : Bool :=
  ((s.part p).faultedCores.contains phys && (s.part p).replaying) ||
    decide (3 ≤ ((s.cores.strike phys s.tick).strikes.filter (fun x => x.1 == phys)).length)

/-- A replayable fault of a core: a strike, and perhaps its retirement (13 R374, R378). An error in its side memory, which
the report does not tell from one in another memory of the core, has the rows reloaded from their copy: a free choice.
(Log: DESIGN CHOICE, safe, entry 133.) -/
def State.recoverCore (s : State) (p : Fin 4) (cause core chunk : Nat) : State :=
  let phys := s.cores.phys core
  let out := s.retires p phys
  let side := decide (cause = 2) && Config.freeBool s.free
  let s := { s with cores := s.cores.strike phys s.tick, free := s.free + 1 }.modPart p (fun P => P.noteFault phys)
  s.recoverPart p cause phys chunk s.tick (fun epoch ns s =>
    if out then s.retire cause core chunk epoch ns else if side then s.reloadSide core else s)

/-- The stacks whose copy controllers the pieces of a COPY run on (08 R232): of each 2 MiB of source the source's stack, or
for a host source the stacks of what that piece writes; from host to host or to an endpoint, H(4n) of the lowest die Jn with
cores of the partition. -/
def State.copyStacks (s : State) (p : Fin 4) (e : Entry) : List Nat :=
  let low := 4 * (((List.range 4).find? (fun d => (List.range 320).any (fun l => (s.part p).ownsCore (320 * d + l)))).getD 0)
  let device (g : Nat) : Option Nat := match locate e.xlats (g * 2 ^ 21) with | some (false, a) => some (stackOf a) | _ => none
  (copyPages e.cmd).flatMap (fun g =>
    match device g with
    | some k => [k]
    | none => if copyFabric e.cmd then [low]
      else match (s.pieceDst e g).filterMap device with | [] => [low] | l => l.eraseDups)

/-- Whether a partition has a command in progress on the unit of a buffer error (13 R372): a collective on the engine of
that Velac die (12 R348), a PRESS command in that stack's unit, or a COPY piece on that stack's controller.
(Log: DEDUCED, unsafe, entry 89.) -/
def State.onUnit (s : State) (unit : Nat) (collective press : Bool) (p : Fin 4) : Bool :=
  (s.part p).queues.any (fun q => q.2.entries.any (fun e =>
    (decide (e.phase = .running) || decide (e.phase = .executed)) &&
      (if collective then
        match e.coll with
        | none => false
        | some k => decide (coReduce e.cmd = false ∨ 4096 * unit < coN e.cmd k)
      else if press then s.mem.pressQueue.contains (unit, { p := p, q := q.1, n := e.n })
      else decide (cmdKind e.cmd = 0x02 ∧ e.status = .ok) && (s.copyStacks p e).contains unit)))

/-- The repair rows of a stack, which the manual does not count (13 R382): free.
(Log: DEDUCED, unsafe, entry 53.) -/
def repairRows (stack : Nat) : Nat := (Config.freeWord (2 ^ 62 + stack)).toNat

/-- Repair of an HBM row (13 R381): its record, and HBM_ROWS once fewer than a tenth of the repair rows remain.
(Log: DEDUCED, unsafe, entry 53.) -/
def State.repairRow (s : State) (stack row cause : Nat) : State :=
  let used := sget 0 s.mem.repairUsed stack + 1
  let owners := (List.finRange 4).foldl (fun n p =>
    n + (if s.mem.owner.any (fun x => decide (x.1 / 65536 = stack ∧ x.2 = p.val + 1)) then 2 ^ p.val else 0)) 0
  let s := { s with mem := { s.mem with
    repairUsed := sset 0 s.mem.repairUsed stack used, corrPasses := serase s.mem.corrPasses (stack * 2 ^ 32 + row) } }
  let s := ((s.tally 3 stack 6 1).lifeNote 5 (16 + stack) [row, cause]).health (Health.plain 7 cause owners stack s.tick)
  if (repairRows stack - used) * 10 < repairRows stack then s.replace 0 4 else s

/-- RECOVER: a replayable fault of 13 Table 13.6 as its detector reports it.
(Log: DEDUCED, unsafe, entry 89.) -/
def recover (f : FaultReport) (s : State) : State :=
  match f.cause with
  | 1 | 2 =>
    if (s.part f.p).ownsCore f.unit then
      s.recoverCore f.p f.cause f.unit (if f.cause = 1 then f.chunk else 0xFFFFFFFF)
    else s
  | 4 => s.recoverMany (fun _ => true) 4 f.unit
  | 5 | 6 => s.recoverPart f.p f.cause f.unit 0xFFFFFFFF s.tick (fun _ _ s => s)
  | 7 => ({ s with free := s.free + 1 }.repairRow f.unit (Config.freeWord s.free).toNat 7).recoverPart f.p 7 f.unit 0xFFFFFFFF s.tick (fun _ _ s => s)
  | 9 => s.recoverMany (s.onUnit f.unit f.collective f.press) 9 f.unit
  | _ => s

/-- CORE_HANG (13 R378): the core retires and its partition recovers.
(Log: DEDUCED, unsafe, entry 89.) -/
def coreHang (core : Nat) (s : State) : State :=
  if core < 1280 ∧ s.cores.absent.getLsbD core = false then
    let phys := s.cores.phys core
    match s.coreOwner core with
    | none => s.retire 3 core 0xFFFFFFFF 0 0
    | some p => s.recoverPart p 3 phys 0xFFFFFFFF s.tick (fun epoch ns s => s.retire 3 core 0xFFFFFFFF epoch ns)
  else s

/-! ### Drain rollback (14 R420, R421) -/

/-- The queues that a rollback serves: DRAINING past their limit, or all that drain when the partition's limit has
passed.
(Log: DEDUCED, unsafe, entry 91.) -/
def Part.overdue (P : Part) : List Nat :=
  (P.queues.filter (fun q => decide (q.2.state = .draining) && (q.2.drainDue.isSome || P.drainDue.isSome))).map (·.1)

/-- The tick of the first limit of a partition's drains. -/
def Part.firstLimit (P : Part) : Option Nat :=
  ((P.queues.filterMap (fun q => if q.2.state = .draining then q.2.drainDue else none)) ++ P.drainDue.toList).min?

/-- A command of a queue that a rollback ends; `before` is the command before the restore. One that had not started, a refused
one too, is cancelled; the others are not run again (14 R420).
(Log: DEDUCED, unsafe, entry 91.) -/
def Entry.rollBack (tick epoch : Nat) (before : Option Entry) (e : Entry) : Entry :=
  if e.phase = .finished then e
  else if e.phase = .waiting ∧ e.replayed = false then e.cancel
  else { e.ran before with
    phase := .finished, status := .rolledBack, endTick := tick, epoch := epoch, sweep := none, owed := [] }

/-- DRAIN_ROLLBACK: a queue is still DRAINING 100 µs after its DISABLE write.
(Log: DEDUCED, unsafe, entry 91.) -/
def drainRollback (p : Fin 4) (s : State) : State :=
  match (s.part p).firstLimit with
  | none => s
  | some t =>
    let s := s.advance t
    let whole := (s.part p).drainDue.any (fun d => decide (d ≤ s.tick))
    let due := (s.part p).overdue.filter (fun q => whole || (((s.part p).queue q).drainDue.any (fun d => decide (d ≤ s.tick))))
    let age := s.tick - (s.part p).openedAt
    let old := s.part p
    let s := s.restore p
    let s := due.foldl (fun s q => s.modQueue p q (fun Q => { Q with
      entries := Q.entries.map (fun e => e.rollBack s.tick (s.part p).openEpoch (findEntry (old.queue q).entries e.n)), sqTail := Q.head, rolledBack := true,
      drainDue := none })) s
    let s := { s with mem := { s.mem with pressQueue := s.mem.pressQueue.filter (fun x => !(x.2.p == p && due.contains x.2.q)) } }
    let s := s.modPart p (fun P => { P with
      stalls := P.stalls.filter (fun x => match x with
        | .thread i => !due.contains i.cid.q
        | .command c => !due.contains c.q),
      rolledBack := P.rolledBack || whole, drainDue := if whole then none else P.drainDue,
      openedAt := s.tick - age }.freeKeptOf (fun i => due.contains i.cid.q))
    let s := due.foldl (fun s q => s.modPart p (fun P => P.reach q)) s
    let s := if due.isEmpty then s else s.stayBusy p
    (s.modPart p (fun P => P.requestClose s.tick)).modPart p Part.settle

/-! ### Memory faults (13 R376, R381; 08 R217) -/

/-- A failed stack (13 R376): its frames are withheld, and every command of the partitions that own frames on it
completes as UNRECOVERABLE.
(Log: DEDUCED, unsafe, entry 54; DEDUCED, unsafe, entry 89.) -/
def stackFailure (stack : Fin 16) (s : State) : State :=
  let owners := (List.finRange 4).filter (fun p =>
    s.mem.owner.any (fun x => decide (x.1 / 65536 = stack.val ∧ x.2 = p.val + 1)))
  if s.mem.failed.getLsbD stack.val then s
  else
    let s := s.drift
    let s := { s with mem := { s.mem with
      failed := s.mem.failed ||| (1 <<< stack.val), pressQueue := s.mem.pressQueue.filter (fun x => x.1 != stack.val) } }
    let s := { s with parts := s.parts.map (fun (P : Part) =>
      { P with shadows := P.shadows.filter (fun x => decide (stackOf (x.block * 65536) ≠ stack.val)) }) }
    let s := owners.foldl (fun s p =>
      let s := (s.part p).queues.foldl (fun (s : State) (q : Nat × Queue) => q.2.entries.foldl (fun (s : State) (e : Entry) =>
        let c : Cid := { p := p, q := q.1, n := e.n }
        if e.phase = .finished then s
        else (if e.phase = .waiting then s.refuse c .unrecoverable else s.failCmd c .unrecoverable).modEntry c
          (fun e => { e with lost := true })) s) s
      let s := s.modPart p (fun P => { P with stalls := [] })
      s.health { Health.plain 2 10 (2 ^ p.val) stack.val s.tick with
        epoch := (s.part p).openEpoch, addr := stack.val * 2 ^ 37 }) s
    s.replace 10 0x20

/-- What the protection mode in force makes of errors in a sector (08 R216). -/
inductive EccVerdict where
  | corrected | uncorrectable | unstated
deriving DecidableEq, Repr

/-- Standard mode corrects one symbol and detects two; Strong corrects two, or every error on one data pin, and detects three;
of more the manual states nothing. -/
def Mem.verdict (m : Mem) (f : ScrubFinding) : EccVerdict :=
  if m.strongActive then
    if f.symbols ≤ 2 ∨ f.onePin = true then .corrected else if f.symbols = 3 then .uncorrectable else .unstated
  else if f.symbols ≤ 1 then .corrected else if f.symbols = 2 then .uncorrectable else .unstated

/-- A sector with an uncorrectable error: poisoned, and its row repaired (08 R217, 13 R381). -/
def State.uncorrectable (s : State) (stack : Nat) (f : ScrubFinding) : State :=
  let sec := f.pa / 64
  let s := { s with mem := { s.mem with poison := if s.mem.poison.contains sec then s.mem.poison else sec :: s.mem.poison } }
  ((s.tally 3 stack 4 1).lifeNote 4 (16 + stack) [f.pa, f.row]).repairRow stack f.row 8

/-- A sector with a corrected error, which a pass counts once for its row however many it meets there (13 R381). -/
def State.corrected (s : State) (stack : Nat) (f : ScrubFinding) (again : Bool) : State :=
  let k := stack * 2 ^ 32 + f.row
  let n := sget 0 s.mem.corrPasses k + 1
  let s := s.tally 3 stack 3 1
  if again then s
  else if 4 ≤ n then s.repairRow stack f.row 0
  else { s with mem := { s.mem with corrPasses := sset 0 s.mem.corrPasses k n } }

/-- Errors beyond what the mode detects: taken as uncorrectable, or unnoticed with the sector's bytes free.
(Log: DESIGN CHOICE, safe, entry 134.) -/
def State.beyond (s : State) (stack : Nat) (f : ScrubFinding) : State :=
  let u := { s with free := s.free + 65 }
  if Config.freeBool s.free then u.uncorrectable stack f
  else { u with mem := { u.mem with
    bytes := swrite u.mem.bytes (f.pa / 64 * 64) ((List.range 64).map (fun i => Config.freeByte (s.free + 1 + i))) } }

/-- The findings of one pass in order; `seen` are the rows whose correction it has counted. -/
def State.scrub (s : State) (stack : Nat) : List Nat → List ScrubFinding → State
  | _, [] => s
  | seen, f :: r =>
    if f.symbols = 0 then s.scrub stack seen r
    else match s.mem.verdict f with
      | .corrected => (s.corrected stack f (seen.contains f.row)).scrub stack (f.row :: seen) r
      | .uncorrectable => (s.uncorrectable stack f).scrub stack seen r
      | .unstated => (s.beyond stack f).scrub stack seen r

/-- PATROL_SCRUB (08 R217; 13 R381): a row with an uncorrectable error, or with corrected errors in four passes, is
repaired. -/
def patrolScrub (stack : Fin 16) (found : List ScrubFinding) (s : State) : State := s.scrub stack.val [] found

/-! ### Stalled engines (13 R364) -/

/-- A stalled engine of a command goes on with its writes; once they are made, so does the command. -/
def State.retryCmd (s : State) (c : Cid) (e : Entry) : State :=
  let s := if e.owed = [] then s else s.engineResume c (e.writer c) e.xlats e.owed
  if !s.written c then s
  else if e.done then s.finishRest c
  else if e.phase ≠ .running then s
  else
    match cmdKind e.cmd with
    | 0x02 => s.copyEnd c
    | 0x05 =>
      match s.mem.pressQueue.find? (fun y => y.2 == c) with
      | none => s
      | some y => (s.pressEnd c).pressUnit y.1 6
    | _ =>
      match e.coll with
      | none => s
      | some k =>
        if !k.opened then s.collOpen c
        else ((List.range (layoutOf e.cmd k).length).foldl (fun s i => s.collRegion c i) s).collSettle c

/-- A stalled engine tries its write again. -/
def State.retry (s : State) (x : Stall) : State :=
  match x with
  | .thread i =>
    match s.entry i.cid with
    | none => s
    | some e =>
      match e.sweep with
      | none => s
      | some w =>
        match w.thread i.t with
        | none => s
        | some h =>
          match at_ (opAt w.prog h.op) 0 1 with
          | 0x02 => copyOut i s
          | 0x30 => rowFwd i s
          | _ => rowBwd i s
  | .command c =>
    match s.entry c with
    | none => s
    | some e => s.retryCmd c e

/-- What a stalled engine has still to write, and the rows it has done. -/
def State.owedBy (s : State) (x : Stall) : List (Bool × Nat × Bytes) × List (Nat × Bytes) × Nat :=
  match x with
  | .thread i =>
    match s.threadOf i with
    | none => ([], [], 0)
    | some h => ([], h.owed, h.done)
  | .command c => (((s.entry c).map (·.owed)).getD [], [], 0)

/-- SHADOW_BLOCK_FREED (13 R364): the first stalled engine whose write finds a free block goes on, up to the next write that
finds none. -/
def shadowBlockFreed (p : Fin 4) (s : State) : State :=
  let tries := (s.part p).stalls.map (fun x =>
    (x, (s.modPart p (fun P => { P with stalls := P.stalls.erase x })).retry x))
  match tries.find? (fun y => !(y.2.part p).stalls.contains y.1 || decide (y.2.owedBy y.1 ≠ s.owedBy y.1)) with
  | none => s
  | some y => y.2

/-- The meaning of RECOVER. -/
def execRecover (f : FaultReport) (s : State) : Host.Outcome State Fault Refusal := .next (recover f s)
/-- The meaning of CORE_HANG. -/
def execCoreHang (core : Nat) (s : State) : Host.Outcome State Fault Refusal := .next (coreHang core s)
/-- The meaning of STRIKE_LAPSE. -/
def execStrikeLapse (phys : Nat) (s : State) : Host.Outcome State Fault Refusal := .next (strikeLapse phys s)
/-- The meaning of DRAIN_ROLLBACK. -/
def execDrainRollback (p : Fin 4) (s : State) : Host.Outcome State Fault Refusal := .next (drainRollback p s)
/-- The meaning of STACK_FAILURE. -/
def execStackFailure (stack : Fin 16) (s : State) : Host.Outcome State Fault Refusal := .next (stackFailure stack s)
/-- The meaning of PATROL_SCRUB. -/
def execPatrolScrub (stack : Fin 16) (found : List ScrubFinding) (s : State) : Host.Outcome State Fault Refusal :=
  .next (patrolScrub stack found s)
/-- The meaning of SHADOW_BLOCK_FREED. -/
def execShadowBlockFreed (p : Fin 4) (s : State) : Host.Outcome State Fault Refusal := .next (shadowBlockFreed p s)

end Sys2Proof.Machine
end

