-- ==== Sys2Proof/Machine/Seam.lean ====
section
/-! DEFINITION. Seams: flits and retry, control words, lane maps, retraining and the partial reset of an adapter (10 R270
to R290; 14 R424). -/

namespace Sys2Proof.Machine

/-! ### The Seams of the package (10 R270) -/

/-- Modules of a Seam (10 Table 10.1). -/
def seamModules (i : Nat) : Nat := if i < 4 then 1 else if i < 8 then 24 else 8

/-- The rank of a Seam's lower-ranked end.
(Log: DEDUCED, unsafe, entry 67.) -/
def seamLower (i : Nat) : Nat :=
  if i < 4 then 0 else if i = 7 then 1 else if i < 7 then i - 3 else i - 7

/-- Flits of a retry buffer: twice the depth at package level 5 (10 Tables 10.1, 10.12). -/
def seamDepth (i level : Nat) : Nat := (if i < 4 then 1024 else if i < 8 then 8192 else 4096) * (if level = 5 then 2 else 1)

/-- One direction of a Seam. -/
def Seam.dir (x : Seam) : Dir → SeamDir
  | .ab => x.ab
  | .ba => x.ba

/-- Replace one direction. -/
def Seam.setDir (x : Seam) (d : Dir) (v : SeamDir) : Seam :=
  match d with
  | .ab => { x with ab := v }
  | .ba => { x with ba := v }

/-- The other direction. -/
def otherDir : Dir → Dir
  | .ab => .ba
  | .ba => .ab

/-- Change a Seam. -/
def State.modSeam (s : State) (i : Fin 12) (f : Seam → Seam) : State := { s with seams := s.seams.set i (f s.seams[i]) }

/-! ### Lane maps (10 R280 to R283) -/

/-- Insert a number in rising order, once. -/
def insertNat (n : Nat) : List Nat → List Nat
  | [] => [n]
  | m :: r => if n < m then n :: m :: r else if n = m then m :: r else m :: insertNat n r

/-- Mark a lane of a module bad: the fifth bad data lane, a lane and its redundant copy both bad, or an untrained
sideband disables the module (10 R281). -/
def ModEntry.mark (e : ModEntry) (lane : Nat) : ModEntry :=
  if lane < 68 then
    let l := insertNat lane e.bad
    { e with bad := l.take 4, disabled := e.disabled || decide (4 < l.length) }
  else if lane < 74 then
    let l := insertNat lane e.aux
    { e with aux := l, disabled := e.disabled || [68, 69, 70].any (fun k => l.contains k && l.contains (k + 3)) }
  else { e with disabled := true }

/-- The module entries of a direction. -/
def LaneMap.entries (m : LaneMap) : Dir → SMap ModEntry
  | .ab => m.ab
  | .ba => m.ba

/-- Replace the module entries of a direction. -/
def LaneMap.setEntries (m : LaneMap) (d : Dir) (l : SMap ModEntry) : LaneMap :=
  match d with
  | .ab => { m with ab := l }
  | .ba => { m with ba := l }

/-- The good control lanes of a direction. -/
def LaneMap.control (m : LaneMap) : Dir → BitVec 4
  | .ab => m.ctrlAB
  | .ba => m.ctrlBA

/-- Replace the good control lanes of a direction. -/
def LaneMap.setControl (m : LaneMap) (d : Dir) (v : BitVec 4) : LaneMap :=
  match d with
  | .ab => { m with ctrlAB := v }
  | .ba => { m with ctrlBA := v }

/-- Mark the lanes of a test result bad. -/
def LaneMap.mark (m : LaneMap) (r : LaneResult) : LaneMap :=
  if r.module = 31 then m.setControl r.dir (r.lanes.foldl (fun (v : BitVec 4) k => v &&& ~~~(1#4 <<< k)) (m.control r.dir))
  else
    m.setEntries r.dir (sset ModEntry.fresh (m.entries r.dir) r.module
      (r.lanes.foldl ModEntry.mark (sget ModEntry.fresh (m.entries r.dir) r.module)))

/-- Both entries' bad lanes in one. -/
def ModEntry.union (a b : ModEntry) : ModEntry :=
  let e := (b.bad ++ b.aux).foldl ModEntry.mark a
  { e with disabled := e.disabled || b.disabled }

/-- The map in which a lane that either of two maps marks bad is bad (10 R285), with the first's generation. -/
def LaneMap.union (a b : LaneMap) : LaneMap :=
  let go (x y : SMap ModEntry) : SMap ModEntry :=
    (List.range 24).foldl (fun l k =>
      sset ModEntry.fresh l k ((sget ModEntry.fresh x k).union (sget ModEntry.fresh y k))) []
  { generation := a.generation, ab := go a.ab b.ab, ba := go a.ba b.ba, ctrlAB := a.ctrlAB &&& b.ctrlAB,
    ctrlBA := a.ctrlBA &&& b.ctrlBA }

/-- A module entry as the map packs it (10 Table 10.8). -/
def ModEntry.word (e : ModEntry) : Nat :=
  let lane (k : Nat) : Nat := e.bad.getD k 127
  lane 0 + lane 1 * 2 ^ 7 + lane 2 * 2 ^ 14 + lane 3 * 2 ^ 21 + e.disabled.toNat * 2 ^ 28 +
    (!e.disabled && e.aux.any (· < 71)).toNat * 2 ^ 29

/-- A lane map as adapters and non-volatile memory hold it (10 Table 10.7). -/
def LaneMap.bytes (m : LaneMap) (i : Nat) : Bytes :=
  let entries (d : Dir) : Bytes :=
    (List.range (seamModules i)).flatMap (fun k => toLe 4 (sget ModEntry.fresh (m.entries d) k).word)
  toLe 2 m.generation.toNat ++ toLe 1 i ++ toLe 1 (seamModules i) ++ zeros 4 ++ entries .ab ++ entries .ba ++
    toLe 4 m.ctrlAB.toNat ++ toLe 4 m.ctrlBA.toNat

/-- Whether two maps say the same of every lane, whatever their generations. -/
def LaneMap.same (a b : LaneMap) : Bool := { a with generation := b.generation } == b

/-- GENERATION + 1, saturating (10 R283). -/
def LaneMap.next (m : LaneMap) : W16 := if m.generation = 65535 then 65535 else m.generation + 1

/-- Lanes on which two maps differ, as 128 × module + lane: every lane of a module disabled in one only (10 R285).
(Log: DESIGN CHOICE, unsafe, entry 160.) -/
def disputes (a b : LaneMap) (d : Dir) : List (Dir × Nat) :=
  let mods := (List.range 24).flatMap (fun k =>
    let x := sget ModEntry.fresh (a.entries d) k
    let y := sget ModEntry.fresh (b.entries d) k
    if x.disabled ≠ y.disabled then (List.range 68).map (fun l => (d, 128 * k + l))
    else ((List.range 74).filter (fun l =>
      (x.bad.contains l || x.aux.contains l) != (y.bad.contains l || y.aux.contains l))).map (fun l => (d, 128 * k + l)))
  let ctrl := ((List.range 4).filter (fun l => (a.control d).getLsbD l != (b.control d).getLsbD l)).map (fun l => (d, 128 * 31 + l))
  mods ++ ctrl

/-- What a module may not use: the lanes that either end's map marks bad, and its disputed lanes (10 R285, R288). -/
def Seam.entry (x : Seam) (d : Dir) (k : Nat) : ModEntry :=
  let e := (sget ModEntry.fresh (x.mapA.entries d) k).union (sget ModEntry.fresh (x.mapB.entries d) k)
  let lanes := (x.disputed.filter (fun y => decide (y.1 = d ∧ y.2 / 128 = k))).map (fun y => y.2 % 128)
  lanes.foldl ModEntry.mark e

/-- Whether a module can be in its direction's stripe (10 R281). -/
def Seam.usable (x : Seam) (d : Dir) (k : Nat) : Bool := !(x.entry d k).disabled

/-- The usable modules of a direction of Seam i, in increasing number. -/
def Seam.usables (x : Seam) (i : Nat) (d : Dir) : List Nat := (List.range (seamModules i)).filter (x.usable d)

/-- Usable modules of a direction of Seam i. -/
def Seam.modules (x : Seam) (i : Nat) (d : Dir) : Nat := (x.usables i d).length

/-- The good control lanes of a direction, in increasing number. -/
def Seam.controls (x : Seam) (d : Dir) : List Nat :=
  (List.range 4).filter (fun l => (x.mapA.control d).getLsbD l && (x.mapB.control d).getLsbD l &&
    !x.disputed.contains (d, 128 * 31 + l))

/-- Whether a Seam can run (10 R281): a usable module and two good control lanes in each direction. -/
def Seam.canRun (x : Seam) (i : Nat) : Bool :=
  [Dir.ab, Dir.ba].all (fun d => decide (1 ≤ x.modules i d) && decide (2 ≤ (x.controls d).length))

/-- Whether a Seam runs on fewer than half its modules in a direction. -/
def Seam.thin (x : Seam) (i : Nat) : Bool := [Dir.ab, Dir.ba].any (fun d => decide (2 * x.modules i d < seamModules i))

/-- SEAM_STATUS (10 Table 10.11). -/
def Seam.status (x : Seam) (i : Nat) : Nat :=
  x.modules i .ab + 32 * x.modules i .ba + 1024 * x.linkUp.toNat + 2048 * x.retraining.toNat +
    4096 * (!x.disputed.isEmpty).toNat + 8192 * x.down.toNat + 65536 * x.mapA.generation.toNat

/-! ### Flits (10 R273 to R277) -/

/-- The 252 bytes a flit's CRC covers. -/
def flitBytes (f : Flit) : Bytes :=
  toLe 4 (f.seq.toNat + f.stream.toNat * 2 ^ 16 + f.crStream.toNat * 2 ^ 20 + f.crCount.toNat * 2 ^ 24) ++ f.payload

/-- Whether a flit's CRC holds. -/
def flitOk (f : Flit) : Bool := decide (f.crc.toNat = crc32c (flitBytes f))

/-- Whether sequence number a is before b, modulo 2^16. -/
def seqBefore (a b : Nat) : Bool := decide (0 < (b + 65536 - a) % 65536 ∧ (b + 65536 - a) % 65536 ≤ 32768)

/-- Counter places of a direction in a Seam's section (15 Table 15.2): FLITS, CRC_ERRORS, RESENDS. -/
def seamCtr : Dir → Nat
  | .ab => 0
  | .ba => 3

/-- The streams that a Seam carries (10 Table 10.6). -/
def seamStreams (i : Nat) : List Nat := if i < 4 then [1, 4, 5, 6] else if i < 8 then [0, 1, 2, 4, 6] else [1, 2, 3, 6]

/-- The module that carries flit n (10 R275): the usable module of rank n mod U, in the stripe that n falls under. -/
def SeamDir.moduleOf (v : SeamDir) (n : Nat) : Nat :=
  let l := ((v.stripes.find? (fun y => decide (y.1 ≤ n))).elim [] (·.2))
  l.getD (n % l.length) 0

/-- The physical lane that logical data lane l of a module in use takes (10 R281). -/
def SeamDir.laneOf (v : SeamDir) (k l : Nat) : Nat :=
  ((List.range 68).filter (fun n => !(sget [] v.lanes k).contains n)).getD l 0

/-- Whether the transmitter holds a credit for a flit; an idle flit needs none (10 R277). -/
def SeamDir.holds (v : SeamDir) (f : Flit) : Bool := decide (f.stream = 15) || decide (0 < sget 0 v.credits f.stream.toNat)

/-- The credit of a flit's stream is spent. -/
def SeamDir.spend (v : SeamDir) (f : Flit) : SeamDir :=
  if f.stream = 15 then v
  else { v with credits := sset 0 v.credits f.stream.toNat (sget 0 v.credits f.stream.toNat - 1) }

/-- Whether a flit that arrives is one its transmitter had not sent before: a good flit by its number, a bad one when no resent
flit is on its way and the retry buffer has room (10 R276).
(Log: DEDUCED, unsafe, entry 64.) -/
def SeamDir.isNew (v : SeamDir) (depth : Nat) (f : Flit) (good : Bool) : Bool :=
  if good then decide (f.seq.toNat = v.txNext % 65536)
  else decide (v.resending = 0) && decide (v.retry.length < depth) && (v.nacked || decide (v.txNext = v.rxExpected))

/-- Whether the transmitter can have sent the flit that arrives: a new one with room in the retry buffer and a credit of its
stream, one of the buffer as it was sent, or a bad one, which may be either.
(Log: DEDUCED, unsafe, entry 64.) -/
def SeamDir.mayArrive (v : SeamDir) (depth : Nat) (f : Flit) (good : Bool) : Bool :=
  !good || (if v.isNew depth f good then decide (v.retry.length < depth) && v.holds f
    else v.retry.any (fun r => decide (r.seq % 65536 = f.seq.toNat) &&
      match r.flit with
      | some g => g == f
      | none => v.holds f))

/-- The transmitter's side of a flit that arrives: a new one has been numbered, is kept, and has spent a credit of its stream;
any other is one of those it has resent. Of a flit whose first copy arrived bad the contents, and so the stream whose credit it
took, show when a copy arrives good.
(Log: DEDUCED, unsafe, entry 64.) -/
def SeamDir.sent (v : SeamDir) (depth : Nat) (f : Flit) (good : Bool) (tick : Nat) : SeamDir :=
  if v.isNew depth f good then
    let w := { v with
      txNext := v.txNext + 1,
      retry := v.retry ++ [{ seq := v.txNext, flit := if good then some f else none, resends := 0 }],
      progressAt := if v.retry.isEmpty then tick else v.progressAt }
    if good then w.spend f else w
  else
    let v := { v with resending := v.resending - 1 }
    if good && v.retry.any (fun r => decide (r.seq % 65536 = f.seq.toNat) && r.flit.isNone) then
      { v with retry := v.retry.map (fun (r : RetryFlit) => if r.seq % 65536 = f.seq.toNat then { r with flit := some f } else r) }.spend f
    else v

/-- The credits that a flit returns to the opposite direction (10 Table 10.5). -/
def SeamDir.returned (v : SeamDir) (i : Nat) (f : Flit) : SeamDir :=
  let k := f.crStream.toNat
  if (seamStreams i).contains k then { v with credits := sset 0 v.credits k (sget 0 v.credits k + f.crCount.toNat) } else v

/-- SEAM_FLIT_RECEIVE (10 R276, R277): a flit arrives at the receiver of a direction. A bad flit draws a negative
acknowledgement at once, unless one is out whose resend has not begun; it and every flit after it are discarded until the
resend of the flit expected arrives good.
(Log: DEDUCED, unsafe, entry 64.) -/
def seamFlitReceive (i : Fin 12) (d : Dir) (f : Flit) (s : State) : State :=
  let x := s.seams[i]
  let good := flitOk f
  let depth := seamDepth i s.packageLevel.toNat
  if !(x.linkUp && (x.dir d).mayArrive depth f good) then s
  else
    let v := (x.dir d).sent depth f good s.tick
    if !good then
      let s := s.tally 5 i (seamCtr d + 1) 1
      if v.nacked then s.modSeam i (fun x => x.setDir d v)
      else (s.modSeam i (fun x => x.setDir d { v with nacked := true })).emit (.seamNack i d (v.rxExpected % 65536))
    else if f.seq.toNat ≠ v.rxExpected % 65536 then s.modSeam i (fun x => x.setDir d v)
    else
      let v := { v with
        rxExpected := v.rxExpected + 1, nacked := false, sinceAck := v.sinceAck + 1, ackDue := some (s.tick + 100),
        delivered := if f.stream.toNat ≤ 6 then (f.stream.toNat, f.payload) :: v.delivered else v.delivered }
      let full := decide (64 ≤ v.sinceAck)
      let v := if full then { v with sinceAck := 0, ackDue := none } else v
      let s := ((s.tally 5 i (seamCtr d) 1).modSeam i (fun x => x.setDir d v)).modSeam i (fun x =>
        x.setDir (otherDir d) ((x.dir (otherDir d)).returned i f))
      if full then s.emit (.seamAck i d (v.rxExpected % 65536)) else s

/-- SEAM_ACK_TIMER: 100 ns have passed since the last good flit. -/
def seamAckTimer (i : Fin 12) (d : Dir) (s : State) : State :=
  let v := s.seams[i].dir d
  match v.ackDue with
  | none => s
  | some t =>
    ((s.advance t).modSeam i (fun x => x.setDir d { v with sinceAck := 0, ackDue := none })).emit
      (.seamAck i d (v.rxExpected % 65536))

/-- SEAM_ACK_RECEIVE: every flit before the number acknowledged leaves the retry buffer. -/
def seamAckReceive (i : Fin 12) (d : Dir) (seq : Nat) (s : State) : State :=
  s.modSeam i (fun x =>
    let v := x.dir d
    let l := v.retry.filter (fun r => !seqBefore (r.seq % 65536) (seq % 65536))
    x.setDir d { v with retry := l, progressAt := if l.length < v.retry.length then s.tick else v.progressAt })

/-- SEAM_NACK_RECEIVE: the transmitter resends from the named flit on, in order, each on the module of its number. From then
on a flit that fails its CRC draws a negative acknowledgement of its own. -/
def seamNackReceive (i : Fin 12) (d : Dir) (seq : Nat) (s : State) : State :=
  let v := s.seams[i].dir d
  let again (r : RetryFlit) : Bool := !seqBefore (r.seq % 65536) (seq % 65536)
  if !s.seams[i].linkUp ∨ v.retry.any (fun r => again r && decide (4 ≤ r.resends)) = true then s
  else
    let l := v.retry.map (fun r => if again r then { r with resends := r.resends + 1 } else r)
    let s := (s.modSeam i (fun x => x.setDir d { v with
      retry := l, nacked := false, resending := v.resending + (v.retry.filter again).length })).tally 5 i (seamCtr d + 2) (v.retry.filter again).length
    (v.retry.filter again).foldl (fun s r => s.emit (.seamFlit i d (v.moduleOf r.seq) (r.seq % 65536) r.flit)) s

/-! ### Faults and retraining (10 R284 to R289) -/

/-- The Seam stops: flits in flight, retry buffers and pending proposals are discarded, and sequence numbers restart. The
control lanes go on (10 R279). -/
def Seam.stop (x : Seam) : Seam :=
  let clear (v : SeamDir) : SeamDir :=
    { SeamDir.fresh with delivered := v.delivered, active := v.active, words := v.words }
  { x with linkUp := false, retraining := true, pendingA := none, pendingB := none, ab := clear x.ab, ba := clear x.ba }

/-- A Seam fault, or an adapter that has left a partial reset: the retraining begins. -/
def State.seamFault (s : State) (i : Fin 12) : State :=
  if s.seams[i].down then s else s.drift.modSeam i Seam.stop

/-- SEAM_RETRY_EXHAUSTED (10 R276): a flit resent four times, or no progress for 2 µs while flits are outstanding. -/
def seamRetryExhausted (i : Fin 12) (d : Dir) (s : State) : State :=
  let v := s.seams[i].dir d
  if !s.seams[i].linkUp ∨ v.retry.isEmpty = true then s
  else if v.retry.any (fun r => decide (4 ≤ r.resends)) then s.seamFault i
  else (s.advance (v.progressAt + 2000)).seamFault i

/-- How many bits of a control word are wrong. The manual names a code that corrects one error and detects two but not
its matrix, so the syndrome is free (10 R279).
(Log: DESIGN CHOICE, safe, entry 63.) -/
def wordErrors (w : BitVec 40) : Nat := Config.codeErrors (w.toNat)

/-- CONTROL_WORD_RECEIVE (10 R279): the word's message is delivered; a single-bit error is corrected and counted, and a
double-bit error is a Seam fault.
(Log: DEDUCED, unsafe, entry 65.) -/
def controlWordReceive (i : Fin 12) (d : Dir) (w : BitVec 40) (s : State) : State :=
  let x := s.seams[i]
  if x.down || decide ((x.dir d).active.length < 2) then s
  else if 1 < wordErrors w then s.seamFault i
  else
    let s := if wordErrors w = 1 then s.tally 5 i 7 1 else s
    s.modSeam i (fun x => x.setDir d { x.dir d with words := Config.codeData w.toNat :: (x.dir d).words })

/-- The number of a direction in a repair. -/
def dirBit : Dir → Nat
  | .ab => 0
  | .ba => 1

/-- The lanes that a test result names, as repairs of Seam i. -/
def LaneResult.repairs (i : Nat) (r : LaneResult) : List Repair :=
  r.lanes.map (fun l => { unit := i, dir := dirBit r.dir, module := r.module, lane := l })

/-- The lanes that one map marks bad and another does not, as repairs of Seam i. -/
def LaneMap.repairs (i : Nat) (old new : LaneMap) : List Repair :=
  [Dir.ab, Dir.ba].flatMap (fun d =>
    (List.range (seamModules i)).flatMap (fun k =>
      let x := sget ModEntry.fresh (old.entries d) k
      let y := sget ModEntry.fresh (new.entries d) k
      ((y.bad ++ y.aux).filter (fun l => !(x.bad ++ x.aux).contains l)).map (fun l =>
        { unit := i, dir := dirBit d, module := k, lane := l })) ++
    ((List.range 4).filter (fun l => (old.control d).getLsbD l && !(new.control d).getLsbD l)).map (fun l =>
      { unit := i, dir := dirBit d, module := 31, lane := l }))

/-- Repairs enter the die inventory and, each with its physical lane, module, direction and Seam, the lane-repair history
(10 R296).
(Log: DEDUCED, unsafe, entry 67.) -/
def State.noteRepairs (s : State) (die : Nat) (l : List Repair) : State :=
  l.foldl (fun s r =>
    { s with life := { s.life with
      inventory := if s.life.inventory.contains r then s.life.inventory else s.life.inventory ++ [r] } }.lifeNote 3 die
      [r.unit, r.dir, r.module, r.lane]) s

/-- The ends exchange and reconcile their maps (10 R285): the higher generation wins, the lower-ranked end's at equal
generations, and the lanes on which they differ are disputed. -/
def Seam.reconcile (x : Seam) : Seam :=
  let win := if x.mapA.generation.toNat < x.mapB.generation.toNat then x.mapB else x.mapA
  let new := disputes x.mapA x.mapB .ab ++ disputes x.mapA x.mapB .ba
  { x with mapA := win, mapB := win, disputed := x.disputed.filter (fun y => !new.contains y) ++ new }

/-- A failing lane becomes a local mark of the end that receives it (10 R283, R286).
(Log: DEDUCED, unsafe, entry 65.) -/
def Seam.localMark (x : Seam) (r : LaneResult) : Seam :=
  match r.dir with
  | .ab => { x with mapB := x.mapB.mark r }
  | .ba => { x with mapA := x.mapA.mark r }

/-- A direction at link-up (10 R277, R279, R281, R286): the credits advertised to its streams, the stripe over its usable
modules, the lanes these use, and its two active control lanes. -/
def Seam.dirUp (x : Seam) (i : Nat) (d : Dir) : SeamDir :=
  let mods := x.usables i d
  { x.dir d with
    credits := (seamStreams i).foldl (fun m k => sset 0 m k (Config.seamCredits i (decide (d = .ab)) k)) [],
    stripes := [(0, mods)], lanes := mods.foldl (fun l k => sset [] l k (x.entry d k).bad) [],
    active := (x.controls d).take 2 }

/-- The link is up. -/
def Seam.up (x : Seam) (i : Nat) : Seam :=
  { x with linkUp := true, retraining := false, ab := x.dirUp i .ab, ba := x.dirUp i .ba }

/-- Fabric ports that are lost. -/
def State.lostPorts (s : State) : Nat := ((List.range 32).filter s.portGone).length

/-- The partition with a number. -/
def partOf (n : Nat) : Fin 4 := Fin.ofNat 4 n

/-- Raise the replacement request for lost ports. -/
def State.checkPorts (s : State) : State := if 4 ≤ s.lostPorts then s.replace 6 8 else s

/-- The ACTIVE plans that use one of the eight ports of a Velac die that cannot be reached go to FAULT: those ports count as
lost (10 R289; 11 R329). -/
def Fab.faultVelac (f : Fab) (k : Nat) : Fab :=
  (List.range 8).foldl (fun f j => (List.range 16).foldl (fun f n => f.faultPlan (8 * k + j) n) f) f

/-- The link comes up on the lanes that remain, or the Seam is declared down (10 R286, R289). -/
def State.seamUp (s : State) (i : Fin 12) : State :=
  let s := s.drift
  let x := s.seams[i]
  if x.canRun i then
    let s := s.modSeam i (fun x => x.up i)
    if x.thin i then s.replace 4 16 else s
  else
    let s := (s.modSeam i (fun x => { x with linkUp := false, retraining := false, down := true })).replace 4 16
    if 8 ≤ i.val then
      ((List.finRange 4).foldl State.fallBack { s with fab := s.fab.faultVelac (i - 8) }).checkPorts
    else s

/-- The tick by which a retraining's link is up.
(Log: DEDUCED, unsafe, entry 65.) -/
def retrainTime : Nat := 12000

/-- SEAM_RETRAINING (10 R284 to R286): every partition is fenced and replays, the maps are reconciled, lanes that fail
the check pattern are marked, and the link comes up or the Seam is down.
(Log: DEDUCED, unsafe, entry 65.) -/
def seamRetraining (i : Fin 12) (failing : List LaneResult) (s : State) : State :=
  if !s.seams[i].retraining then s
  else
    let t := s.tick
    let s := (s.tally 5 i 6 1).recoverMany (fun _ => true) 4 i
    let s := s.modSeam i (fun x => failing.foldl Seam.localMark x.reconcile)
    let s := s.noteRepairs (seamLower i) (failing.flatMap (LaneResult.repairs i))
    (s.seamUp i).advance (t + retrainTime)

/-! ### Changes of a map (10 R283, R288) -/

/-- The map that the lower-ranked end would propose: its own copy with the partner's marks. -/
def Seam.proposal (x : Seam) : LaneMap := { x.mapA.union x.mapB with generation := x.mapA.next }

/-- LANE_MAP_PROPOSAL (10 R283): the lower-ranked end sends the new map, which the partner holds pending and
acknowledges; only when a mark differs from the committed map and no proposal is out. -/
def laneMapProposal (i : Fin 12) (s : State) : State :=
  let x := s.seams[i]
  if x.linkUp && x.pendingB.isNone && !x.proposal.same x.committed then
    (s.modSeam i (fun x => { x with pendingA := some x.proposal, pendingB := some x.proposal })).emit
      (.mapProposal i (x.proposal.bytes i))
  else s

/-- LANE_MAP_COMMIT (10 R283): both ends commit the acknowledged map, and Selvage writes it to non-volatile memory and
records the repair. -/
def laneMapCommit (i : Fin 12) (s : State) : State :=
  match s.seams[i].pendingA, s.seams[i].pendingB with
  | some m, some _ =>
    (s.modSeam i (fun (x : Seam) =>
      { x with mapA := m, mapB := m, committed := m, pendingA := none, pendingB := none })).noteRepairs (seamLower i)
      (s.seams[i].committed.repairs i m)
  | _, _ => s

/-- The module entry that the test of its disputed lanes gives: the lanes that failed stay bad, the others are good.
(Log: DEDUCED, unsafe, entry 66.) -/
def ModEntry.retest (e : ModEntry) (disputed failed : List Nat) : ModEntry :=
  if disputed.isEmpty then e
  else
    let keep := (e.bad ++ e.aux).filter (fun l => !disputed.contains l)
    (keep ++ failed).foldl ModEntry.mark
      { ModEntry.fresh with disabled := e.disabled && decide (disputed.length < 68) }

/-- The map after the test of the disputed lanes (10 R288).
(Log: DEDUCED, unsafe, entry 66.) -/
def Seam.retested (x : Seam) (failing : List LaneResult) : LaneMap :=
  let m := x.mapA.union x.mapB
  let lanes (d : Dir) (k : Nat) : List Nat :=
    (x.disputed.filter (fun y => decide (y.1 = d ∧ y.2 / 128 = k))).map (fun y => y.2 % 128)
  let failed (d : Dir) (k : Nat) : List Nat := (failing.filter (fun r => decide (r.dir = d ∧ r.module = k))).flatMap (·.lanes)
  let one (d : Dir) (l : SMap ModEntry) : SMap ModEntry :=
    (List.range 24).foldl (fun l k => sset ModEntry.fresh l k ((sget ModEntry.fresh l k).retest (lanes d k) (failed d k))) l
  let ctrl (d : Dir) (v : BitVec 4) : BitVec 4 :=
    (failed d 31).foldl (fun (v : BitVec 4) k => v &&& ~~~(1#4 <<< k)) ((lanes d 31).foldl (fun (v : BitVec 4) k => v ||| (1#4 <<< k)) v)
  { generation := m.next, ab := one .ab m.ab, ba := one .ba m.ba, ctrlAB := ctrl .ab m.ctrlAB,
    ctrlBA := ctrl .ba m.ctrlBA }

/-- A direction whose stripe the modules that have become usable join, one by one in increasing number, each at the sequence
number that the ends agree on the sideband. A module in use keeps its lanes (10 R288).
(Log: DESIGN CHOICE, safe, entry 136.) -/
def Seam.join (x : Seam) (i : Nat) (d : Dir) (free : Nat) : SeamDir :=
  let v := x.dir d
  let inUse := (v.stripes.head?).elim [] (·.2)
  ((x.usables i d).filter (fun k => !inUse.contains k)).foldl (fun (v : SeamDir) k =>
    let (n, l) := (v.stripes.head?).getD (0, [])
    { v with
      stripes := (max n v.txNext + (Config.freeWord (free + v.stripes.length)).toNat, insertNat k l) :: v.stripes,
      lanes := sset [] v.lanes k (x.entry d k).bad }) v

/-- BACKGROUND_LANE_TEST_END (10 R288): the disputed lanes have carried 2^32 bits each; the lower-ranked end proposes
the result, both ends commit it, and the modules it makes usable join their stripe.
(Log: DEDUCED, unsafe, entry 66; DESIGN CHOICE, safe, entry 136.) -/
def backgroundLaneTestEnd (i : Fin 12) (failing : List LaneResult) (s : State) : State :=
  let x := s.seams[i]
  if x.linkUp && !x.disputed.isEmpty then
    let m := x.retested failing
    let s := (s.modSeam i (fun (x : Seam) =>
      { x with mapA := m, mapB := m, committed := m, pendingA := none, pendingB := none, disputed := [] })).modSeam i
      (fun x => { x with ab := x.join i .ab s.free, ba := x.join i .ba (s.free + 64) })
    (({ s with free := s.free + 128 }).emit (.mapProposal i (m.bytes i))).noteRepairs (seamLower i) (x.committed.repairs i m)
  else s

/-- PARTIAL_RESET_SEAM_ADAPTER (14 R424; 10 R282, R283): the adapter keeps its working map and loses its pending
proposal; when it leaves its reset the Seam retrains. -/
def State.resetAdapter (s : State) (i : Fin 12) (atB : Bool) : State :=
  (s.modSeam i (fun x => if atB then { x with pendingB := none } else { x with pendingA := none })).seamFault i

/-- A flit, when it is one.
(Log: DESIGN CHOICE, safe, entry 4.) -/
def flitWf (f : Flit) : Bool := decide (f.payload.length = 248)

/-- The meaning of SEAM_FLIT_RECEIVE. -/
def execSeamFlitReceive (seam : Fin 12) (dir : Dir) (flit : Flit) (s : State) : Host.Outcome State Fault Refusal :=
  if flitWf flit then .next (seamFlitReceive seam dir flit s) else .fault .malformedOperand
/-- The meaning of SEAM_ACK_TIMER. -/
def execSeamAckTimer (seam : Fin 12) (dir : Dir) (s : State) : Host.Outcome State Fault Refusal := .next (seamAckTimer seam dir s)
/-- The meaning of SEAM_ACK_RECEIVE. -/
def execSeamAckReceive (seam : Fin 12) (dir : Dir) (seq : Nat) (s : State) : Host.Outcome State Fault Refusal :=
  .next (seamAckReceive seam dir seq s)
/-- The meaning of SEAM_NACK_RECEIVE. -/
def execSeamNackReceive (seam : Fin 12) (dir : Dir) (seq : Nat) (s : State) : Host.Outcome State Fault Refusal :=
  .next (seamNackReceive seam dir seq s)
/-- The meaning of SEAM_RETRY_EXHAUSTED. -/
def execSeamRetryExhausted (seam : Fin 12) (dir : Dir) (s : State) : Host.Outcome State Fault Refusal :=
  .next (seamRetryExhausted seam dir s)
/-- The meaning of CONTROL_WORD_RECEIVE. -/
def execControlWordReceive (seam : Fin 12) (dir : Dir) (word : BitVec 40) (s : State) : Host.Outcome State Fault Refusal :=
  .next (controlWordReceive seam dir word s)
/-- The meaning of SEAM_RETRAINING. -/
def execSeamRetraining (seam : Fin 12) (failing : List LaneResult) (s : State) : Host.Outcome State Fault Refusal :=
  .next (seamRetraining seam failing s)
/-- The meaning of LANE_MAP_PROPOSAL. -/
def execLaneMapProposal (seam : Fin 12) (s : State) : Host.Outcome State Fault Refusal := .next (laneMapProposal seam s)
/-- The meaning of LANE_MAP_COMMIT. -/
def execLaneMapCommit (seam : Fin 12) (s : State) : Host.Outcome State Fault Refusal := .next (laneMapCommit seam s)
/-- The meaning of BACKGROUND_LANE_TEST_END. -/
def execBackgroundLaneTestEnd (seam : Fin 12) (failing : List LaneResult) (s : State) : Host.Outcome State Fault Refusal :=
  .next (backgroundLaneTestEnd seam failing s)

end Sys2Proof.Machine
end

