-- ==== Sys2Proof/Machine/Link.lean ====
section
/-! DEFINITION. The link layer of a fabric port: frames, credits, retry, drops, hello, loss and key slots (11 R299 to R304,
R325, R329, R331 to R333, R336; 14 R424). -/

namespace Sys2Proof.Machine

/-! ### Frames that arrive (11 R300 to R302) -/

/-- Whether a frame's CRC holds. -/
def frameOk (f : Frame) : Bool := decide (f.crc.toNat = crc32c (frameBytes f.header f.body))

/-- Frames before an acknowledged number leave the retry buffer. -/
def Port.acknowledge (P : Port) (seq tick : Nat) : Port :=
  let l := P.retry.filter (fun r => !seqBefore (fld r.1.header.toNat 0 16) seq)
  { P with retry := l, progressAt := if l.length < P.retry.length then tick else P.progressAt }

/-- Credits returned in a frame's header. -/
def Port.creditsIn (P : Port) (h : Nat) : Port :=
  let n := fld h 57 7
  let st := fld h 52 4
  let k := if st = 15 then sharedKey else creditKey st (bit h 56)
  if n = 0 ∨ (8 < st ∧ st ≠ 15) then P else { P with credits := sset 0 P.credits k (sget 0 P.credits k + n) }

/-- The body of a good frame joins its stream's bytes, and the frame the receive buffer (11 R301): on a dedicated credit of its
stream and class while the partner can hold one. Hello and idle frames, and reserved streams, carry none. -/
def Port.streamIn (P : Port) (h : Nat) (body : Bytes) : Port :=
  let st := fld h 16 4
  let k := creditKey st (bit h 20)
  let shared := decide (sget 0 P.rxOpen k = 0)
  let from_ := if shared then sharedKey else k
  if 8 < st then P
  else { P with
    rxStreams := sset [] P.rxStreams k (sget [] P.rxStreams k ++ body.take (fld h 24 8)),
    rxFrames := sset [] P.rxFrames k (sget [] P.rxFrames k ++ [(min (fld h 24 8) 244, shared)]),
    rxOpen := sset 0 P.rxOpen from_ (sget 0 P.rxOpen from_ - 1) }

/-- Resend from a frame on, in order, unless one of them has been resent eight times. -/
def State.linkResend (s : State) (i seq : Nat) : State :=
  let P := s.port i
  let again (r : Frame × Nat) : Bool := !seqBefore (fld r.1.header.toNat 0 16) (seq % 65536)
  if !s.portUp i ∨ P.retry.any (fun r => again r && decide (8 ≤ r.2)) = true then s
  else
    let l := P.retry.filter again
    let s := s.modPort i (fun P => { P with retry := P.retry.map (fun r => if again r then (r.1, r.2 + 1) else r) })
    l.foldl (fun s r => s.emit (.frame i r.1)) ((s.tele i 0 l.length).tele i 2 l.length)

/-- LINK_FRAME_RECEIVE (11 R302): a frame arrives at an UP port. A good frame in order is delivered, its credits and
acknowledgement taken. A bad one draws a resend request at once unless one is out and its number is not the one asked for;
every frame until the resend is discarded.
(Log: DEDUCED, unsafe, entry 68.) -/
def linkFrameReceive (i : Fin 32) (f : Frame) (s : State) : State :=
  let P := s.port i
  let h := f.header.toNat
  if !s.portUp i then s
  else if !frameOk f then
    let s := s.tele i 3 1
    if P.nacked && decide (fld h 0 16 ≠ P.rxExpected.toNat) then s
    else (s.modPort i (fun P => { P with nacked := true, nackOut := true })).pump i
  else if fld h 0 16 ≠ P.rxExpected.toNat then s
  else
    let full := decide (32 ≤ P.sinceAck + 1)
    let s := (s.tele i 1 1).modPort i (fun P =>
      let P := (P.creditsIn h).streamIn h f.body
      let P := if bit h 48 then P.acknowledge (fld h 32 16) s.tick else P
      { P with
        rxExpected := P.rxExpected + 1, nacked := false, sinceAck := if full then 0 else P.sinceAck + 1,
        ackDue := if full then none else some (s.tick + 200), ackOut := P.ackOut || full })
    let s := if bit h 49 then s.linkResend i (fld h 32 16) else s
    s.pump i

/-- LINK_ACK_TIMER: 200 ns have passed since the last good frame. -/
def linkAckTimer (i : Fin 32) (s : State) : State :=
  match (s.port i).ackDue with
  | none => s
  | some t => ((s.advance t).modPort i (fun P => { P with sinceAck := 0, ackDue := none, ackOut := true })).pump i

/-- LINK_NACK_RECEIVE. -/
def linkNackReceive (i : Fin 32) (seq : Nat) (s : State) : State := s.linkResend i seq

/-! ### Drops, training and hello (11 R302 to R304, R333) -/

/-- The link state of a port that is not up: no frame in flight, no retry buffer, no credit, nothing of its partner; packets
that have not begun stay.
(Log: DEDUCED, unsafe, entry 69.) -/
def Port.unlink (P : Port) (tick : Nat) : Port :=
  { P.sending.foldl (fun P x => P.depthAt tick (x.1 / 2)) P with
    txNext := 0, retry := [], rxExpected := 0, sinceAck := 0, ackDue := none, nacked := false, ackOut := false,
    nackOut := false, creditsOut := [], credits := [], rxStreams := [], rxFrames := [], rxOpen := [], trained := false,
    sending := [], syncEcho := none }

/-- An UP link drops: the port retrains at once, and is lost unless it is up again within 1 s. -/
def State.dropLink (s : State) (i : Nat) : State :=
  if (s.port i).state ≠ .up then s
  else
    (s.drift.tele i 6 1).modPort i (fun P => { P.unlink s.tick with
      state := .down, drops := P.drops.filter (fun t => decide (s.tick < t + day)) ++ [s.tick],
      lostDue := some (s.tick + 1000000000) })

/-- LINK_DROP (11 R302): a frame resent eight times, or no progress for 10 µs while frames are outstanding. -/
def linkDrop (i : Fin 32) (s : State) : State :=
  let P := s.port i
  if P.state ≠ .up ∨ P.retry.isEmpty = true then s
  else if P.retry.any (fun r => decide (8 ≤ r.2)) then s.dropLink i
  else (s.advance (P.progressAt + 10000)).dropLink i

/-- PORT_TRAINED (11 R303): the PMD of a training port is up; MEDIUM and ENCRYPT take effect, and hello frames go out. -/
def portTrained (i : Fin 32) (s : State) : State :=
  let P := s.port i
  if P.state = .training ∨ P.state = .down then
    let c := P.ctrl.toNat
    (s.modPort i (fun P => { P with trained := true, medium := fld c 1 2, encryptTrained := bit c 3 })).emit
      (.hello i { endpoint := BitVec.ofNat 14 s.fab.endpoint, port := BitVec.ofNat 5 i, encrypt := bit c 3, retryDepth := 1024 })
  else s

/-- Whether a port advertises credits on every stream: ready, and with its keys installed when it is encrypted.
(Log: DEDUCED, unsafe, entry 84.) -/
def Port.open_ (P : Port) : Bool := !P.held && P.keyed

/-- Credits of the receive buffer go to the partner in the next frames. -/
def Port.giveCredit (P : Port) (k n : Nat) : Port :=
  { P with creditsOut := sset 0 P.creditsOut k (sget 0 P.creditsOut k + n), rxOpen := sset 0 P.rxOpen k (sget 0 P.rxOpen k + n) }

/-- The credits of the receive buffer go out (11 R301): of VCs 6 and 7 alone while the port is held (R333). -/
def Port.advertise (P : Port) (streams : List Nat) (shared : Bool) : Port :=
  let l := streams.flatMap (fun k => [(creditKey k false, 16), (creditKey k true, 16)]) ++ (if shared then [(sharedKey, 1760)] else [])
  l.foldl (fun P x => P.giveCredit x.1 x.2) P

/-- A port becomes open: the streams it held back get their credits.
(Log: DEDUCED, unsafe, entry 84.) -/
def State.openPort (s : State) (i : Nat) : State :=
  if (s.port i).state = .up ∧ (s.port i).open_ = true then
    (s.modPort i (fun P => P.advertise [0, 1, 2, 3, 4, 5, 8] true)).pump i
  else s

/-- A DISCOVERY header of this package on a port (16 Table 16.6).
(Log: DESIGN CHOICE, safe, entry 123.) -/
def State.discoveryHeader (s : State) (msg i : Nat) : Bytes :=
  toLe 1 msg ++ toLe 1 s.life.deviceReady.toNat ++ toLe 2 (s.fab.endpoint % 2 ^ 14) ++ toLe 1 i ++
    toLe 1 s.packageLevel.toNat ++ toLe 1 s.life.bootPhase.toNat ++ zeros 1 ++ toLe 8 Config.serial

/-- Selvage's turn in the exchange of an encrypted port without keys (16 R468): the SPDM message it has to send goes in a
DISCOVERY packet with MSG 2.
(Log: DESIGN CHOICE, unsafe, entry 71.) -/
def State.spdmSend (s : State) (i : Nat) : State :=
  let P := s.port i
  if P.state ≠ .up ∨ P.encrypted = false ∨ P.keyed = true then s
  else
    match Config.spdmNext s.fab.endpoint i P.spdm with
    | none => s
    | some m =>
      (s.modPort i (fun P => { P with spdm := P.spdm ++ [(true, m)] })).transmit i
        (controlPacket 0x10 P.partnerEndpoint s.fab.endpoint (s.discoveryHeader 2 i ++ m))

/-- HELLO_RECEIVE (11 R303): both hellos agree on ENCRYPT and the port is UP, or it is in MISMATCH; either way it shows its
partner. One in MISMATCH has not come up: a drop before counts on (R304). -/
def helloReceive (i : Fin 32) (h : Hello) (s : State) : State :=
  let P := s.port i
  if !P.trained ∨ (P.state ≠ .training ∧ P.state ≠ .down) then s
  else if h.encrypt ≠ P.encryptTrained then
    s.modPort i (fun P => { P with
      state := .mismatch, partnerPort := h.port.toNat, partnerEndpoint := h.endpoint.toNat, encrypted := false })
  else
    let s := s.drift.modPort i (fun P => { P with
      state := .up, partnerPort := h.port.toNat, partnerEndpoint := h.endpoint.toNat, retryDepth := h.retryDepth,
      encrypted := h.encrypt, keyed := !h.encrypt, txSlot := false, rxSlot := false, txKeys := Vector.replicate 2 .empty,
      rxKeys := Vector.replicate 2 .empty, spdm := [], slots := [], lostDue := none })
    ((((s.modPort i (fun P => P.advertise [6, 7] false)).pump i).openPort i).spdmSend i).releaseHeld

/-- Each ACTIVE plan that uses a lost port goes to FAULT, and its owner takes a replayable fault (11 R329).
(Log: DEDUCED, unsafe, entry 81.) -/
def State.faultPlans (s : State) (port : Nat) : State :=
  let hit := (List.range 16).filter (fun n => decide (s.fab.plan n = .active) && (s.fab.planCircuits n).any (fun x => ceUses x.2 port))
  let owners := hit.map (fun n => partOf (s.fab.owner n))
  (List.finRange 4).foldl (fun s p => if owners.contains p then s.recoverPart p 6 port 0xFFFFFFFF s.tick (fun _ _ s => s) else s)
    { s with fab := s.fab.faultPort port }

/-- PORT_LOST (11 R304, R329): not up 1 s after a drop, or dropped 16 times within 24 hours.
(Log: DEDUCED, unsafe, entry 81.) -/
def portLost (i : Fin 32) (s : State) : State :=
  let P := s.port i
  let often := decide (16 ≤ (P.drops.filter (fun t => decide (s.tick < t + day))).length)
  let go (s : State) : State :=
    let s := (s.drift.modPort i (fun P => { P.unlink s.tick with state := .lost, lostDue := none })).lifeNote 6 (5 + i / 8) [i.val, s.tick]
    (s.faultPlans i).checkPorts
  if P.state = .lost ∨ P.state = .disabled then s
  else if often then go s
  else
    match P.lostDue with
    | some t => if P.state = .up then s else go (s.advance t)
    | none => s

/-! ### Port registers (11 Tables 11.14, 11.16) -/

/-- A write of FAB_PORT_CTRL, applied: reserved bits are ignored, and a reserved MEDIUM leaves the field. -/
def portCtrl (old value : W32) : W32 :=
  let v := value.toNat % 256
  BitVec.ofNat 32 (if fld v 1 2 = 3 then setFld v 1 2 (fld old.toNat 1 2) else v)

/-- PORT_ENABLE_WRITE (11 R304): ENABLE 1 to 0 turns the port off, 0 to 1 trains it and clears LOST.
(Log: DEDUCED, unsafe, entry 84.) -/
def portEnableWrite (fn : Fn) (i : Fin 32) (value : W32) (s : State) : State :=
  if s.mayWritePkg fn then
    s.drift.modPort i (fun P =>
      let new := portCtrl P.ctrl value
      let was := bit P.ctrl.toNat 0
      let now := bit new.toNat 0
      if was && !now then { P.unlink s.tick with ctrl := new, state := .disabled, encrypted := false, lostDue := none }
      else if !was && now then { P.unlink s.tick with ctrl := new, state := .training, drops := [], lostDue := none }
      else { P with ctrl := new })
  else s

/-- The four shares of a quota register. -/
def quotaOf (v : Nat) (p : Nat) : Nat := fld v (8 * p) 7

/-- The fields of FAB_PORT_QUOTA. -/
def quotaMask : Nat := 0x7F7F7F7F

/-- PORT_QUOTA_WRITE (11 R325): shares that sum to more than 60 leave all four unchanged. -/
def portQuotaWrite (fn : Fn) (i : Fin 32) (value : W32) (s : State) : State :=
  let v := value.toNat
  if s.mayWritePkg fn && decide (quotaOf v 0 + quotaOf v 1 + quotaOf v 2 + quotaOf v 3 ≤ 60) then
    s.modPort i (fun P => { P with quota := value &&& BitVec.ofNat 32 quotaMask })
  else s

/-- TELEMETRY_CLEAR_MAX (11 R336): every DEPTH_MAX is cleared. -/
def telemetryClearMax (fn : Fn) (s : State) : State :=
  if s.mayWritePkg fn then
    (List.range 32).foldl (fun s i => s.modPort i (fun P => { P with
      telemetry := (List.range 9).foldl (fun m k => serase m (96 + k)) P.telemetry })) s
  else s

/-! ### Stalls and keys (11 R322, R331; 13 Table 13.7) -/

/-- FABRIC_STALL (11 R322): a frame of the stream and class has waited 1 ms at a port for a credit. The event names them with
the port, whose record has room for the port alone (13 Table 13.7). Nothing is dropped.
(Log: DESIGN CHOICE, unsafe, entry 74.) -/
def fabricStall (i : Fin 32) (stream cls : Nat) (s : State) : State :=
  let P := s.port i
  let k := 2 * stream + cls % 2
  if s.portUp i && decide (stream ≤ 8) && (!(sget Sending.none P.sending k).bytes.isEmpty || P.egress.any (fun x => packetKey x == k)) &&
      (P.spend k).isNone then
    let s := (s.advance (sget 0 P.waitSince k + 1000000)).modPort i (fun P => { P with stall := some (stream, cls % 2) })
    s.health (Health.plain 8 0 0 i s.tick)
  else s

/-- A key slot as Selvage installs it: a key and a salt agreed with the partner's Selvage, and the packet counter at 0.
(Log: DESIGN CHOICE, safe, entry 70.) -/
def KeySlot.install (free : Nat) : KeySlot :=
  { installed := true, key := BitVec.ofNat 256 (le ((List.range 8).flatMap (fun k => toLe 4 (Config.linkKey (free + k)).toNat))),
    salt := Config.linkKey (free + 8), counter := 0 }

/-- KEY_SLOT_SWITCH (11 R331): Selvage installs a key in the other slot of a direction and switches to it; the packet
counter starts at 0.
(Log: DESIGN CHOICE, safe, entry 70.) -/
def keySlotSwitch (i : Fin 32) (tx : Bool) (s : State) : State :=
  if !(s.port i).encrypted then s
  else
    let k := KeySlot.install s.free
    { s with free := s.free + 9 }.modPort i (fun P =>
      if tx then { P with txSlot := !P.txSlot }.setTxKey k
      else { P with rxSlot := !P.rxSlot, rxKeys := if P.rxSlot then P.rxKeys.set 0 k else P.rxKeys.set 1 k })

/-- Selvage installs the first keys of both directions of an encrypted port, after the attested exchange (11 R331). -/
def State.installKeys (s : State) (i : Nat) : State :=
  let a := KeySlot.install s.free
  let b := KeySlot.install (s.free + 9)
  { s with free := s.free + 18 }.modPort i (fun P => { P with
    keyed := true, txSlot := false, rxSlot := false, txKeys := P.txKeys.set 0 a, rxKeys := P.rxKeys.set 0 b })

/-- A frame that is one.
(Log: DESIGN CHOICE, safe, entry 4.) -/
def frameWf (f : Frame) : Bool := decide (f.body.length = 244)

/-- The meaning of LINK_FRAME_RECEIVE. -/
def execLinkFrameReceive (port : Fin 32) (frame : Frame) (s : State) : Host.Outcome State Fault Refusal :=
  if frameWf frame then .next (linkFrameReceive port frame s) else .fault .malformedOperand
/-- The meaning of LINK_ACK_TIMER. -/
def execLinkAckTimer (port : Fin 32) (s : State) : Host.Outcome State Fault Refusal := .next (linkAckTimer port s)
/-- The meaning of LINK_NACK_RECEIVE. -/
def execLinkNackReceive (port : Fin 32) (seq : Nat) (s : State) : Host.Outcome State Fault Refusal :=
  .next (linkNackReceive port seq s)
/-- The meaning of LINK_DROP. -/
def execLinkDrop (port : Fin 32) (s : State) : Host.Outcome State Fault Refusal := .next (linkDrop port s)
/-- The meaning of HELLO_RECEIVE. -/
def execHelloReceive (port : Fin 32) (hello : Hello) (s : State) : Host.Outcome State Fault Refusal :=
  .next (helloReceive port hello s)
/-- The meaning of PORT_LOST. -/
def execPortLost (port : Fin 32) (s : State) : Host.Outcome State Fault Refusal := .next (portLost port s)
/-- The meaning of PORT_TRAINED. -/
def execPortTrained (port : Fin 32) (s : State) : Host.Outcome State Fault Refusal := .next (portTrained port s)
/-- The meaning of PORT_ENABLE_WRITE. -/
def execPortEnableWrite (fn : Fn) (port : Fin 32) (value : W32) (s : State) : Host.Outcome State Fault Refusal :=
  .next (portEnableWrite fn port value s)
/-- The meaning of PORT_QUOTA_WRITE. -/
def execPortQuotaWrite (fn : Fn) (port : Fin 32) (value : W32) (s : State) : Host.Outcome State Fault Refusal :=
  .next (portQuotaWrite fn port value s)
/-- The meaning of TELEMETRY_CLEAR_MAX. -/
def execTelemetryClearMax (fn : Fn) (s : State) : Host.Outcome State Fault Refusal := .next (telemetryClearMax fn s)
/-- The meaning of FABRIC_STALL. -/
def execFabricStall (port : Fin 32) (stream cls : Nat) (s : State) : Host.Outcome State Fault Refusal :=
  .next (fabricStall port stream cls s)
/-- The meaning of KEY_SLOT_SWITCH. -/
def execKeySlotSwitch (port : Fin 32) (tx : Bool) (s : State) : Host.Outcome State Fault Refusal :=
  .next (keySlotSwitch port tx s)

end Sys2Proof.Machine
end

