-- ==== Sys2Proof/Machine/Fabric.lean ====
section
/-! DEFINITION. Packets at their ports and endpoints, acknowledgements, the routing and circuit tables, plans and receive
windows (11 R307 to R330, R332, R333; 12 R346; 15 R444, R445). -/

namespace Sys2Proof.Machine

/-! ### Packets at a port (11 R332, R333, R336; 15 R445) -/

/-- Where the partition whose endpoint is `e` is. -/
def State.endpointPart (s : State) (e : Nat) : Option (Fin 4) := (List.finRange 4).find? (fun p => (s.part p).endpoint == some e)

/-- The VCs a kind of packet is carried on (11 Table 11.7); a circuit carries its own two kinds.
(Log: DEDUCED, unsafe, entry 72.) -/
def kindOnVc (pkt : Packet) : Bool :=
  if pkt.circuit then decide (pkt.kind = 0x05 ∨ pkt.kind = 0x06)
  else
    match pkt.kind with
    | 0x01 => decide (pkt.vc ≤ 3)
    | 0x02 => decide (pkt.vc = 5)
    | 0x03 => decide (pkt.vc = 4)
    | 0x04 => decide (pkt.vc = 7)
    | 0x10 | 0x11 | 0x12 | 0x13 | 0x14 => decide (pkt.vc = 6)
    | _ => false

/-- Peg's counting of an arriving packet (15 R445): one with POST_CUT is EARLY_POST_CUT where it arrives before the port's own
T, whether or not that Peg's window is open yet; one without, after T in the window, is IN_FLIGHT.
(Log: DESIGN CHOICE, safe, entry 110.) -/
def State.pegArrival (s : State) (i : Nat) (pkt : Packet) : State :=
  let g := s.obs.peg
  if pkt.postCut then
    if g.open_ && decide (g.t ≤ s.tick) then s
    else
      { s with obs := { s.obs with peg := { g with flagged := (s.tick, i, pkt.payload.length) :: g.flagged } } }
  else if g.open_ && decide (g.t ≤ s.tick) then
    { s with obs := { s.obs with peg := { g with inFlight := sset 0 g.inFlight i (sget 0 g.inFlight i + 1) } } }.tele i 13 1
  else s

/-- Take bytes from the frames of a stream and class: what is left, and for each frame emptied whether a shared credit had
brought it. -/
def takeFrames : Nat → List (Nat × Bool) → List (Nat × Bool) × List Bool
  | _, [] => ([], [])
  | n, (k, sh) :: r =>
    if k ≤ n then
      let (l, out) := takeFrames (n - k) r
      (l, sh :: out)
    else ((k - n, sh) :: r, [])

/-- A packet's bytes leave its stream's received bytes; the frames they emptied return their credits (11 R301), and the packet
counter of the key slot that it names advances (11 R331).
(Log: DESIGN CHOICE, safe, entry 11.) -/
def Port.takeBytes (P : Port) (pkt : Packet) : Port :=
  let k := packetKey pkt
  let n := pkt.header.length + pkt.payload.length + 4 + (if P.encrypted then 16 else 0)
  let (left, freed) := takeFrames n (sget [] P.rxFrames k)
  let P := { P with
    rxStreams := sset [] P.rxStreams k ((sget [] P.rxStreams k).drop n), rxFrames := sset [] P.rxFrames k left }
  let P := freed.foldl (fun (P : Port) sh => P.giveCredit (if sh then sharedKey else k) 1) P
  if P.encrypted then
    let up (x : KeySlot) : KeySlot := { x with counter := x.counter + 1 }
    { P with rxKeys := if pkt.keySlot then P.rxKeys.set 1 (up P.rxKeys[1]) else P.rxKeys.set 0 (up P.rxKeys[0]) }
  else P

/-- A packet fails authentication (11 R332): it is discarded and counted, Selvage is told, and the link drops. -/
def State.authFailure (s : State) (i : Nat) : State :=
  let s := s.tele i 7 1
  { s with life := { s.life with authNotices := (i, s.tick) :: s.life.authNotices } }.dropLink i

/-- A packet arrives by a port: none goes on when the port is not UP, or when the packet fails authentication. The port takes
KEY_SLOT, which the hop alone uses, off the header. One from the package itself arrives by no port.
(Log: DESIGN CHOICE, safe, entry 11; DEDUCED, unsafe, entry 52.) -/
def State.portIn (s : State) (i : Fin 32) (pkt : Packet) : State × Option (Option Nat × Packet) :=
  if s.fab.loop.contains pkt then ({ s with fab := { s.fab with loop := s.fab.loop.erase pkt } }, some (none, pkt))
  else if !s.portUp i then (s, none)
  else
    let encrypted := (s.port i).encrypted
    let s := (s.modPort i (fun P => P.takeBytes pkt)).pump i
    if encrypted && !pkt.authentic then (s.authFailure i, none)
    else
      let pkt := if encrypted then pkt.setFlag 1 false else pkt
      ((((s.tele i (18 + 8 * pkt.slot) 1).tele i (19 + 8 * pkt.slot) pkt.payload.length).pegArrival i pkt), some (some i.val, pkt))

/-- Count on the port a packet came by, if any.
(Log: DEDUCED, unsafe, entry 72.) -/
def State.countAt (s : State) (at' : Option Nat) (k : Nat) : State :=
  match at' with
  | none => s
  | some i => s.tele i k 1

/-! ### The checks at the destination (11 R313, Table 11.8) -/

/-- SRC_GEN older than the recorded generation. -/
def genOlder (gen rec : Nat) : Bool := decide (1 ≤ (rec + 65536 - gen) % 65536 ∧ (rec + 65536 - gen) % 65536 ≤ 32767)

/-- SEQ below the expected number. -/
def seqBelow (seq x : Nat) : Bool := decide (1 ≤ (x + 2 ^ 32 - seq) % 2 ^ 32 ∧ (x + 2 ^ 32 - seq) % 2 ^ 32 ≤ 2 ^ 31)

/-- A receive entry's expected number, generation and USED bit (11 R311). -/
structure RecvEntry where
  expected : Nat
  gen : Nat
  used : Bool
deriving DecidableEq, Repr

/-- A receive entry's fields. -/
def RecvEntry.of (e : Nat) : RecvEntry := { expected := fld e 0 32, gen := fld e 32 16, used := bit e 48 }

/-- A receive entry as its 8 bytes hold it. -/
def RecvEntry.word (r : RecvEntry) : Nat := r.expected % 2 ^ 32 + r.gen * 2 ^ 32 + r.used.toNat * 2 ^ 48

/-- What the destination does with a packet: nothing but count it STALE, answer with a status, or take it as accepted. -/
inductive Verdict where
  | stale
  | answer (status : Nat)
  | refuse (status : Nat)
  | accept
deriving DecidableEq, Repr

/-- Rows 3 to 10 of Table 11.8 for a flow's entry, given whether the source is admitted and whether the window is good:
the entry as it becomes and what is done.
(Log: DEDUCED, unsafe, entry 72.) -/
def checkFlow (r : RecvEntry) (gen seq : Nat) (admitted windowOk : Bool) : RecvEntry × Verdict :=
  if r.used && genOlder gen r.gen then (r, .stale)
  else
    let restart := (r.used && decide (gen ≠ r.gen)) || (!r.used && decide (seq = 0))
    let r := if restart then { expected := 0, gen := gen, used := true } else r
    if !r.used then (r, .answer 5)
    else if seqBelow seq r.expected then (r, .answer 0)
    else if seq ≠ r.expected then (r, .answer 2)
    else
      let next := { r with expected := (r.expected + 1) % 2 ^ 32 }
      if !admitted then (next, .refuse 3)
      else if !windowOk then (next, .refuse 4)
      else (next, .accept)

/-- A flow at its destination: the partition, the flow, the far endpoint, the window and the offset written. -/
structure Arrival where
  p : Fin 4
  flow : Nat
  src : Nat
  window : Nat
  offset : Nat

/-- Send the ACK of a flow with a status (11 R315, Table 11.7). -/
def State.sendAck (s : State) (p : Fin 4) (flow src status expected : Nat) : State :=
  let P := s.part p
  let chan := if flow < 2 ^ 17 then flow % 8 else 8
  let cid := if flow < 2 ^ 17 then 0 else flow - 2 ^ 20
  let aux := expected % 2 ^ 32 + status * 2 ^ 32 + chan * 2 ^ 40 + cid * 2 ^ 44
  s.inject (mkPacket false (addressed 0x04 src (P.endpoint.getD 0x3FFF) 7 P.generation 0 0 0 0 aux) [])

/-- Whether a packet's window is present, VALID, open to the source and holds the payload (row 9); a signal has none.
(Log: DEDUCED, unsafe, entry 82.) -/
def Part.windowOk (P : Part) (a : Arrival) (pkt : Packet) : Bool :=
  pkt.kind = 0x02 ||
    match P.window a.window with
    | none => false
    | some w => w.admits a.src && decide (a.offset + pkt.payload.length ≤ w.size)

/-- Apply an accepted packet: a signal sets its counter monotonically (02 R61), any other writes its payload, and the
arrival map follows (12 R346).
(Log: DEDUCED, unsafe, entry 77.) -/
def State.applyPacket (s : State) (a : Arrival) (pkt : Packet) : State :=
  if pkt.kind = 0x02 then
    s.modPart a.p (fun P =>
      { P with remoteSets := (P.openEpoch, fld pkt.aux 0 16, BitVec.ofNat 32 (fld pkt.aux 16 32)) :: P.remoteSets }.counterSet
        (fld pkt.aux 0 16) (BitVec.ofNat 32 (fld pkt.aux 16 32)))
  else
    match (s.part a.p).window a.window with
    | none => s
    | some w =>
      ((s.windowWrite w a.offset pkt.payload).modPart a.p (fun P => P.arrive a.window a.offset pkt.payload.length)).refreshMaps
        a.p a.window

/-- Count an accepted packet of a flow towards its cumulative OK ACK: after 32, or 1 µs after the last (11 R315). -/
def State.ackLater (s : State) (a : Arrival) (expected : Nat) : State :=
  let n := (sget (0, 0) (s.part a.p).ackDue a.flow).1 + 1
  if 32 ≤ n then
    (s.modPart a.p (fun P => { P with ackDue := serase P.ackDue a.flow })).sendAck a.p a.flow a.src 0 expected
  else s.modPart a.p (fun P => { P with ackDue := sset (0, 0) P.ackDue a.flow (n, s.tick + 1000) })

/-- The destination's checks (11 R313): a partition whose fabric traffic is off admits no source.
(Log: DEDUCED, unsafe, entry 72.) -/
def State.deliver (s : State) (a : Arrival) (pkt : Packet) (at' : Option Nat) : State :=
  let e := RecvEntry.of (s.flowEntry a.p (recvOffset a.flow))
  if !pkt.trailerOk then (s.countAt at' 8).sendAck a.p a.flow a.src 1 e.expected
  else
    let P := s.part a.p
    let admitted := P.flowEnable && P.recvPerm.getLsbD a.src
    let (r, v) := checkFlow e pkt.gen pkt.seq admitted (P.windowOk a pkt)
    let s := if r = e then s else s.setFlowEntry a.p (recvOffset a.flow) r.word
    match v with
    | .stale => s.countAt at' 11
    | .answer st => s.sendAck a.p a.flow a.src st r.expected
    | .refuse st => s.sendAck a.p a.flow a.src st r.expected
    | .accept => (s.applyPacket a pkt).ackLater a r.expected

/-- Whether the package's routing table delivers a packet here (11 R320): its DEST entry is VALID and the route of its VC takes
port value 32.
(Log: DEDUCED, unsafe, entry 72.) -/
def State.delivers (s : State) (pkt : Packet) : Bool :=
  ((s.fab.route pkt.dest pkt.vc).bind s.egress).any (fun x => decide (x.1 = 32))

/-- A control packet waits in the queue of its port, with the port's stamp where it carries one; one that finds 64 there is dropped
and counted in CONTROL_DROPS (11 R333).
(Log: DEDUCED, safe, entry 153.) -/
def State.controlWait (s : State) (i : Nat) (pkt : Packet) : State :=
  if 64 ≤ (s.port i).controlQueue.length then s.tele i 12 1
  else s.modPort i (fun P => { P with controlQueue := P.controlQueue ++ [if pkt.kind = 0x11 then pkt.stamped (s.portTick i) else pkt] })

/-- PACKET_RECEIVE (11 R313, R320, R333): a packet for an endpoint of this package arrives, by its routing entry on VCs 0 to 5 and
7. One of VC 6 or 7 whose trailer fails is discarded and counted. Control packets are for Basket and Selvage, and acknowledgements
for the source, whose own rows handle them; before DEVICE_READY those of Table 11.7 that may wait do, in a queue of 64.
(Log: DESIGN CHOICE, safe, entry 11.) -/
def packetReceive (i : Fin 32) (pkt : Packet) (s : State) : State :=
  if pkt.circuit then s
  else
    match s.portIn i pkt with
    | (s, none) => s
    | (s, some (at', pkt)) =>
      if !kindOnVc pkt || (decide (pkt.vc ≠ 6) && !s.delivers pkt) then s.countAt at' 9
      else if pkt.vc = 6 ∨ pkt.vc = 7 then
        if !pkt.trailerOk then s.countAt at' 8
        else if pkt.vc = 7 ∨ s.life.deviceReady ∨ (pkt.kind ≠ 0x10 ∧ pkt.kind ≠ 0x11 ∧ pkt.kind ≠ 0x14) then s
        else s.controlWait i pkt
      else
        match s.endpointPart pkt.dest with
        | none => s.countAt at' 9
        | some p =>
          s.deliver { p := p, flow := flowOf pkt.src pkt.vc, src := pkt.src, window := pkt.window, offset := pkt.offset } pkt at'

/-! ### Switching (11 R320, R321, R326) -/

/-- DIRECTION of a port. -/
def State.direction (s : State) (i : Nat) : Nat := fld (s.port i).ctrl.toNat 4 4

/-- The class a packet leaves in (11 R321). -/
def State.hopClass (s : State) (cls : Bool) (inPort out : Nat) (dateline : Bool) : Bool :=
  dateline || (cls && decide (s.direction inPort = s.direction out))

/-- PACKET_FORWARD (11 R321): a switch forwards an addressed packet by its route, or discards and counts it. -/
def packetForward (i : Fin 32) (pkt : Packet) (s : State) : State :=
  if pkt.circuit then s
  else
    match s.portIn i pkt with
    | (s, none) => s
    | (s, some (at', pkt)) =>
      if !kindOnVc pkt then s.countAt at' 9
      else
        match s.fab.route pkt.dest pkt.vc with
        | none => s.countAt at' 9
        | some r =>
          match s.egress r with
          | none => s.countAt at' 10
          | some (o, dateline) =>
            if o = 32 then { s with fab := { s.fab with loop := s.fab.loop ++ [pkt] } }
            else s.transmit o { pkt with cls := s.hopClass pkt.cls i o dateline }

/-- CIRCUIT_PACKET (11 R326): by the circuit's entry a packet is forwarded, delivered, or discarded and counted. -/
def circuitPacket (i : Fin 32) (pkt : Packet) (s : State) : State :=
  if !pkt.circuit then s
  else
    match s.portIn i pkt with
    | (s, none) => s
    | (s, some (at', pkt)) =>
      let e := s.fab.circuit pkt.circuitId
      if !kindOnVc pkt ∨ ceRole e = 0 ∨ ceRole e = 1 ∨ at' ≠ some (ceIn e) then s.countAt at' 9
      else if ceRole e = 2 then
        if s.portUp (ceOut e) then s.transmit (ceOut e) { pkt with cls := s.hopClass pkt.cls i (ceOut e) (ceDateline e) }
        else s.countAt at' 10
      else
        s.deliver { p := partOf (cePartition e), flow := circuitFlow pkt.circuitId, src := ceEndpoint e,
                    window := ceWindow e, offset := pkt.offset } pkt at'

/-! ### Acknowledgements (11 R315, R316) -/

/-- The far endpoint of a flow: a circuit's is its entry's. -/
def State.flowPeer (s : State) (flow : Nat) : Nat := if flow < 2 ^ 17 then flow / 8 else ceEndpoint (s.fab.circuit (flow - 2 ^ 20))

/-- E2E_ACK_TIMER (11 R315): 1 µs has passed since the flow's last accepted packet. -/
def e2eAckTimer (p : Fin 4) (flow : Nat) (s : State) : State :=
  let d := sget (0, 0) (s.part p).ackDue flow
  if d.1 = 0 then s
  else
    let s := (s.advance d.2).modPart p (fun P => { P with ackDue := serase P.ackDue flow })
    s.sendAck p flow (s.flowPeer flow) 0 (RecvEntry.of (s.flowEntry p (recvOffset flow))).expected

/-- Sends of a flow before a cumulative number are acknowledged.
(Log: DEDUCED, unsafe, entry 73.) -/
def Part.acknowledge (P : Part) (flow upTo : Nat) : Part :=
  let l := P.sends.filter (fun x => !(decide (x.flow = flow) && seqBelow x.seq upTo))
  { P with sends := l, timedOut := if l.length < P.sends.length then P.timedOut.filter (· != flow) else P.timedOut }

/-- The unit of a fabric fault: the port by which the flow leaves.
(Log: DESIGN CHOICE, unsafe, entry 74.) -/
def State.flowUnit (s : State) (flow : Nat) : Nat :=
  if flow < 2 ^ 17 then ((s.fab.route (flow / 8) (flow % 8)).bind (·.head?)).elim 0 (·.1) else ceOut (s.fab.circuit (flow - 2 ^ 20))

/-- ACK_RECEIVE (11 R315): a cumulative acknowledgement, and for a NACK a replayable fault, for a refusal the end of the
command whose packet was refused. ACK packets are discarded before DEVICE_READY (R333), and one that failed authentication
(R332) or its trailer, or that no routing entry brings here, is none.
(Log: DEDUCED, unsafe, entry 73.) -/
def ackReceive (pkt : Packet) (s : State) : State :=
  let s := { s with fab := { s.fab with loop := s.fab.loop.erase pkt } }
  match s.endpointPart pkt.dest with
  | none => s
  | some p =>
    if pkt.circuit ∨ pkt.kind ≠ 0x04 ∨ pkt.vc ≠ 7 ∨ s.life.deviceReady = false ∨ pkt.authentic = false ∨
        pkt.trailerOk = false ∨ s.delivers pkt = false then s
    else
      let a := pkt.aux
      let chan := fld a 40 4
      let flow := if chan = 8 then circuitFlow (fld a 44 12) else flowOf pkt.src chan
      let upTo := fld a 0 32
      let status := fld a 32 8
      let refused := (s.part p).sends.find? (fun x => decide (x.flow = flow ∧ (x.seq + 1) % 2 ^ 32 = upTo))
      let oldest := (s.part p).sends.find? (fun x => x.flow == flow)
      let s := s.modPart p (fun P => P.acknowledge flow upTo)
      match status with
      | 0 => s
      | 1 | 2 => s.recoverPart p 5 (s.flowUnit flow) 0xFFFFFFFF s.tick (fun _ _ s => s)
      | 3 | 4 => s.failSend (refused.bind (·.cmd)) .isolation
      | 5 =>
        match oldest with
        | none => s
        | some x => (s.modPart p (fun P => { P with sends := P.sends.erase x })).failSend x.cmd .unrecoverable
      | _ => s

/-- ACK_TIMEOUT (11 R315): a packet unacknowledged after FAB_CFG.ACK_TIMEOUT is a replayable fault; when the flow times
out again before any acknowledgement of it advances, its command completes as UNRECOVERABLE.
(Log: DEDUCED, unsafe, entry 73.) -/
def ackTimeout (p : Fin 4) (flow : Nat) (s : State) : State :=
  match (s.part p).sends.find? (fun x => x.flow == flow) with
  | none => s
  | some x =>
    let s := s.advance x.due
    if (s.part p).timedOut.contains flow then
      let s := s.modPart p (fun P => { P with sends := P.sends.filter (fun y => !(decide (y.flow = flow) && y.cmd == x.cmd)) })
      s.failSend x.cmd .unrecoverable
    else
      let s := s.modPart p (fun P => { P with timedOut := flow :: P.timedOut })
      s.recoverPart p 5 (s.flowUnit flow) 0xFFFFFFFF s.tick (fun _ _ s => s)

/-! ### Receive windows (11 R314) -/

/-- Read one window entry of the table at `va` and translate its range; one that fails is absent.
(Log: DEDUCED, unsafe, entry 82.) -/
def State.readWindow (s : State) (p : Fin 4) (va : Nat) : Window :=
  match s.translate p [{ va := va, len := 32, write := false }] with
  | none => { entry := [], xlats := [] }
  | some xs =>
    let b := s.readVa xs va 32
    let w : Window := { entry := b, xlats := [] }
    if !bit (at_ b 0x12 1) 0 || decide (w.base % 64 ≠ 0) || decide (w.size % 64 ≠ 0) || decide (w.size = 0) then w
    else
      match s.translate p [{ va := w.base, len := w.size, write := true }] with
      | none => w
      | some ys => { w with xlats := ys }

/-- Read every entry of the window table (RELOAD).
(Log: DEDUCED, unsafe, entry 82.) -/
def State.reloadWindows (s : State) (p : Fin 4) : State :=
  let t := (s.part p).windowTable.toNat
  let base := fld t 6 46 * 64
  let l := (List.range (fld t 52 12 + 1)).map (fun n => s.readWindow p (base + 32 * n))
  { s with free := s.free + 2 ^ 31 }.modPart p (fun P => { P with windows := l })

/-- WINDOW_TABLE_RELOAD: a write of FAB_WINDOW_TABLE with RELOAD. -/
def windowTableReload (fn : Fn) (p : Fin 4) (value : W64) (s : State) : State :=
  if s.mayWritePart fn p then
    let v := value.toNat
    (s.modPart p (fun P => { P with windowTable := BitVec.ofNat 64 (v / 64 * 64) })).reloadWindows p
  else s

/-! ### Tables and plans (11 R323, R327, R330) -/

/-- INDEX and its flags (11 Table 11.15). -/
def Fab.index (f : Fab) : Nat := fld f.tableIndex.toNat 0 14
/-- TABLE: true is the circuit table. -/
def Fab.onCircuits (f : Fab) : Bool := bit f.tableIndex.toNat 16

/-- FAB_TABLE_DATA_HIGH_WRITE: the high word is staged. -/
def fabTableDataHighWrite (fn : Fn) (value : W64) (s : State) : State :=
  if s.mayWritePkg fn then { s with fab := { s.fab with dataHigh := value } } else s

/-- Whether a PLAN_MASK names a READY or ACTIVE plan. -/
def Fab.lockedMask (f : Fab) (mask : Nat) : Bool :=
  (List.range 16).any (fun n => bit mask n && (decide (f.plan n = .ready) || decide (f.plan n = .active)))

/-- The fields of a circuit entry (11 Table 11.13). -/
def circuitMask : BitVec 128 := 0xFFFF3FFF007F1F1FFFFF0307

/-- Write a circuit entry unless its old or new PLAN_MASK names a READY or ACTIVE plan (11 R327). -/
def Fab.writeCircuit (f : Fab) (id e : Nat) : Option Fab :=
  if f.lockedMask (cePlans (f.circuit id)) || f.lockedMask (cePlans e) then none
  else some { f with circuits := sset (0#128) f.circuits id (BitVec.ofNat 128 e &&& circuitMask) }

/-- Set REFUSED. -/
def Fab.refuse (f : Fab) : Fab := { f with tableIndex := BitVec.ofNat 32 (setFld f.tableIndex.toNat 30 1 1) }

/-- INDEX advances after a commit when AUTO_INCREMENT is set. -/
def Fab.advanceIndex (f : Fab) : Fab :=
  if bit f.tableIndex.toNat 17 then { f with tableIndex := BitVec.ofNat 32 (setFld f.tableIndex.toNat 0 14 (f.index + 1)) } else f

/-- The fields of a routing entry (11 Table 11.11). -/
def routeMask : W64 := 0x800000FF7F7F7F7F

/-- FAB_TABLE_COMMIT: the write of DATA_LOW commits the entry at INDEX, or sets REFUSED.
(Log: DEDUCED, unsafe, entry 79.) -/
def Fab.commit (f : Fab) (low : W64) : Fab :=
  let f := { f with dataLow := low }
  if f.onCircuits then
    if 4096 ≤ f.index then f.refuse
    else
      match f.writeCircuit f.index (low.toNat + f.dataHigh.toNat * 2 ^ 64) with
      | none => f.refuse
      | some f => f.advanceIndex
  else { f with routes := sset 0 f.routes f.index (low &&& routeMask) }.advanceIndex

/-- FAB_TABLE_COMMIT. -/
def fabTableCommit (fn : Fn) (value : W64) (s : State) : State :=
  if s.mayWritePkg fn then { s with fab := s.fab.commit value }.releaseHeld else s

/-- The reason a circuit of a plan fails its checks, 0 for none (11 R327, Table 11.18); `before` are the plan's circuits
below it, whose shares count towards the quota of its port.
(Log: DEDUCED, unsafe, entry 79.) -/
def State.circuitReason (s : State) (plan : Nat) (before : List (Nat × Nat)) (e : Nat) : Nat :=
  let o := s.fab.owner plan
  let P := s.part (partOf o)
  let r := ceRole e
  let leaves (x : Nat) : Bool := decide (ceRole x = 1 ∨ ceRole x = 2)
  let share := (before.filter (fun x => leaves x.2 && decide (ceOut x.2 = ceOut e))).foldl (fun n x => n + ceShare x.2) (ceShare e)
  if (r = 1 ∨ r = 3) ∧ cePartition e ≠ o then 1
  else if leaves e = true ∧ quotaOf (s.port (ceOut e)).quota.toNat o < share then 2
  else if (leaves e = true ∧ s.portGone (ceOut e) = true) ∨ ((r = 2 ∨ r = 3) ∧ s.portGone (ceIn e) = true) then 3
  else if (r = 1 ∧ P.maySend (ceEndpoint e) = false) ∨ (r = 3 ∧ P.recvPerm.getLsbD (ceEndpoint e) = false) then 4
  else 0

/-- The first circuit of a plan that fails, with its reason.
(Log: DEDUCED, unsafe, entry 79.) -/
def State.planFault (s : State) (plan : Nat) : List (Nat × Nat) → List (Nat × Nat) → Option (Nat × Nat)
  | [], _ => none
  | x :: r, before =>
    let why := s.circuitReason plan before x.2
    if why = 0 then s.planFault plan r (before ++ [x]) else some (x.1, why)

/-- PLAN_LOAD (11 R327): the plan is checked and becomes READY, or FAULT with the first failing circuit in DETAIL.
(Log: DEDUCED, unsafe, entry 79.) -/
def planLoad (fn : Fn) (plan : Fin 16) (s : State) : State :=
  if s.mayWritePkg fn && decide (s.fab.plan plan ≠ .active) then
    match s.planFault plan (s.fab.planCircuits plan) [] with
    | none => { s with fab := s.fab.setPlan plan .ready }
    | some (c, why) =>
      let f := s.fab.setPlan plan .fault
      { s with fab := { f with planDetail := BitVec.ofNat 32 (c * 2 ^ 16 + why * 2 ^ 28) } }
  else s

/-- PLAN_CLEAR: a READY or FAULT plan becomes EMPTY. -/
def planClear (fn : Fn) (plan : Fin 16) (s : State) : State :=
  if s.mayWritePkg fn && decide (s.fab.plan plan ≠ .active) then { s with fab := s.fab.setPlan plan .empty } else s

/-- Apply the records of a CIRCUIT_SETUP in order, with their status bytes; a refused one sets REFUSED (11 R327, R330).
(Log: DEDUCED, safe, entry 80.) -/
def Fab.setupRecords (f : Fab) : Nat → Bytes → Fab × Bytes
  | 0, _ => (f, [])
  | n + 1, b =>
    let id := at_ b 0 2
    let (f, st) : Fab × Nat :=
      if 4096 ≤ id then (f, 5)
      else
        match f.writeCircuit id (at_ b 2 16) with
        | none => (f.refuse, 4)
        | some f => (f, 0)
    let (f, r) := f.setupRecords n (b.drop 18)
    (f, BitVec.ofNat 8 st :: r)

/-- CIRCUIT_SETUP (11 R330): the manager's packet writes circuit entries and is answered by one CIRCUIT_REPLY; before
DEVICE_READY it applies nothing and every status is NOT_READY. RETRY_MS is free but for its bound.
(Log: DEDUCED, safe, entry 80.) -/
def circuitSetup (i : Fin 32) (pkt : Packet) (s : State) : State :=
  let n := pkt.payload.length / 18
  let local' := s.fab.loop.contains pkt
  let s := { s with fab := { s.fab with loop := s.fab.loop.erase pkt } }
  if pkt.circuit ∨ pkt.kind ≠ 0x12 ∨ pkt.vc ≠ 6 ∨ (local' = false ∧ s.portUp i = false) ∨ pkt.authentic = false ∨
      pkt.trailerOk = false then s
  else
    let free := (Config.freeWord s.free).toNat
    let s := { s with free := s.free + 1 }
    if !s.life.deviceReady then
      let body := List.replicate n (4 : Byte) ++ toLe 2 (1 + free % 65535)
      s.transmit i (controlPacket 0x13 pkt.src s.fab.endpoint body)
    else if !bit s.fab.cfg.toNat 14 ∨ fld s.fab.cfg.toNat 0 14 ≠ pkt.src ∨ n = 0 ∨ 14 < n ∨ pkt.payload.length ≠ 18 * n then
      s.tele i 9 1
    else
      let (f, st) := s.fab.setupRecords n pkt.payload
      { s with fab := f }.inject (controlPacket 0x13 pkt.src s.fab.endpoint (st ++ toLe 2 (free % 65536)))

/-- The meaning of PACKET_RECEIVE. -/
def execPacketReceive (port : Fin 32) (pkt : Packet) (s : State) : Host.Outcome State Fault Refusal :=
  if pkt.wf then .next (packetReceive port pkt s) else .fault .malformedOperand
/-- The meaning of PACKET_FORWARD. -/
def execPacketForward (port : Fin 32) (pkt : Packet) (s : State) : Host.Outcome State Fault Refusal :=
  if pkt.wf then .next (packetForward port pkt s) else .fault .malformedOperand
/-- The meaning of CIRCUIT_PACKET. -/
def execCircuitPacket (port : Fin 32) (pkt : Packet) (s : State) : Host.Outcome State Fault Refusal :=
  if pkt.wf then .next (circuitPacket port pkt s) else .fault .malformedOperand
/-- The meaning of E2E_ACK_TIMER. -/
def execE2eAckTimer (p : Fin 4) (flow : Nat) (s : State) : Host.Outcome State Fault Refusal := .next (e2eAckTimer p flow s)
/-- The meaning of ACK_RECEIVE. -/
def execAckReceive (pkt : Packet) (s : State) : Host.Outcome State Fault Refusal :=
  if pkt.wf then .next (ackReceive pkt s) else .fault .malformedOperand
/-- The meaning of ACK_TIMEOUT. -/
def execAckTimeout (p : Fin 4) (flow : Nat) (s : State) : Host.Outcome State Fault Refusal := .next (ackTimeout p flow s)
/-- The meaning of CIRCUIT_SETUP. -/
def execCircuitSetup (port : Fin 32) (pkt : Packet) (s : State) : Host.Outcome State Fault Refusal :=
  if pkt.wf then .next (circuitSetup port pkt s) else .fault .malformedOperand
/-- The meaning of WINDOW_TABLE_RELOAD. -/
def execWindowTableReload (fn : Fn) (p : Fin 4) (value : W64) (s : State) : Host.Outcome State Fault Refusal :=
  .next (windowTableReload fn p value s)
/-- The meaning of FAB_TABLE_DATA_HIGH_WRITE. -/
def execFabTableDataHighWrite (fn : Fn) (value : W64) (s : State) : Host.Outcome State Fault Refusal :=
  .next (fabTableDataHighWrite fn value s)
/-- The meaning of FAB_TABLE_COMMIT. -/
def execFabTableCommit (fn : Fn) (value : W64) (s : State) : Host.Outcome State Fault Refusal := .next (fabTableCommit fn value s)
/-- The meaning of PLAN_LOAD. -/
def execPlanLoad (fn : Fn) (plan : Fin 16) (s : State) : Host.Outcome State Fault Refusal := .next (planLoad fn plan s)
/-- The meaning of PLAN_CLEAR. -/
def execPlanClear (fn : Fn) (plan : Fin 16) (s : State) : Host.Outcome State Fault Refusal := .next (planClear fn plan s)

end Sys2Proof.Machine
end

