-- ==== Sys2Proof/Machine/HostIf.lean ====
section
/-! DEFINITION. The host interface: requests to Selvage, BAR2, configuration requests, invalidation of translations and
every reset but the cold one (08 R223; 14 R394, R398 to R408, R422 to R424; 16 R460, R463, R464, R468, R469). -/

namespace Sys2Proof.Machine

/-! ### Requests to Selvage (14 R400 to R402) -/

/-- A request record as Selvage reads it (14 Table 14.2). -/
structure Request where
  kind : Nat
  part : Nat
  clean : Bool
  payload : Bytes

/-- The record of a request: the one whose GO has been written, else the one at HI_SELVAGE_REQUEST_ADDR.
(Log: DEDUCED, unsafe, entry 97.) -/
def State.request (s : State) : Request :=
  let a := s.hi.selvageBusy.getD s.hi.selvageAddr.toNat
  let h := sread s.host a 16
  { kind := at_ h 0 1, part := at_ h 1 1, clean := decide (at_ h 2 2 = 0) && decide (at_ h 8 8 = 0),
    payload := sread s.host (a + 16) (at_ h 4 4) }

/-- The end of a request: BUSY 0, RESULT and DETAIL. -/
def State.requestDone (s : State) (st : Status) (detail : Nat) : State :=
  { s with hi := { s.hi with selvageBusy := none, selvageResult := st, selvageDetail := BitVec.ofNat 16 detail } }

/-- A run of frames of one stack. -/
structure FrameRun where
  stack : Nat
  first : Nat
  count : Nat
deriving DecidableEq, Repr

/-- An entry of a frame list: none when it sets a reserved bit. -/
def frameRun (e : Nat) : Option FrameRun :=
  if fld e 4 16 = 0 ∧ fld e 52 12 = 0 then some { stack := fld e 0 4, first := fld e 20 16, count := fld e 36 16 } else none

/-- The entries of a frame list; fuel bounds them. -/
def frameList : Nat → Bytes → List (Option FrameRun)
  | 0, _ => []
  | n + 1, b => frameRun (at_ b 0 8) :: frameList n (b.drop 8)

/-- The frames of a run by their keys in the ownership table. -/
def FrameRun.keys (r : FrameRun) : List Nat := (List.range r.count).map (fun k => r.stack * 65536 + r.first + k)

/-- Whether a run lies in data frames, of a stack that works when the run is assigned.
(Log: DEDUCED, unsafe, entry 54; DEDUCED, unsafe, entry 98.) -/
def State.runOk (s : State) (assign : Bool) (r : FrameRun) : Bool :=
  decide (r.first + r.count ≤ framesPerStack s.mem.strongActive) && (!assign || !s.mem.failed.getLsbD r.stack)

/-- The first index at which a test fails. -/
def firstBad (l : List Bool) : Option Nat := l.findIdx? (fun x => !x)

/-- Zeros over a whole frame, which clears its poison (14 R402; 08 R217). -/
def Mem.zeroFrame (m : Mem) (key : Nat) : Mem :=
  let inFrame (pa : Nat) : Bool := decide (pa / 2 ^ 37 = key / 65536 ∧ pa % 2 ^ 37 / 2 ^ 21 = key % 65536)
  { m with bytes := m.bytes.filter (fun x => !inFrame x.1), poison := m.poison.filter (fun sec => !inFrame (sec * 64)) }

/-- Whether a resource of another partition is out of reach: that partition is not DISABLED (14 R401). -/
def State.foreign (s : State) (p : Fin 4) (owner : Option (Fin 4)) : Bool :=
  match owner with
  | none => false
  | some o => decide (o ≠ p) && decide ((s.part o).state ≠ .disabled)

/-- The partition that owns a frame by its key. -/
def Mem.frameOwner (m : Mem) (key : Nat) : Option (Fin 4) :=
  match sget 0 m.owner key with
  | 0 => none
  | k + 1 => some (partOf k)

/-- A frame joins a partition: zeroed first unless it is there already, and it leaves the partition it was in, whose
cached translations are discarded (08 R223).
(Log: DEDUCED, unsafe, entry 98.) -/
def State.joinFrame (s : State) (p : Fin 4) (key : Nat) : State :=
  match s.mem.frameOwner key with
  | some o =>
    if o = p then s
    else
      let s := s.modPart o (fun P => { P with tlb := [] })
      let m := s.mem.zeroFrame key
      { s with mem := { m with owner := sset 0 m.owner key (p.val + 1) } }
  | none =>
    let m := s.mem.zeroFrame key
    { s with mem := { m with owner := sset 0 m.owner key (p.val + 1) } }

/-- A frame leaves a partition that owns it.
(Log: DEDUCED, unsafe, entry 98.) -/
def State.leaveFrame (s : State) (p : Fin 4) (key : Nat) : State :=
  if s.mem.frameOwner key = some p then { s with mem := { s.mem with owner := serase s.mem.owner key } } else s

/-- A request of one kind: the host's stores, then NOT_READY before DEVICE_READY, INVALID_COMMAND for a malformed record
(`form` gives the index of what is malformed), ISOLATION_FAULT (`reach` gives the index that is out of reach), or the
effect. A well-formed record of another kind is another row's. -/
def State.selvage (s : State) (kind : Nat) (host : HostStores) (form : State → Request → Option Nat)
    (reach : State → Fin 4 → Request → Option Nat) (effect : State → Fin 4 → Request → State) : State :=
  let s := { s with host := sstores s.host host }
  if !s.life.deviceReady then s.requestDone .notReady 0
  else
    let r := s.request
    if 1 ≤ r.kind ∧ r.kind ≤ 5 ∧ r.kind ≠ kind then s
    else if r.kind ≠ kind ∨ 3 < r.part ∨ r.clean = false then s.requestDone .invalid 0
    else
      let p := partOf r.part
      match form s r with
      | some d => s.requestDone .invalid d
      | none =>
        if (s.part p).state ≠ .disabled then s.requestDone .isolation 0
        else
          match reach s p r with
          | some d => s.requestDone .isolation d
          | none => (effect s p r).requestDone .ok 0

/-- A 160-byte core bitmap. -/
def coreMap (b : Bytes) : BitVec 1280 := BitVec.ofNat 1280 (le b)

/-- ASSIGN_CORES: the partition owns exactly the cores set. -/
def assignCores (host : HostStores) (s : State) : State :=
  s.selvage 1 host
    (fun _ r => if r.payload.length = 160 then none else some 0)
    (fun s p r => firstBad ((List.range 1280).map (fun l => !((coreMap r.payload).getLsbD l && s.foreign p (s.coreOwner l)))))
    (fun s p r =>
      let m := coreMap r.payload
      let s := s.drift
      { s with parts := s.parts.map (fun (P : Part) => { P with cores := P.cores &&& ~~~m }) }.modPart p
        (fun P => { P with cores := m }))

/-- The form of a frame list.
(Log: DEDUCED, unsafe, entry 98.) -/
def State.frameForm (s : State) (assign : Bool) (r : Request) : Option Nat :=
  if r.payload.length % 8 ≠ 0 then some 0
  else firstBad ((frameList (r.payload.length / 8) r.payload).map (fun e => e.any (s.runOk assign)))

/-- The first entry of a frame list out of reach. -/
def State.frameReach (s : State) (p : Fin 4) (r : Request) : Option Nat :=
  firstBad ((frameList (r.payload.length / 8) r.payload).map (fun e =>
    !e.any (fun x => x.keys.any (fun k => s.foreign p (s.mem.frameOwner k)))))

/-- The frames a list names. -/
def requestFrames (r : Request) : List Nat := (frameList (r.payload.length / 8) r.payload).flatMap (fun e => e.elim [] (·.keys))

/-- ASSIGN_FRAMES. -/
def assignFrames (host : HostStores) (s : State) : State :=
  s.selvage 2 host (fun s r => s.frameForm true r) (fun s p r => s.frameReach p r)
    (fun s p r => (requestFrames r).foldl (fun s k => s.joinFrame p k) s)

/-- RELEASE_FRAMES: the frames leave the partition, whose cached translations are discarded. -/
def releaseFrames (host : HostStores) (s : State) : State :=
  s.selvage 3 host (fun s r => s.frameForm false r) (fun s p r => s.frameReach p r)
    (fun s p r => ((requestFrames r).foldl (fun s k => s.leaveFrame p k) s).modPart p (fun P => { P with tlb := [] }))

/-- SET_ENDPOINTS. -/
def setEndpoints (host : HostStores) (s : State) : State :=
  s.selvage 4 host
    (fun _ r => if r.payload.length = 4098 ∧ at_ r.payload 0 2 < 2 ^ 14 then none else some 0)
    (fun s p r => if (List.finRange 4).any (fun o => decide (o ≠ p) && (s.part o).endpoint == some (at_ r.payload 0 2))
      then some 0 else none)
    (fun s p r => s.modPart p (fun P => { P with
      endpoint := some (at_ r.payload 0 2), sendPerm := BitVec.ofNat 16384 (le ((r.payload.drop 2).take 2048)),
      recvPerm := BitVec.ofNat 16384 (le (r.payload.drop 2050)) }))

/-- MEMORY_ENCRYPTION (16 R469): a change, or a new key, zero-fills every frame of the partition first.
(Log: DEDUCED, unsafe, entry 124.) -/
def memoryEncryption (host : HostStores) (s : State) : State :=
  s.selvage 5 host
    (fun _ r => if r.payload.length = 8 ∧ at_ r.payload 0 8 < 4 then none else some 0)
    (fun _ _ _ => none)
    (fun s p r =>
      let on := bit (at_ r.payload 0 1) 0
      if on = (s.part p).memKey.isSome ∧ bit (at_ r.payload 0 1) 1 = false then s
      else
        let m := (s.mem.owner.filter (fun x => decide (x.2 = p.val + 1))).foldl (fun m x => m.zeroFrame x.1) s.mem
        { s with mem := m, free := s.free + 1 }.modPart p (fun P => { P with memKey := if on then some s.free else none }))

/-! ### BAR2 (14 R406, R407) -/

/-- The partition a function's BAR2 reaches: none is a Completer Abort. -/
def State.bar2Part (s : State) (fn : Fn) : Option (Fin 4) :=
  if !s.life.deviceReady then none
  else
    match fn with
    | .vf n => some n
    | .pf =>
      let p := partOf (fld s.hi.pfBar2Select.toNat 0 2)
      if bit s.hi.pfBar2Select.toNat 2 && decide (s.servingFn p = .pf) then some p else none

/-- Where a byte of a partition's address space lies for BAR2: device memory only, by the tables as they stand. -/
def State.bar2Addr (s : State) (p : Fin 4) (write : Bool) (va : Nat) : Option Nat :=
  if va < 2 ^ 52 ∧ bit (s.part p).pageTableBase.toNat 0 = true then
    match walk s.mem p (s.part p).pageTableBase (va / 2 ^ 21) with
    | none => none
    | some x => if !x.host && s.mem.allowed p x write then some (x.base + va % 2 ^ 21) else none
  else none

/-- Every byte of a BAR2 access, or none. -/
def State.bar2Addrs (s : State) (p : Fin 4) (write : Bool) (va n : Nat) : Option (List Nat) :=
  (List.range n).mapM (fun k => s.bar2Addr p write (va + k))

/-- Whether an access lies in a function's BAR2: one outside is no access of the function. -/
def HostIf.inBar2 (h : HostIf) (fn : Fn) (offset n : Nat) : Bool :=
  decide (offset + n ≤ 2 ^ (match fn with | .pf => h.pfBar | .vf _ => h.vfBar))

/-- BAR2_READ.
(Log: DEDUCED, unsafe, entry 99.) -/
def bar2Read (fn : Fn) (offset length : Nat) (s : State) : State :=
  if !(s.fnExists fn && s.hi.inBar2 fn offset length) then s
  else
    match s.bar2Part fn with
    | none => s.emit (.completerAbort fn)
    | some p =>
      match s.bar2Addrs p false ((s.part p).bar2Base.toNat + offset) length with
      | none => (s.emit (.completerAbort fn)).aer p
      | some l => s.emit (.readData fn (l.map s.mem.byte))

/-- BAR2_WRITE.
(Log: DEDUCED, unsafe, entry 99.) -/
def bar2Write (fn : Fn) (offset : Nat) (data : Bytes) (s : State) : State :=
  if !(s.fnExists fn && s.hi.inBar2 fn offset data.length) then s
  else
    match s.bar2Part fn with
    | none => s.emit (.completerAbort fn)
    | some p =>
      match s.bar2Addrs p true ((s.part p).bar2Base.toNat + offset) data.length with
      | none => s.aer p
      | some _ =>
        (pieces (data.length / 65536 + 2) ((s.part p).bar2Base.toNat + offset) data).foldl (fun s pc =>
          match s.bar2Addr p true pc.va with
          | none => s
          | some a => s.writeOutside a pc.bytes) s

/-! ### Configuration requests (14 R394, R398; 16 R458, R460, R468) -/

/-- Whether a function may read a measurement block (16 R468). -/
def mayMeasure (fn : Fn) (block : Nat) : Bool :=
  decide (1 ≤ block ∧ block ≤ 6) ||
    match fn with
    | .pf => decide (10 ≤ block ∧ block ≤ 13)
    | .vf n => decide (block = 10 + n.val)

/-- Whether a function offers a feature (14 Table 14.1): none that the table does not list. -/
def offers (fn : Fn) (c : PcieCap) : Bool :=
  match c with
  | .msix | .aer | .doe | .resizableBar | .flr | .atomicRequester => true
  | .sriov => decide (fn = .pf)
  | .atomicCompleter | .msi | .intx | .ats | .pri | .pasid | .aspm | .l0p | .tph | .other => false

/-- A write of MSI-X Enable and Function Mask: the messages that were pending on vectors no longer masked are sent.
(Log: PRESUMED, unsafe, entry 18.) -/
def State.setMsixControl (s : State) (fn : Fn) (enable mask : Bool) : State :=
  let s := { s with hi := { s.hi with msixControl := sset 0 s.hi.msixControl (fnIndex fn) (enable.toNat + 2 * mask.toNat) } }
  if !enable || mask then s
  else
    ((List.range (fnVectors fn)).filter (fun v => s.hi.pendingBit fn v && !s.hi.masked fn v)).foldl (fun s v =>
      { s with hi := s.hi.setPending fn v false }.sendMsix fn v) s

/-- CONFIG_REQUEST: served within 80 ms of PERST_N release, answered with Configuration Request Retry Status until then. Block 2
reads as zeros while the Selvage patch is absent (16 R459, Table 16.11).
(Log: DESIGN CHOICE, unsafe, entry 71; DESIGN CHOICE, safe, entry 96.) -/
def configRequest (fn : Fn) (req : CfgReq) (s : State) : State :=
  if !s.hi.linkUp then s
  else if s.tick < s.life.bootAt + 80000000 ∧ s.life.deviceReady = false ∧ Config.freeBool s.free = true then
    { s with free := s.free + 1 }.emit .configRetry
  else
    let s := { s with free := s.free + 1 }
    match req with
    | .read off => if s.fnExists fn then s.emit (.configReply (Config.configSpace (fnIndex fn * 4096 + off))) else s
    | .capability c => if s.fnExists fn then s.emit (.configReply (BitVec.ofNat 32 (offers fn c).toNat)) else s
    | .msixControl enable mask => if s.fnExists fn then s.setMsixControl fn enable mask else s
    | .deviceControl payload readSize =>
      if s.fnExists fn && decide (payload ≤ 1 ∧ readSize ≤ 5) then
        { s with hi := { s.hi with devControl := sset 0 s.hi.devControl (fnIndex fn) (payload + 8 * readSize) } }
      else s
    | .resizeBar vf size =>
      if fn = .pf ∧ 30 ≤ size ∧ size ≤ (if vf then 39 else 41) then
        { s with hi := { s.hi with pfBar := if vf then s.hi.pfBar else size, vfBar := if vf then size else s.hi.vfBar } }
      else s
    | .vfEnable on n =>
      if fn = .pf ∧ n ≤ 4 then
        { s with hi := { s.hi with vfEnable := on, numVfs := if s.hi.vfEnable then s.hi.numVfs else n } }
      else s
    | .measure block =>
      if s.fnExists fn && mayMeasure fn block then
        { s with free := s.free + 48 }.emit (.measurement block (if block = 2 ∧ s.life.patchVersion = 0 then zeros 48
          else (List.range 48).map (fun k => Config.cryptoByte (s.free + k))))
      else s

/-! ### Registers of their own row (08 R223; 02 R64, R65) -/

/-- TLB_INVALIDATE: the partition's cached translations are discarded, and DONE reads 1.
(Log: DESIGN CHOICE, safe, entry 47.) -/
def tlbInvalidate (fn : Fn) (p : Fin 4) (s : State) : State :=
  if s.mayWritePart fn p then s.modPart p (fun P => { P with tlb := [], tlbDone := true }) else s

/-- STREAM_PRIORITY_WRITE (02 R64): only a permutation of the four streams takes effect. -/
def streamPriorityWrite (fn : Fn) (p : Fin 4) (value : W32) (s : State) : State :=
  let v := value.toNat
  if s.mayWritePart fn p && [0, 1, 2, 3].all (fun k => [0, 1, 2, 3].any (fun r => decide (fld v (2 * r) 2 = k))) then
    s.modPart p (fun P => { P with streamPriority := value &&& 0xFF })
  else s

/-- MIN of a stream. -/
def shareMin (low stream : Nat) : Nat := fld low (5 * stream) 5

/-- MAX of a stream: those of F and B stand in the low register. -/
def shareMax (low high stream : Nat) : Nat := if stream < 2 then fld low (21 + 5 * stream) 5 else fld high (5 * (stream - 2)) 5

/-- Whether shares may stand (02 R65). -/
def sharesOk (low high : Nat) : Bool :=
  [0, 1, 2, 3].all (fun k => decide (shareMin low k ≤ 16) && decide (1 ≤ shareMax low high k) &&
    decide (shareMax low high k ≤ 16) && decide (shareMin low k ≤ shareMax low high k)) &&
    decide (shareMin low 0 + shareMin low 1 + shareMin low 2 + shareMin low 3 ≤ 16)

/-- STREAM_SHARE_WRITE: a write whose result may not stand leaves every share unchanged. -/
def streamShareWrite (fn : Fn) (p : Fin 4) (high : Bool) (value : W32) (s : State) : State :=
  let P := s.part p
  let low' := if high then P.streamShare else value &&& 0x7FEFFFFF
  let high' := if high then value &&& 0x3FF else P.streamShareHigh
  if s.mayWritePart fn p && sharesOk low'.toNat high'.toNat then
    s.setPart p { P with streamShare := low', streamShareHigh := high' }
  else s

/-! ### Resets (14 R422 to R424) -/

/-- The bytes of the flow table that translate to frames the partition owns, as runs of 64 KiB: none with translation off or
BASE 0 (14 R423).
(Log: DEDUCED, unsafe, entry 75.) -/
def State.flowRuns (s : State) (p : Fin 4) : List Nat :=
  let P := s.part p
  if P.flowBase = 0 ∨ bit P.pageTableBase.toNat 0 = false then []
  else (List.range 33).filterMap (fun k =>
    let va := P.flowBase + 65536 * k
    match s.pageXlat p (va / 2 ^ 21) with
    | none => none
    | some x => if !x.host && s.mem.allowed p x false then some (x.base + va % 2 ^ 21) else none)

/-- The partition block and everything the device keeps for a partition after its reset (14 R423): its resources, the
base of its flow table and its advanced generation stay, as do the observation counts that only a cold reset clears.
(Log: DEDUCED, unsafe, entry 100.) -/
def Part.resetKeeping (P : Part) : Part :=
  { Part.reset with
    state := .resetting,
    flowCfg := BitVec.ofNat 64 (P.flowBase + (P.generation + 1) % 65536),
    cores := P.cores, endpoint := P.endpoint, sendPerm := P.sendPerm, recvPerm := P.recvPerm, memKey := P.memKey,
    traceWritten := P.traceWritten, traceStreamed := P.traceStreamed, snapshotCount := P.snapshotCount }

/-- A partition reset in the order of 14 R423.
(Log: DEDUCED, unsafe, entry 100.) -/
def State.resetPart (s : State) (p : Fin 4) : State :=
  let s := s.drift
  let P := s.part p
  let m := (P.shadows.filter (fun x => decide (P.released < x.epoch))).foldl Mem.restoreBlock s.mem
  let s := { s with
    mem := { m with pressQueue := m.pressQueue.filter (fun x => x.2.p != p) }
    fab := { s.fab with held := s.fab.held.filter (fun h => !h.send.any (fun (x : Fin 4 × Option Cid × Nat × Nat) => x.1 == p)) }
    cores := { s.cores with
      retained := s.cores.retained.filter (fun r => r.cid.p != p)
      background := s.cores.background.filter (fun b => b.started || !b.cid.any (fun (c : Cid) => c.p == p)) } }
  let runs := s.flowRuns p
  let s := { s with mem := { s.mem with
    bytes := s.mem.bytes.filter (fun x => !runs.any (fun a => decide (a ≤ x.1 ∧ x.1 < a + 65536)))
    poison := s.mem.poison.filter (fun sec => !runs.any (fun a => coversSector a 65536 sec)) } }
  let f := (List.range 16).foldl (fun (f : Fab) n =>
    if f.owner n = p.val ∧ f.plan n = .active then f.setPlan n .ready else f) s.fab
  { s with fab := f }.setPart p P.resetKeeping

/-- PARTITION_RESET: by PT_CTRL.RESET of the serving function or the PF, or the FLR of the serving VF.
(Log: DEDUCED, unsafe, entry 100.) -/
def partitionReset (fn : Fn) (p : Fin 4) (s : State) : State :=
  if (s.mayWritePart fn p || s.mayWritePkg fn) && decide ((s.part p).state ≠ .resetting) then s.resetPart p else s

/-- PARTITION_RESET_DONE. -/
def partitionResetDone (p : Fin 4) (s : State) : State :=
  if (s.part p).state = .resetting then s.modPart p (fun P => { P with state := .disabled }) else s

/-- The registers of the package block at reset; what no register holds stays.
(Log: PRESUMED, unsafe, entry 18; DEDUCED, unsafe, entry 101.) -/
def HostIf.resetBlock (h : HostIf) : HostIf :=
  { HostIf.reset with
    linkUp := h.linkUp, msix := h.msix, msixPending := h.msixPending, msixControl := h.msixControl, devControl := h.devControl,
    pfBar := h.pfBar, vfBar := h.vfBar }

/-- FAB_PORT_CTRL at reset: ENABLE 1 and MEDIUM from the port configuration record. -/
def Life.portReset (l : Life) (i : Nat) : W32 := BitVec.ofNat 32 (1 + 2 * sget 0 l.portMedium i)

/-- The registers of a port at reset with its training kept; one that was off trains.
(Log: DEDUCED, unsafe, entry 101.) -/
def Port.resetRegs (P : Port) (ctrl : W32) : Port :=
  { P with ctrl := ctrl, quota := 0, state := if P.state = .disabled then .training else P.state }

/-- PF_FUNCTION_LEVEL_RESET (14 R422).
(Log: DEDUCED, unsafe, entry 101.) -/
def pfFunctionLevelReset (s : State) : State :=
  let s := (List.finRange 4).foldl (fun s p => if (s.part p).state = .resetting then s else s.resetPart p) s
  let s := (List.range 32).foldl (fun s i => s.modPort i (fun P => P.resetRegs (s.life.portReset i))) s
  { s with hi := s.hi.resetBlock, fab := { Fab.reset with endpoint := s.fab.endpoint } }

/-- TARGET, END and INDEX as HI_PARTIAL_RESET packs them. -/
def partialKey (target index : Nat) (atB : Bool) : Nat := target + 4 * atB.toNat + index % 2048 * 2 ^ 16

/-- The end of a partial reset: BUSY 0 and RESULT; one that was not in progress also leaves its fields in the register. -/
def State.partialDone (s : State) (target index : Nat) (atB : Bool) (st : Status) : State :=
  { s with hi := { s.hi with
    partialReset := if s.hi.partialBusy.isSome then s.hi.partialReset else BitVec.ofNat 32 (partialKey target index atB),
    partialResult := st, partialBusy := none } }

/-- Whether a partial reset is carried out now: the one in progress, or a GO while none is. -/
def State.mayPartial (s : State) (target index : Nat) (atB : Bool) : Bool :=
  s.life.deviceReady && (s.hi.partialBusy.all (fun k => decide (k = partialKey target index atB)))

/-- PARTIAL_RESET_VELAC: what the die's switch slice held on its way is lost, and its eight ports drop and retrain; no
table is lost (11 R323; 14 R424).
(Log: DEDUCED, unsafe, entry 69.) -/
def partialResetVelac (index : Nat) (s : State) : State :=
  if !s.mayPartial 1 index (s.hi.partialBusy.any (fun k => bit k 2)) then s
  else if 3 < index then s.partialDone 1 index false .invalid
  else ((List.range 8).foldl (fun s k =>
      (s.dropLink (8 * index + k)).modPort (8 * index + k) (fun P =>
        { P.egress.foldl (fun P x => P.depthAt s.tick x.slot) P with egress := [] })) s).partialDone 1 index false .ok

/-- PARTIAL_RESET_SEAM_ADAPTER: the Seam retrains, and every partition replays. -/
def partialResetSeamAdapter (index : Nat) (atB : Bool) (s : State) : State :=
  if !s.mayPartial 2 index atB then s
  else if h : index < 12 then (s.resetAdapter ⟨index, h⟩ atB).partialDone 2 index atB .ok
  else s.partialDone 2 index atB .invalid

/-- A core vacated to a spare at an epoch boundary (13 R379; 16 R464): the record names the physical core.
(Log: DEDUCED, unsafe, entry 102.) -/
def State.vacate (s : State) (l spare : Nat) : State :=
  let phys := s.cores.phys l
  (({ s with cores := s.cores.place l spare }).lifeNote 1 (1 + l / 320) [phys, spare]).health
    { Health.plain 4 0 (s.ownerBits l) phys s.tick with spare := spare }

/-- A physical core that failed its test is retired, its logical id staying on the spare (13 R378; 16 R464).
(Log: DEDUCED, unsafe, entry 102.) -/
def State.failTest (s : State) (l phys : Nat) : State :=
  let s := { s with cores := { s.cores with
    retired := s.cores.retired ++ [phys], strikes := s.cores.strikes.filter (fun x => x.1 != phys) } }
  (s.lifeNote 2 (1 + l / 320) [phys, 0]).health (Health.plain 5 0 (s.ownerBits l) phys s.tick)

/-- The partial reset of a logical core, waiting or under way. -/
def State.coreReset (s : State) (index : Nat) : Option Background :=
  s.cores.background.find? (fun b => b.target == 4 && b.index == index)

/-- A partial reset of a core waits for an epoch boundary and for a free spare of its die, for 10 ms. -/
def State.coreResetWait (s : State) (index : Nat) : State :=
  let b : Background :=
    { cid := none, cmdId := 0, target := 4, index := index, phys := 0, started := false, boundaryAt := none,
      due := s.tick + 10000000, start := 0, result := 0, xlats := [] }
  if (s.coreReset index).isSome then s else { s with cores := { s.cores with background := s.cores.background ++ [b] } }

/-- The reset of a core is no longer under way. -/
def State.coreResetDone (s : State) (b : Background) (st : Status) : State :=
  { s with cores := { s.cores with background := s.cores.background.erase b } }.partialDone 3 b.index false st

/-- The core is vacated: its logical id moves to a spare. -/
def State.coreResetStart (s : State) (b : Background) (spare : Nat) : State :=
  let started := { b with started := true, boundaryAt := none, phys := s.cores.phys b.index, start := s.tick }
  let s := s.drift
  { s with cores := { s.cores with background := s.cores.background.replace b started } }.vacate b.index spare

/-- The core has been reset and tested: its logical id returns, or it is retired and its id stays on the spare.
(Log: DEDUCED, unsafe, entry 102.) -/
def State.coreResetEnd (s : State) (b : Background) (passed : Bool) : State :=
  let s := (s.advance (b.start + workTime b.target)).drift
  let s :=
    if !passed then s.failTest b.index b.phys
    else if s.cores.absent.getLsbD b.index then s
    else { s with cores := s.cores.place b.index b.phys }
  (s.clockStop (unitOf 0 b.index) b.start (fun p => (s.part p).ownsCore b.index)).coreResetDone b .ok

/-- PARTIAL_RESET_CORE: a step of the partial reset of a core. At an epoch boundary of its partition the core is vacated to one
of at least two unused spares of its die; at a later one, reset and tested, it returns or is retired. Without the spares for
10 ms nothing is reset and the result is DEFERRED.
(Log: DEDUCED, unsafe, entry 102.) -/
def partialResetCore (index : Nat) (passed : Bool) (s : State) : State :=
  let key := s.hi.partialBusy.getD (partialKey 3 index false)
  if !s.mayPartial 3 index (bit key 2) then s
  else if 1280 ≤ index then s.partialDone 3 index false .invalid
  else
    let s := { s with hi := { s.hi with
      partialReset := if s.hi.partialBusy.isSome then s.hi.partialReset else BitVec.ofNat 32 key,
      partialBusy := some key } }.coreResetWait index
    match s.coreReset index with
    | none => s
    | some b =>
      if b.started then (if s.atBoundary b then s.coreResetEnd b passed else s)
      else
        match s.cores.absent.getLsbD index, s.cores.freeSpares (index / 320) with
        | false, sp :: _ :: _ => if s.atBoundary b then s.coreResetStart b sp else s
        | _, _ => (s.advance b.due).coreResetDone b .deferred

/-- The meaning of ASSIGN_CORES. -/
def execAssignCores (host : HostStores) (s : State) : Host.Outcome State Fault Refusal := .next (assignCores host s)
/-- The meaning of ASSIGN_FRAMES. -/
def execAssignFrames (host : HostStores) (s : State) : Host.Outcome State Fault Refusal := .next (assignFrames host s)
/-- The meaning of RELEASE_FRAMES. -/
def execReleaseFrames (host : HostStores) (s : State) : Host.Outcome State Fault Refusal := .next (releaseFrames host s)
/-- The meaning of SET_ENDPOINTS. -/
def execSetEndpoints (host : HostStores) (s : State) : Host.Outcome State Fault Refusal := .next (setEndpoints host s)
/-- The meaning of MEMORY_ENCRYPTION. -/
def execMemoryEncryption (host : HostStores) (s : State) : Host.Outcome State Fault Refusal := .next (memoryEncryption host s)
/-- The meaning of BAR2_READ. -/
def execBar2Read (fn : Fn) (offset length : Nat) (s : State) : Host.Outcome State Fault Refusal := .next (bar2Read fn offset length s)
/-- The meaning of BAR2_WRITE. -/
def execBar2Write (fn : Fn) (offset : Nat) (data : Bytes) (s : State) : Host.Outcome State Fault Refusal :=
  .next (bar2Write fn offset data s)
/-- The meaning of CONFIG_REQUEST. -/
def execConfigRequest (fn : Fn) (req : CfgReq) (s : State) : Host.Outcome State Fault Refusal := .next (configRequest fn req s)
/-- The meaning of TLB_INVALIDATE. -/
def execTlbInvalidate (fn : Fn) (p : Fin 4) (s : State) : Host.Outcome State Fault Refusal := .next (tlbInvalidate fn p s)
/-- The meaning of STREAM_PRIORITY_WRITE. -/
def execStreamPriorityWrite (fn : Fn) (p : Fin 4) (value : W32) (s : State) : Host.Outcome State Fault Refusal :=
  .next (streamPriorityWrite fn p value s)
/-- The meaning of STREAM_SHARE_WRITE. -/
def execStreamShareWrite (fn : Fn) (p : Fin 4) (high : Bool) (value : W32) (s : State) : Host.Outcome State Fault Refusal :=
  .next (streamShareWrite fn p high value s)
/-- The meaning of PARTITION_RESET. -/
def execPartitionReset (fn : Fn) (p : Fin 4) (s : State) : Host.Outcome State Fault Refusal := .next (partitionReset fn p s)
/-- The meaning of PARTITION_RESET_DONE. -/
def execPartitionResetDone (p : Fin 4) (s : State) : Host.Outcome State Fault Refusal := .next (partitionResetDone p s)
/-- The meaning of PF_FUNCTION_LEVEL_RESET. -/
def execPfFunctionLevelReset (s : State) : Host.Outcome State Fault Refusal := .next (pfFunctionLevelReset s)
/-- The meaning of PARTIAL_RESET_VELAC. -/
def execPartialResetVelac (index : Nat) (s : State) : Host.Outcome State Fault Refusal := .next (partialResetVelac index s)
/-- The meaning of PARTIAL_RESET_SEAM_ADAPTER. -/
def execPartialResetSeamAdapter (index : Nat) (atB : Bool) (s : State) : Host.Outcome State Fault Refusal :=
  .next (partialResetSeamAdapter index atB s)
/-- The meaning of PARTIAL_RESET_CORE. -/
def execPartialResetCore (index : Nat) (selfTestPassed : Bool) (s : State) : Host.Outcome State Fault Refusal :=
  .next (partialResetCore index selfTestPassed s)

end Sys2Proof.Machine
end

