-- ==== Sys2Proof/Machine/Observe.lean ====
section
/-! DEFINITION. Snapshots, Peg, trace streaming and the observation registers (15 R428 to R448). -/

namespace Sys2Proof.Machine

/-! ### Counter images (15 R428, R432, Table 15.4) -/

/-- The counters of the ports as their sections hold them: class 7, with `early` taken out of what was received: packets
and bytes, a port's bytes at 32 + its number. -/
def State.portCounters (s : State) (early : SMap Nat) : SMap Nat :=
  let sum (i k : Nat) : Nat := (List.range 9).foldl (fun n v => n + sget 0 (s.port i).telemetry (16 + 8 * v + k)) 0
  (List.range 32).flatMap (fun i =>
    [(ctrKey 7 i 0, sum i 0), (ctrKey 7 i 1, sum i 2 - sget 0 early i), (ctrKey 7 i 2, sum i 1),
     (ctrKey 7 i 3, sum i 3 - sget 0 early (32 + i)), (ctrKey 7 i 6, sget 0 (s.port i).telemetry 6)].filter
      (fun x => decide (x.2 ≠ 0)))

/-- Every counter at this tick, as a snapshot captures it. -/
def State.counterImage (s : State) : SMap Nat := s.obs.count ++ s.portCounters []

/-- Every counter at this tick, as a Peg image captures it: a packet with POST_CUT is never counted in a port's image (15
R445). -/
def State.pegImage (s : State) : SMap Nat := s.obs.count ++ s.portCounters s.obs.peg.earlyPort

/-- One captured counter: the model's count and the spans captured with it; the port section's IN_FLIGHT and EARLY_POST_CUT
come from the Peg. -/
def State.counterAt (s : State) (image : SMap Nat) (drifts : List Drift) (cls unit idx : Nat) : Nat :=
  if cls = 7 ∧ idx = 4 then sget 0 s.obs.peg.inFlight unit
  else if cls = 7 ∧ idx = 5 then sget 0 s.obs.peg.earlyPort unit
  else counterOf image drifts cls unit idx

/-- Counters of a section of each class (15 Table 15.2). -/
def sectionLength : Nat → Nat
  | 0 => 21
  | 1 => 6
  | 2 => 4
  | 3 => 8
  | 4 => 4
  | 5 => 8
  | _ => 7

/-- A section with `n` counters.
(Log: DESIGN CHOICE, safe, entry 107.) -/
def State.section_ (s : State) (image : SMap Nat) (drifts : List Drift) (cls unit n : Nat) : Bytes :=
  toLe 2 (unitOf cls unit) ++ toLe 2 n ++ zeros 4 ++ toLe 8 (counterOf image drifts cls unit 63) ++
    (List.range n).flatMap (fun k => toLe 8 (s.counterAt image drifts cls unit k))

/-- What the head of an image says beside its counters. -/
structure ImageHead where
  tick : Nat
  tags : Bytes
  source : Nat
  flags : Nat
  sequence : Nat
  pegId : Nat
  origin : Nat

/-- A snapshot or Peg image of sections. -/
def ImageHead.bytes (h : ImageHead) (sections : List Bytes) : Bytes :=
  let body := sections.flatten
  toLe 8 h.tick ++ fit 14 h.tags ++ toLe 1 h.source ++ toLe 1 h.flags ++ toLe 8 h.sequence ++ toLe 2 sections.length ++
    toLe 2 h.pegId ++ toLe 2 h.origin ++ zeros 2 ++ toLe 4 (64 + body.length) ++ zeros 20 ++ body

/-- The sections of a partition: its own, and one per logical core that it owns; an absent core has COUNT 0. -/
def State.partSections (s : State) (image : SMap Nat) (drifts : List Drift) (p : Fin 4) : List Bytes :=
  s.section_ image drifts 1 p.val (sectionLength 1) ::
    (((List.range 1280).filter (fun l => (s.part p).cores.getLsbD l)).map (fun l =>
      s.section_ image drifts 0 l (if s.cores.absent.getLsbD l then 0 else sectionLength 0)))

/-- The sections of the package: stacks, Press units, Seams, dies and ports. -/
def State.pkgSections (s : State) (image : SMap Nat) (drifts : List Drift) : List Bytes :=
  [(3, 16), (4, 16), (5, 12), (2, 4), (7, 32)].flatMap (fun (c : Nat × Nat) =>
    (List.range c.2).map (fun u => s.section_ image drifts c.1 u (sectionLength c.1)))

/-- A partition's image of counters captured as `image` and `drifts`, and the count of what it has written. -/
def State.partImage (s : State) (p : Fin 4) (image : SMap Nat) (drifts : List Drift) (h : ImageHead) : Bytes × State :=
  ({ h with sequence := (s.part p).snapshotCount }.bytes (s.partSections image drifts p),
    s.modPart p (fun P => { P with snapshotCount := P.snapshotCount + 1 }))

/-- The package's image, written to the host when OBS_PKG_IMAGE_ADDR is not 0. -/
def State.pkgImage (s : State) (image : SMap Nat) (drifts : List Drift) (h : ImageHead) : State :=
  if s.obs.imageAddr = 0 then s
  else
    let s := s.hostWrite s.obs.imageAddr.toNat ({ h with sequence := s.obs.written }.bytes (s.pkgSections image drifts))
    { s with obs := { s.obs with written := s.obs.written + 1 } }

/-- Write bytes to an observation region of p, page by page; what does not translate is not written.
(Log: DEDUCED, unsafe, entry 108.) -/
def State.obsPut (s : State) (p : Fin 4) (va : Nat) (b : Bytes) : State :=
  (pieces (b.length / 65536 + 2) va b).foldl (fun s pc =>
    match s.obsAddr p pc.va with
    | none => s
    | some a => s.obsWrite a pc.bytes) s

/-! ### Snapshots (15 R432 to R435, R439) -/

/-- A capture comes 2,048 ticks after its request (15 R432). -/
def captureDelay : Nat := 2048

/-- Whether the body of a SNAPSHOT has its form: DST 64-byte aligned, reserved bytes 0. -/
def snapshotFieldsOk (c : Bytes) : Bool := decide (at_ c 0x20 8 % 64 = 0) && zeroAt c 0x2C 84

/-- The bytes of a partition snapshot. -/
def State.snapshotSize (s : State) (p : Fin 4) : Nat :=
  ((List.range 1280).filter (fun l => (s.part p).cores.getLsbD l)).foldl (fun n l =>
    n + if s.cores.absent.getLsbD l then 16 else 184) 128

/-- The checks of SNAPSHOT: DST_BYTES below the snapshot's length is invalid. -/
def State.snapshotCheck (s : State) (p : Fin 4) (e : Entry) : Except Status (List Xlat × List Rng) :=
  let n := s.snapshotSize p
  let r : Rng := { va := (at_ e.cmd 0x20 8 : Int), len := n, write := true }
  if !snapshotFieldsOk e.cmd || decide (at_ e.cmd 0x28 4 < n) then .error .invalid
  else
    match s.translate p [r] with
    | none => .error .isolation
    | some xs => .ok (xs, [r])

/-- A piece of a SNAPSHOT's output: no in-place write, and no charge (15 R435, R439).
(Log: DEDUCED, unsafe, entry 108.) -/
def State.snapshotPiece (s : State) (p : Fin 4) (xs : List Xlat) (pc : Piece) : State :=
  match locate xs pc.va with
  | none => s
  | some (true, a) =>
    s.modPart p (fun P => { P with staged := P.staged ++ [{ epoch := P.openEpoch, device := false, addr := a, bytes := pc.bytes }] })
  | some (false, a) => s.obsWrite a pc.bytes

/-- The row SNAPSHOT (15 R433): the counters are captured 2,048 ticks on and written.
(Log: DEDUCED, unsafe, entry 108; DEDUCED, unsafe, entry 111.) -/
def snapshot (p : Fin 4) (s : State) : State :=
  s.commandRow p 0 0x14 (s.snapshotCheck p) (fun c e s =>
    let s := (s.advance (s.tick + captureDelay)).drift
    let (b, s) := s.partImage p s.counterImage s.obs.drifts
      { tick := s.tick, tags := e.cmd, source := 0, flags := e.replayed.toNat, sequence := 0, pegId := 0, origin := 0 }
    ((pieces (b.length / 65536 + 2) (at_ e.cmd 0x20 8) b).foldl (fun s pc => s.snapshotPiece p e.xlats pc) s).executed c
      (fun e => { e with detail := BitVec.ofNat 32 b.length }))

/-- PACKAGE_SNAPSHOT: OBS_PKG_SNAPSHOT.GO.
(Log: DEDUCED, unsafe, entry 108.) -/
def packageSnapshot (fn : Fn) (s : State) : State :=
  if s.mayWritePkg fn then
    let s := (s.advance (s.tick + captureDelay)).drift
    s.pkgImage s.counterImage s.obs.drifts { tick := s.tick, tags := [], source := 4, flags := 0, sequence := 0, pegId := 0, origin := 0 }
  else s

/-- The tick, from `t` on, at which a stack's bucket holds 4,096 tokens, and what is spent then with them taken. -/
def State.pieceAt (s : State) (stack t : Nat) : Nat × Nat :=
  let (spent, at') := sget (0, 0) s.obs.buckets stack
  let rate := fld s.obs.cfg.toNat 0 5 * 3072
  let t := max t at'
  let now := spent - rate * (t - at')
  let wait := (now + 4096000 - 65536000 + rate - 1) / rate
  (t + wait, now - rate * wait + 4096000)

/-- The 4 KiB pieces of a periodic snapshot: each waits for its tokens after the one before it, and takes them. -/
def State.chargedPut (s : State) (p : Fin 4) : Nat → Nat → Nat → Bytes → State × Nat
  | 0, t, _, _ => (s, t)
  | _, t, _, [] => (s, t)
  | n + 1, t, va, b =>
    match s.obsAddr p va with
    | none => s.chargedPut p n t (va + 4096) (b.drop 4096)
    | some a =>
      let (t, spent) := s.pieceAt (stackOf a) t
      let s := { s with obs := { s.obs with buckets := sset (0, 0) s.obs.buckets (stackOf a) (spent, t) } }
      (s.obsWrite a (b.take 4096)).chargedPut p n t (va + 4096) (b.drop 4096)

/-- The capture of a periodic snapshot of p and its writing: image k goes to slot k modulo the number of slots. -/
def State.periodicWrite (s : State) (p : Fin 4) : State :=
  let P := s.part p
  let slot := P.snapshotCount % 2 ^ fld P.obsSnapshotCfg.toNat 16 4
  let img := s.partImage p s.counterImage s.obs.drifts
    { tick := s.tick, tags := [], source := 1, flags := 0, sequence := 0, pegId := 0, origin := 0 }
  let size := (img.1.length + 4095) / 4096 * 4096
  let w := img.2.chargedPut p (size / 4096 + 1) s.tick (P.obsSnapshotBase.toNat + slot * size) img.1
  w.1.modPart p (fun P => { P with snapshotBusy := w.2 })

/-- PERIODIC_SNAPSHOT (15 R434): one falls due; while the previous one is still being written it is skipped.
(Log: DEDUCED, unsafe, entry 108.) -/
def periodicSnapshot (p : Fin 4) (s : State) : State :=
  let P := s.part p
  match P.snapshotDue with
  | none => s
  | some due =>
    let s := s.advance due
    let s := s.modPart p (fun P => { P with snapshotDue := P.firstSnapshot due })
    if due < P.snapshotBusy then s.tally 1 p.val 4 1
    else (s.advance (due + captureDelay)).drift.periodicWrite p

/-! ### The streamer (15 R440) -/

/-- Whether the streamer of a partition has nothing to do. -/
def Part.streamIdle (P : Part) : Bool := decide (fld P.obsStreamCfg.toNat 0 2 = 0) || decide (P.traceWritten ≤ P.traceStreamed)

/-- TRACE_STREAM: the next record goes to the host ring or the fabric window, when its target can take it.
(Log: DEDUCED, unsafe, entry 112.) -/
def traceStream (p : Fin 4) (s : State) : State :=
  let P := s.part p
  let k := P.traceStreamed
  if P.streamIdle then s
  else
    match s.obsAddr p (P.obsTraceBase.toNat + 32 * (k % 2 ^ (15 + fld P.obsCfg.toNat 8 4))) with
    | none => s
    | some a =>
      let r := s.mem.read a 32
      let done (s : State) : State := s.modPart p (fun P => { P with traceStreamed := k + 1 })
      if fld P.obsStreamCfg.toNat 0 2 = 1 then
        let size := 2 ^ (10 + fld P.obsStreamCfg.toNat 2 4)
        if k < s.hostWord P.obsStreamHeadAddr.toNat + size then
          done (s.hostWrite (P.obsStreamAddr.toNat + 32 * (k % size)) r)
        else s
      else
        let dest := fld P.obsStreamAddr.toNat 0 14
        let window := fld P.obsStreamAddr.toNat 16 16
        if P.flowEnable && P.maySend dest then
          done (s.sendAddressed p none 0 0x01 dest 3 window (32 * (k % (Config.remoteWindow dest window / 32))) 0 r)
        else s

/-! ### Peg (15 R441 to R448) -/

/-- Change the Peg. -/
def State.modPeg (s : State) (f : Peg → Peg) : State := { s with obs := { s.obs with peg := f s.obs.peg } }

/-- The head of a Peg image. -/
def State.pegHead (s : State) (source : Nat) : ImageHead :=
  let g := s.obs.peg
  { tick := g.t, tags := g.tags, source := source, flags := 2 * g.halt.toNat + 4 * g.late.toNat, sequence := 0,
    pegId := g.id.toNat, origin := g.origin }

/-- The partitions that a Halt-Peg halts: its issuer, or those with HALT_ACCEPT set. -/
def State.pegHalts (s : State) : BitVec 4 :=
  let g := s.obs.peg
  if !g.halt then 0 else if g.source = 1 then g.issuer else BitVec.ofNat 4 (fld s.obs.cfg.toNat 8 4)

/-- A command in progress at a Halt-Peg's T. -/
def Entry.markCut (e : Entry) : Entry := if e.phase = .running ∨ e.phase = .executed then { e with afterCut := true } else e

/-- Halt partitions: their commands in progress are marked, and the Peg that halts them is noted (15 R447). -/
def State.halt (s : State) (who : BitVec 4) : State :=
  let s := (List.finRange 4).foldl (fun s p =>
    if who.getLsbD p.val then
      s.modPart p (fun P => { P with queues := P.queues.map (fun q => (q.1, { q.2 with entries := q.2.entries.map Entry.markCut })) })
    else s) s
  s.modPeg (fun g => { g with
    halted := g.halted ||| who,
    haltedBy := (List.range 4).foldl (fun m p =>
      if who.getLsbD p then sset (0, 0, 0) m p (g.carried, g.origin, g.id.toNat) else m) g.haltedBy })

/-- The PEG record of partitions in Tracing (15 Table 15.8). -/
def State.pegRecord (s : State) (p : Fin 4) : State :=
  let g := s.obs.peg
  s.trace p g.t 9 false false
    (toLe 8 g.t ++ toLe 2 (g.origin % 2 ^ 14 + g.halt.toNat * 2 ^ 14 + g.early.toNat * 2 ^ 15)) (unitOf 1 p.val) g.id.toNat

/-- The capture at T (15 R443, R447). -/
def State.pegCapture (s : State) : State :=
  let g := s.obs.peg
  if !g.open_ || g.captured then s
  else
    let s := (s.advance g.t).drift
    let s := s.modPeg (fun g => { g with captured := true, image := s.pegImage, drifts := s.obs.drifts })
    let s := s.halt s.pegHalts
    let s := (List.finRange 4).foldl State.pegRecord s
    (List.finRange 4).foldl (fun s p =>
      let va := (s.part p).obsPegBase.toNat
      if va = 0 then s
      else
        let (b, s) := s.partImage p s.obs.peg.image s.obs.peg.drifts (s.pegHead 2)
        s.obsPut p va b) s

/-- PEG_CAPTURE.
(Log: DESIGN CHOICE, safe, entry 110.) -/
def pegCapture (s : State) : State := s.pegCapture

/-- PEG_WINDOW_CLOSE (15 R442, R443): the window closes 1 ms after T and the package image is written.
(Log: DESIGN CHOICE, safe, entry 110.) -/
def pegWindowClose (s : State) : State :=
  if !s.obs.peg.open_ then s
  else
    let s := s.pegCapture
    let s := (s.advance s.obs.peg.closeAt).modPeg (fun g => { g with open_ := false })
    s.pkgImage s.obs.peg.image s.obs.peg.drifts (s.pegHead 3)

/-- The form of a PEG body: RESUME stands alone, reserved bits 0. -/
def pegFieldsOk (c : Bytes) : Bool :=
  let m := at_ c 0x20 1
  decide (m < 8) && (!bit m 2 || decide (m = 4)) && zeroAt c 0x21 95

/-- The checks of PEG: fabric scope needs the partition's FABRIC_TRIGGER bit. -/
def State.pegCheck (s : State) (p : Fin 4) (e : Entry) : Except Status (List Xlat × List Rng) :=
  if !pegFieldsOk e.cmd then .error .invalid
  else if bit (at_ e.cmd 0x20 1) 1 && !bit s.obs.cfg.toNat (12 + p.val) then .error .isolation
  else .ok ([], [])

/-- DETAIL of a PEG command. -/
def State.pegDetail (s : State) (c : Cid) : State :=
  s.modEntry c (fun e => { e with detail := BitVec.ofNat 32 s.obs.peg.id.toNat })

/-- Partitions resume: those given are no longer halted. -/
def Peg.resume (g : Peg) (who : BitVec 4) : Peg :=
  { g with halted := g.halted &&& ~~~who, haltedBy := g.haltedBy.filter (fun x => !who.getLsbD x.1) }

/-- A PEG command runs: RESUME ends the partition's halt at once; a trigger that the open window ignores is NOT_READY;
the command of the Peg whose window is open, started again by a replay, waits for that Peg.
(Log: DEDUCED, unsafe, entry 111.) -/
def State.pegRun (s : State) (p : Fin 4) (c : Cid) (e : Entry) : State :=
  let m := at_ e.cmd 0x20 1
  if bit m 2 then
    ((s.modPeg (fun g => g.resume (1#4 <<< p.val))).executed c id).pegDetail c
  else if s.obs.peg.open_ && !(e.replayed && decide (s.obs.peg.cause = some c)) then
    (s.pegTrigger 1 (bit m 0) (bit m 1) (1#4 <<< p.val) (some c)).refuse c .notReady
  else
    (if s.obs.peg.open_ then s.begin c
     else (s.pegTrigger 1 (bit m 0) (bit m 1) (1#4 <<< p.val) (some c)).begin c).pegDetail c

/-- The row PEG (15 R448), on the maintenance queue. -/
def peg (p : Fin 4) (s : State) : State :=
  s.acceptHead p 0 0x13 (fun c e =>
    match (if e.accepted then .ok ([], []) else s.pegCheck p e) with
    | .error st => s.refuse c st
    | .ok (xs, rs) =>
      let s := if e.accepted then s else s.accepted c xs rs
      if bit (at_ e.cmd 0x20 1) 2 then (s.begin c).pegRun p c e else s.pegRun p c e)

/-- PEG_TRIGGER: OBS_PEG_CTRL.TRIGGER. -/
def pegTrigger (fn : Fn) (halt fabric : Bool) (s : State) : State :=
  if s.mayWritePkg fn then s.pegTrigger 2 halt fabric 0 none else s

/-- The Pegs that halt a partition now, or the last Peg where none does: what a resume of the fabric names. -/
def Peg.halting (g : Peg) : List (Nat × Nat × Nat) :=
  if g.haltedBy.isEmpty then [(g.carried, g.origin, g.id.toNat)] else (g.haltedBy.map (·.2)).eraseDups

/-- PEG_RESUME: OBS_PEG_CTRL.RESUME resumes every halted partition, and with FABRIC tells the others, by a packet for each Peg
that had halted one.
(Log: DEDUCED, unsafe, entry 109.) -/
def pegResume (fn : Fn) (fabric : Bool) (s : State) : State :=
  if s.mayWritePkg fn then
    let l := s.obs.peg.halting
    let s := s.modPeg (fun g => g.resume 15)
    if fabric then
      l.foldl (fun s x => (s.modPeg (fun g => { g with accepted := (x.2.1, x.2.2 + 65536) :: g.accepted })).flood 0x14
        (pegPayload x.1 x.2.1 x.2.2 2 0) none) s
    else s
  else s

/-- A PEG packet leaves the control queue of the port it waited in. -/
def State.controlTaken (s : State) (i kind : Nat) (payload : Bytes) : State :=
  s.modPort i (fun P => { P with
    controlQueue := P.controlQueue.eraseP (fun x => decide (x.kind = kind) && decide (x.payload = payload)) })

/-- Forward a PEG packet on every UP port but the arrival port while HOPS stays below 32. -/
def State.pegForward (s : State) (i : Nat) (payload : Bytes) : State :=
  let hops := at_ payload 0x0D 1 + 1
  if hops < 32 then s.flood 0x14 (payload.take 0x0D ++ toLe 1 hops ++ payload.drop 0x0E) (some i) else s

/-- PEG_PACKET_RECEIVE (15 R446, R447).
(Log: DEDUCED, unsafe, entry 109.) -/
def pegPacketReceive (i : Fin 32) (payload : Bytes) (s : State) : State :=
  if !s.life.deviceReady || decide (payload.length ≠ 32) then s
  else
    let s := s.controlTaken i 0x14 payload
    let g := s.obs.peg
    let t := at_ payload 0 8
    let origin := fld (at_ payload 8 2) 0 14
    let id := at_ payload 0x0A 2
    let mode := at_ payload 0x0C 1
    let known (k : Nat) : Bool := g.accepted.contains (origin, k)
    if !bit s.obs.cfg.toNat 5 then s
    else if bit mode 1 then
      if known (id + 65536) || !known id then s
      else
        let who : BitVec 4 := (BitVec.ofBoolListLE ((List.range 4).map (fun p =>
          g.halted.getLsbD p && decide ((sget (0, 0, 0) g.haltedBy p).2 = (origin, id))))).setWidth 4
        (s.modPeg (fun g => { g.resume who with accepted := (origin, id + 65536) :: g.accepted })).pegForward i payload
    else if known id then s
    else if g.open_ then s.modPeg (fun g => { g with ignored := true })
    else
      let late := decide (t < s.tick + 256)
      let t' := if late then s.tick + 256 else t
      (s.modPeg (fun g => { g with
        id := BitVec.ofNat 16 id, origin := origin, open_ := true, t := t', carried := t, closeAt := t' + 1000000,
        halt := bit mode 0, fabric := true, issuer := 0, cause := none, tags := [], captured := false, source := 4,
        late := late, flagged := g.fresh t, image := [], drifts := [], inFlight := [],
        accepted := (origin, id) :: g.accepted })).pegForward i payload

/-! ### Registers of their own row (15 R430, R431) -/

/-- COUNTER_SELECT_WRITE: register n of OBS_COUNTER_SEL, or OBS_FILTER as index 16, takes effect 2,048 ticks on. -/
def counterSelectWrite (fn : Fn) (p : Fin 4) (index : Nat) (value : W32) (s : State) : State :=
  if !s.mayWritePart fn p then s
  else if index < 16 then
    let v := value &&& 0x3FFF
    if 19 ≤ fld v.toNat 0 8 then s
    else s.modPart p (fun P => { P with
      obsSel := sset 0 P.obsSel index v, selDue := P.selDue ++ [{ index := index, value := v, due := s.tick + captureDelay }] })
  else if index = 16 then
    s.modPart p (fun P => { P with
      obsFilter := value, selDue := P.selDue ++ [{ index := 16, value := value, due := s.tick + captureDelay }] })
  else s

/-- A scheduled selection comes into force. -/
def Part.select (P : Part) (x : SelDue) : Part :=
  if x.index = 16 then { P with obsFilterInForce := x.value }
  else { P with obsSelInForce := sset 0 P.obsSelInForce x.index x.value }

/-- COUNTER_SELECT_APPLY: the selections due next apply on every core at the same tick. -/
def counterSelectApply (p : Fin 4) (s : State) : State :=
  match (s.part p).selDue with
  | [] => s
  | x :: _ =>
    let s := (s.advance x.due).drift
    (s.modPart p (fun P =>
      let now := P.selDue.filter (fun y => decide (y.due ≤ x.due))
      { now.foldl Part.select P with selDue := P.selDue.filter (fun y => decide (x.due < y.due)) }))

/-- OBS_CFG after a write: MODE 3 leaves MODE, and TRACE_LOG2 takes a value of 0 to 12 only while the partition is Quiet
and its streamer idle. -/
def Part.obsCfgWrite (P : Part) (value : W32) : W32 :=
  let old := P.obsCfg.toNat
  let v := value.toNat
  let mode := if fld v 0 2 = 3 then fld old 0 2 else fld v 0 2
  let log := if P.obsMode = 0 ∧ P.streamIdle = true ∧ fld v 8 4 ≤ 12 then fld v 8 4 else fld old 8 4
  BitVec.ofNat 32 (mode + fld v 2 6 * 4 + log * 256)

/-- OBS_MODE_WRITE: a write of OBS_CFG; its MODE takes effect at the partition's next command boundary. -/
def obsModeWrite (fn : Fn) (p : Fin 4) (value : W32) (s : State) : State :=
  if s.mayWritePart fn p then s.modPart p (fun P => { P with obsCfg := P.obsCfgWrite value }) else s

/-- The meaning of SNAPSHOT. -/
def execSnapshot (p : Fin 4) (s : State) : Host.Outcome State Fault Refusal := .next (snapshot p s)
/-- The meaning of PACKAGE_SNAPSHOT. -/
def execPackageSnapshot (fn : Fn) (s : State) : Host.Outcome State Fault Refusal := .next (packageSnapshot fn s)
/-- The meaning of PERIODIC_SNAPSHOT. -/
def execPeriodicSnapshot (p : Fin 4) (s : State) : Host.Outcome State Fault Refusal := .next (periodicSnapshot p s)
/-- The meaning of TRACE_STREAM. -/
def execTraceStream (p : Fin 4) (s : State) : Host.Outcome State Fault Refusal := .next (traceStream p s)
/-- The meaning of PEG_CAPTURE. -/
def execPegCapture (s : State) : Host.Outcome State Fault Refusal := .next (pegCapture s)
/-- The meaning of PEG_WINDOW_CLOSE. -/
def execPegWindowClose (s : State) : Host.Outcome State Fault Refusal := .next (pegWindowClose s)
/-- The meaning of PEG. -/
def execPeg (p : Fin 4) (s : State) : Host.Outcome State Fault Refusal := .next (peg p s)
/-- The meaning of PEG_TRIGGER. -/
def execPegTrigger (fn : Fn) (halt fabric : Bool) (s : State) : Host.Outcome State Fault Refusal := .next (pegTrigger fn halt fabric s)
/-- The meaning of PEG_RESUME. -/
def execPegResume (fn : Fn) (fabric : Bool) (s : State) : Host.Outcome State Fault Refusal := .next (pegResume fn fabric s)
/-- The meaning of PEG_PACKET_RECEIVE. -/
def execPegPacketReceive (port : Fin 32) (payload : Bytes) (s : State) : Host.Outcome State Fault Refusal :=
  .next (pegPacketReceive port payload s)
/-- The meaning of COUNTER_SELECT_WRITE. -/
def execCounterSelectWrite (fn : Fn) (p : Fin 4) (index : Nat) (value : W32) (s : State) : Host.Outcome State Fault Refusal :=
  .next (counterSelectWrite fn p index value s)
/-- The meaning of COUNTER_SELECT_APPLY. -/
def execCounterSelectApply (p : Fin 4) (s : State) : Host.Outcome State Fault Refusal := .next (counterSelectApply p s)
/-- The meaning of OBS_MODE_WRITE. -/
def execObsModeWrite (fn : Fn) (p : Fin 4) (value : W32) (s : State) : Host.Outcome State Fault Refusal :=
  .next (obsModeWrite fn p value s)

end Sys2Proof.Machine
end

