-- ==== Sys2Proof/Machine/Boot.lean ====
section
/-! DEFINITION. Cold reset, the loss of power and the phases of a boot (14 R422; 10 R291 to R296; 16 R456 to R459; 17 R482). -/

namespace Sys2Proof.Machine

/-! ### Reset and the loss of power -/

/-- Whether the boot has begun: the dies on VIN_MAIN run. -/
def State.powered (s : State) : Bool := decide (2 ≤ s.life.bootPhase.toNat)

/-- The running accumulators are written to region 0 (16 R472). -/
def Life.saveWear (l : Life) : Life := { l with wearSaved := l.wearNow }

/-- What a cold reset keeps of the lifetime state: non-volatile memory and what VAUX powers.
(Log: DEDUCED, unsafe, entry 114.) -/
def Life.coldReset (l : Life) : Life :=
  { Life.reset with
    calendarAt := l.calendarAt, calendarBase := l.calendarBase, calendarKnown := l.calendarKnown,
    rollbackCounter := l.rollbackCounter, slotVersion := l.slotVersion, newSlot := l.newSlot, minPeer := l.minPeer, wearSaved := l.wearSaved, wearNow := l.wearNow,
    cycles := l.cycles, records := l.records, portMedium := l.portMedium }

/-- What a cold reset keeps of power: the pins and supplies, and what shut the package down.
(Log: DEDUCED, unsafe, entry 114; DESIGN CHOICE, unsafe, entry 154.) -/
def Power.coldReset (w : Power) : Power :=
  { Power.reset with
    trip := w.trip, brakeN := w.brakeN, thermtripN := w.thermtripN, vaux := w.vaux, vinMain := w.vinMain,
    perstN := w.perstN, balls := w.balls, trstN := w.trstN, address := w.address }

/-- Every register, table and die in cold reset (14 Table 14.21); non-volatile memory, the time base, the board flash and
host memory stay.
(Log: DESIGN CHOICE, unsafe, entry 17; DEDUCED, unsafe, entry 114.) -/
def State.coldReset (s : State) : State :=
  { State.reset with
    pending := s.pending, tick := s.tick, free := s.free, host := s.host, out := s.out,
    seams := s.seams.map (fun x => { Seam.reset with committed := x.committed }),
    ports := Vector.ofFn (fun (i : Fin 32) => { Port.reset with ctrl := s.life.portReset i }),
    fab := { Fab.reset with endpoint := s.fab.endpoint },
    mem := { Mem.reset with strongActive := s.mem.strongRequest, strongRequest := s.mem.strongRequest },
    cores := { Cores.reset with replaceRequest := s.cores.replaceRequest },
    obs := { ObsPkg.reset with driftAt := s.tick },
    power := s.power.coldReset, life := s.life.coldReset }

/-- Every engine stops without replay; Selvage writes the accumulators and a POWER_LOSS record with its first body byte,
and the package waits as after a cold reset (16 R457; 17 R482). -/
def State.losePower (s : State) (cause : Nat) : State :=
  ({ s with life := s.life.saveWear }.lifeRecord 10 0
    (toLe 1 cause ++ (Config.recordBody 10 [cause, s.tick]).take 239)).coldReset

/-- Shutdown (17 R482): THERMTRIP_N is asserted, every load on VIN_MAIN is off and the link drops.
(Log: DEDUCED, unsafe, entry 114.) -/
def State.shutdown (s : State) (trip : Nat) : State :=
  let w := s.power
  let s := s.losePower 2
  { s with power := { s.power with
    trip := some trip, thermtripN := false, junction := w.junction, coolant := w.coolant } }

/-! ### Readings (17 Tables 17.6, 17.9) -/

/-- The thresholds of a sensor: its first action and its shutdown, in units of 0.125 °C. -/
def firstLimit (index : Nat) : Nat := if index < 9 then 800 else 760
/-- The shutdown threshold. -/
def tripLimit (index : Nat) : Nat := if index < 9 then 920 else 880

/-- TEMP of a PWR_JUNCTION word. -/
def junctionTemp (v : W32) : Nat := fld v.toNat 0 11
/-- VALID of a PWR_JUNCTION word. -/
def junctionValid (v : W32) : Bool := bit v.toNat 11

/-- INLET of PWR_COOLANT when valid. -/
def inletOf (v : W32) : Option Nat := if bit v.toNat 11 then some (fld v.toNat 0 11) else none
/-- OUTLET of PWR_COOLANT when valid. -/
def outletOf (v : W32) : Option Nat := if bit v.toNat 27 then some (fld v.toNat 16 11) else none

/-- Whether the readings that shut the package down are inside their limits.
(Log: DEDUCED, unsafe, entry 114.) -/
def Power.tripClear (w : Power) : Bool :=
  match w.trip with
  | none => true
  | some n =>
    if n < 25 then
      let v := w.junction.toList.getD n 0
      junctionValid v && decide (junctionTemp v < tripLimit n)
    else if n = 25 then
      match inletOf w.coolant, outletOf w.coolant with
      | some a, some b => decide (b ≤ a + 120)
      | _, _ => false
    else (inletOf w.coolant).isSome || (outletOf w.coolant).isSome

/-- An inlet reading that counts as present at a boot: at most 50 °C (17 R479). -/
def inletPresent (inlet : Option Nat) : Bool := inlet.any (fun t => decide (t ≤ 400))

/-! ### The interconnect test and what follows it (10 R291 to R296; 16 R459) -/

/-- A Seam comes out of the test on its new map, committed when it differs from the committed one, or is down.
(Log: DEDUCED, unsafe, entry 67.) -/
def State.bootSeam (s : State) (found : BootFindings) (i : Fin 12) : State :=
  let c := s.seams[i].committed
  let failed := (found.laneFailures.filter (fun x => x.1 == i.val)).map (·.2)
  let m := failed.foldl LaneMap.mark { LaneMap.fresh with generation := c.generation }
  let changed := !m.same c
  let m := if changed then { m with generation := c.next } else m
  let s := s.modSeam i (fun _ => { Seam.reset with mapA := m, mapB := m, committed := m })
  let s := s.noteRepairs (seamLower i) (LaneMap.fresh.repairs i m)
  let x := s.seams[i]
  if found.downSeams.contains i.val || !x.canRun i then
    let s := (s.modSeam i (fun x => { x with down := true })).replace 0 16
    if 8 ≤ i.val ∧ 4 ≤ s.lostPorts then s.replace 0 8 else s
  else
    let s := s.modSeam i (fun x => x.up i)
    if x.thin i then s.replace 0 16 else s

/-- A stack that failed HBM training, or with too many failed wires, is failed. -/
def State.bootStack (s : State) (k : Nat) : State :=
  if k < 16 then { s with mem := { s.mem with failed := s.mem.failed ||| (1#16 <<< k) } }.replace 10 32 else s

/-- The failed wires of a channel of a stack's interface are repaired with its redundant lanes; a channel with more of them
makes its stack failed (10 R294, R295, R296).
(Log: DESIGN CHOICE, safe, entry 135.) -/
def State.bootChannel (s : State) (found : BootFindings) (stack channel : Nat) : State :=
  let wires := ((found.wireFailures.filter (fun x => x.1 == stack && x.2.1 == channel)).flatMap (·.2.2)).eraseDups
  if Config.redundantLanes < wires.length then s.bootStack stack
  else s.noteRepairs (16 + stack) (wires.map (fun w => { unit := 16 + stack, dir := 0, module := channel, lane := w }))

/-- Every channel in which the test found a wire failed. -/
def State.bootChannels (s : State) (found : BootFindings) : State :=
  let l := (found.wireFailures.filter (fun x => decide (x.1 < 16 ∧ x.2.1 < 32))).map (fun x => (x.1, x.2.1))
  l.eraseDups.foldl (fun s x => s.bootChannel found x.1 x.2) s

/-- A physical core that failed its short self-test is retired, and a spare takes its logical id (16 R459).
(Log: DEDUCED, unsafe, entry 93.) -/
def State.bootRetire (s : State) (phys : Nat) : State :=
  match ((List.range 320).map (· + 320 * (phys / 324))).find? (fun l => s.cores.phys l == phys && !s.cores.absent.getLsbD l) with
  | some l => s.retire 0 l 0xFFFFFFFF 0 0
  | none => { s with cores := { s.cores with retired := s.cores.retired ++ [phys] } }.lifeNote 2 (1 + phys / 324) [phys, 0]

/-- A port after the interconnect test: enabled, it starts training. -/
def Port.boot (P : Port) : Port := { P with state := if bit P.ctrl.toNat 0 then .training else .disabled }

/-- The inventory of the dies and the package level, which the interconnect test fixes (10 R291, Table 10.15); nothing shows
them before it is complete. -/
def State.bootLevels (s : State) (found : BootFindings) : State :=
  let levels := (List.range 9).map (fun k => found.dieLevels.getD k 0 % 256)
  let die (k : Nat) : W32 :=
    let st := found.dieSteppings.getD k (0, 0)
    BitVec.ofNat 32 (st.1 % 256 + st.2 % 256 * 2 ^ 8 + levels.getD k 0 * 2 ^ 16)
  { s with dieInfo := Vector.ofFn (fun (k : Fin 9) => die k), packageLevel := BitVec.ofNat 32 (levels.foldl min 255) }

/-- The interconnect test is complete (16 Table 16.4): the Seams are on their maps, the wires of the stacks' interfaces
repaired, and the ports in training.
(Log: DESIGN CHOICE, unsafe, entry 19; DEDUCED, unsafe, entry 113.) -/
def State.bootDies (s : State) (found : BootFindings) : State :=
  let s := { s with ports := s.ports.map Port.boot }
  ((List.finRange 12).foldl (fun s i => s.bootSeam found i) s).bootChannels found

/-- The core self-test is complete: spares that failed are retired first. -/
def State.bootCores (s : State) (found : BootFindings) : State :=
  let l := found.failedCores.filter (fun x => decide (x < 1296))
  (l.filter (fun x => decide (320 ≤ x % 324)) ++ l.filter (fun x => decide (x % 324 < 320))).foldl State.bootRetire s

/-- BOOT_PHASE becomes n. -/
def State.toPhase (s : State) (n : BitVec 8) : State := { s with life := { s.life with bootPhase := n } }

/-- The next line of a boot in progress (16 Tables 16.4, 16.5): the interconnect test, HBM training, the core self-test and
fabric training are complete in turn. Without an inlet reading the self-test and what follows it wait.
(Log: DEDUCED, unsafe, entry 113.) -/
def State.bootLine (s : State) : State :=
  match s.life.found with
  | none => s
  | some found =>
    let s := s.drift
    match s.life.bootPhase.toNat with
    | 2 => (s.bootDies found).toPhase 3
    | 3 => (found.failedStacks.foldl State.bootStack s).toPhase (if inletPresent (inletOf s.power.coolant) then 4 else 0x80)
    | 4 => (s.bootCores found).toPhase 5
    | 5 => { s with life := { s.life with found := none, bootPhase := if s.life.patchRejected then 0x82 else 6 } }
    | _ => s

/-- The time by which the line after a phase is reached, from PERST_N release (16 Table 16.4). -/
def bootBy (phase : Nat) : Nat :=
  match phase with
  | 2 => 40000000
  | 3 => 300000000
  | 4 => 450000000
  | _ => 600000000

/-- Time passes in a boot: a line is reached by its time, or at a free moment before it.
(Log: DESIGN CHOICE, safe, entry 139.) -/
def State.bootTick (s : State) : State :=
  if s.life.found.isNone then s
  else if Config.freeBool s.free || decide (s.life.bootAt + bootBy s.life.bootPhase.toNat ≤ s.tick) then
    { s with free := s.free + 1 }.bootLine
  else { s with free := s.free + 1 }

/-- Whether a slot holds a signed image of a version no lower than the rollback counter (16 R467). -/
def Life.slotGood (l : Life) (k : Nat) : Bool := decide (l.rollbackCounter + 1 ≤ l.slotVersion.getD k 0)

/-- The slot that Selvage takes: that of a new image, which takes effect at the next start of Basket; else slot A is tried first
(16 R467).
(Log: DEDUCED, unsafe, entry 119.) -/
def Life.pickSlot (l : Life) : Option Nat := (l.newSlot.toList ++ [0, 1]).find? l.slotGood

/-- Basket starts from the slot that Selvage takes. -/
def Life.startBasket (l : Life) (tick : Nat) : Life :=
  { l with basketSlot := l.pickSlot == some 1, newSlot := none, basketStartedAt := tick, basketMisses := 0 }

/-- Whether Basket runs: it has been started, and no restart of it is going on (16 R467). -/
def State.basketUp (s : State) : Bool := s.powered && decide (s.life.bootPhase ≠ 0x81 ∧ s.life.basketUpAt ≤ s.tick)

/-- Whether a restart of Basket is going on.
(Log: DEDUCED, safe, entry 153.) -/
def State.restarting (s : State) : Bool := s.powered && decide (s.life.bootPhase ≠ 0x81 ∧ s.tick < s.life.basketUpAt)

end Sys2Proof.Machine
end

