-- ==== Sys2Proof/Machine/Power.lean ====
section
/-! DEFINITION. Power modes, throttling and the protection by temperature and coolant (01 R29; 17 R477 to R483). -/

namespace Sys2Proof.Machine

/-! ### The effective mode (17 R483; 01 R29) -/

/-- The core clock of a mode in MHz: Linen, Cotton, Silk. -/
def modeClock (m : BitVec 2) : Nat := if m = 0 then 2000 else if m = 1 then 1700 else 1400

/-- FORCED_DIE. -/
def Power.forcedDie (w : Power) : Bool := w.hotDies != 0

/-- The coolest of REQUEST and every forced state that is active. -/
def Power.coolest (w : Power) : BitVec 2 :=
  if w.forcedBrake || w.forcedFlow || w.forcedSensor || w.forcedDie then 2 else w.request

/-- Whether a compute die has not yet applied the effective mode. -/
def Power.pendingDie (w : Power) (die : Fin 4) : Bool := decide (w.applied[die] ≠ modeClock w.effective)

/-- Whether a partition owns a core of a compute die. -/
def Part.onDie (P : Part) (die : Nat) : Bool := P.cores.extractLsb' (320 * die) 320 != 0#320

/-- Whether no enabled partition owns a core of the die. -/
def State.dieFree (s : State) (die : Nat) : Bool :=
  (List.finRange 4).all (fun p => !(decide ((s.part p).state = .enabled) && (s.part p).onDie die))

/-- Whether every enabled partition that owns cores of the die has closed an epoch since the mode changed.
(Log: DEDUCED, unsafe, entry 120.) -/
def State.dieReady (s : State) (die : Nat) : Bool :=
  (List.finRange 4).all (fun p =>
    !(decide ((s.part p).state = .enabled) && (s.part p).onDie die) || s.power.closedSince.getLsbD p.val)

/-- The PLL of a compute die relocks: its clock stops for at most 2 µs, how long being free, and its record goes out
(15 R427).
(Log: DESIGN CHOICE, safe, entry 121.) -/
def State.relock (s : State) (die : Fin 4) (mhz : Nat) : State :=
  if s.power.clocks[die] = mhz then s
  else
    let stop := s.tick
    let s := s.drift
    let s := ({ s with free := s.free + 1 }.advance (stop + (Config.freeWord s.free).toNat % 2001)).driftWith (1#4 <<< die.val)
    let s := { s with power := { s.power with clocks := s.power.clocks.set die mhz } }.tally 2 die 3 1
    s.clockStop (unitOf 2 die) stop (fun p => (s.part p).onDie die)

/-- A compute die applies the effective mode; one that throttles stays at its lower clock.
(Log: DEDUCED, unsafe, entry 120.) -/
def State.changeover (s : State) (die : Fin 4) : State :=
  let w := s.power
  let new := modeClock w.effective
  let low := w.throttled.getLsbD die && decide (w.clocks[die] < new)
  let w := { w with
    applied := w.applied.set die new, throttled := if low then w.throttled else w.throttled &&& ~~~(1#4 <<< die.val) }
  { s with power := w }.relock die (if low then w.clocks[die] else new)

/-- The effective mode follows its conditions; a change is applied under R29, at once on a die that no enabled partition
uses.
(Log: DESIGN CHOICE, safe, entry 106.) -/
def State.applyMode (s : State) : State :=
  let m := s.power.coolest
  if m = s.power.effective then s
  else
    let s := { s with power := { s.power with effective := m, closedSince := 0 } }.emit (.management [BitVec.ofNat 8 m.toNat])
    (List.finRange 4).foldl (fun s die => if s.power.pendingDie die && s.dieFree die then s.changeover die else s) s

/-- POWER_MODE_CHANGEOVER. -/
def powerModeChangeover (die : Fin 4) (s : State) : State :=
  if s.power.pendingDie die && s.dieReady die then s.changeover die else s

/-- REQUEST of PWR_MODE written; the reserved value leaves it. -/
def State.requestMode (s : State) (value : W32) : State :=
  let m := value.toNat % 4
  if m = 3 then s else { s with power := { s.power with request := BitVec.ofNat 2 m } }.applyMode

/-- POWER_MODE_REQUEST: a write of PWR_MODE by the PF. -/
def powerModeRequest (fn : Fn) (value : W32) (s : State) : State :=
  if s.mayWritePkg fn then s.requestMode value else s

/-- The pin BRAKE_N and the state it forces while the package runs. -/
def State.brake (s : State) (low : Bool) : State :=
  { s with power := { s.power with brakeN := !low, forcedBrake := low && s.powered } }.applyMode

/-- BRAKE_ASSERT. -/
def brakeAssert (s : State) : State := s.brake true
/-- BRAKE_RELEASE. -/
def brakeRelease (s : State) : State := s.brake false

/-! ### Throttling and temperatures (17 R480) -/

/-- The reading of a compute die. -/
def Power.dieReading (w : Power) (die : Fin 4) : W32 := w.junction.toList.getD (1 + die.val) 0

/-- Set whether a compute die throttles and when its next step is due. -/
def Power.throttle (w : Power) (die : Fin 4) (on : Bool) (at' : Nat) : Power :=
  { w with
    throttled := if on then w.throttled ||| (1#4 <<< die.val) else w.throttled &&& ~~~(1#4 <<< die.val),
    throttleAt := w.throttleAt.set die at' }

/-- THERMAL_THROTTLE_STEP: down by 100 MHz each ms at or above 100 °C, to a floor of 800 MHz; below 97 °C up by 100 MHz
each 10 ms, back to the clock of the mode.
(Log: DEDUCED, unsafe, entry 120.) -/
def thermalThrottleStep (die : Fin 4) (s : State) : State :=
  let w := s.power
  let v := w.dieReading die
  let t := junctionTemp v
  let c := w.clocks[die]
  if !s.powered || !junctionValid v then s
  else if 800 ≤ t ∧ 800 < c then
    let s := s.advance w.throttleAt[die]
    { s with power := s.power.throttle die true (s.tick + 1000000) }.relock die (max 800 (c - 100))
  else if t < 776 ∧ w.throttled.getLsbD die = true then
    let s := s.advance w.throttleAt[die]
    let up := min (c + 100) w.applied[die]
    { s with power := s.power.throttle die (decide (up < w.applied[die])) (s.tick + 10000000) }.relock die up
  else s

/-- A PWR_JUNCTION word after a reading; an invalid one clears VALID alone.
(Log: DEDUCED, unsafe, entry 122.) -/
def junctionWord (old : W32) (index temp : Nat) (valid : Bool) : W32 :=
  if !valid then BitVec.ofNat 32 (setFld old.toNat 11 1 0)
  else
    let t := min temp 2047
    let hot := decide (firstLimit index ≤ t)
    let entered := hot && !bit old.toNat 12
    let events := min (fld old.toNat 16 16 + entered.toNat) 65535
    BitVec.ofNat 32 (t + 2048 + hot.toNat * 2 ^ 12 + (decide (840 < t)).toNat * 2 ^ 13 + events * 2 ^ 16)

/-- FORCED_DIE from a Velac or Colxis die: from 100 °C until it has been below 97 °C for 10 s. -/
def Power.forceDie (w : Power) (index t tick : Nat) : Power :=
  let m := 1#9 <<< index
  if 800 ≤ t then { w with hotDies := w.hotDies ||| m, coolAt := serase w.coolAt index }
  else if t < 776 ∧ w.hotDies.getLsbD index = true then
    let since := if sget 0 w.coolAt index = 0 then tick + 1 else sget 0 w.coolAt index
    if since + 10000000000 ≤ tick + 1 then { w with hotDies := w.hotDies &&& ~~~m, coolAt := serase w.coolAt index }
    else { w with coolAt := sset 0 w.coolAt index since }
  else { w with coolAt := serase w.coolAt index }

/-- A compute die's next throttle step when a reading crosses a threshold.
(Log: DEDUCED, unsafe, entry 120.) -/
def Power.throttleFrom (w : Power) (die : Fin 4) (was t tick : Nat) : Power :=
  if was < 800 ∧ 800 ≤ t then { w with throttleAt := w.throttleAt.set die (tick + 1000000) }
  else if 776 ≤ was ∧ t < 776 then { w with throttleAt := w.throttleAt.set die (tick + 10000000) }
  else w

/-- Whether a calibration of a stack or port is in progress. -/
def Cores.calibrating (k : Cores) (target index : Nat) : Bool :=
  k.background.any (fun b => b.started && b.target == target && b.index == index)

/-- Basket, where it runs, recalibrates a stack whose temperature has drifted 10 K (16 R464).
(Log: DEDUCED, unsafe, entry 118.) -/
def State.recalibrate (s : State) (k t : Nat) : State :=
  let last := sget 0 s.power.calibratedAt k
  let set' (s : State) : State := { s with power := { s.power with calibratedAt := sset 0 s.power.calibratedAt k (t + 1) } }
  if last = 0 then set' s
  else if s.basketUp = true ∧ 80 ≤ max (t + 1) last - min (t + 1) last ∧ s.cores.calibrating 2 k = false ∧ s.mem.failed.getLsbD k = false then
    let b : Background :=
      { cid := none, cmdId := 0, target := 2, index := k, phys := 0, started := true, boundaryAt := none, due := 0,
        start := s.tick, result := 0, xlats := [] }
    set' { s with cores := { s.cores with background := s.cores.background ++ [b] } }
  else s

/-- What a valid reading of a running package's sensor does (17 Table 17.6).
(Log: DEDUCED, unsafe, entry 122.) -/
def State.heat (s : State) (index was t : Nat) : State :=
  if tripLimit index ≤ t then s.shutdown index
  else if h : 1 ≤ index ∧ index ≤ 4 then
    { s with power := s.power.throttleFrom ⟨index - 1, by omega⟩ was t s.tick }
  else if index < 9 then { s with power := s.power.forceDie index t s.tick }.applyMode
  else
    let k := index - 9
    let m := 1#16 <<< k
    let d := s.mem.doubleRefresh
    { s with mem := { s.mem with doubleRefresh :=
      if 760 ≤ t then d ||| m else if t < 736 then d &&& ~~~m else d } }.recalibrate k t

/-- THERMAL_SENSOR_READ.
(Log: DEDUCED, unsafe, entry 122.) -/
def thermalSensorRead (index : Fin 25) (temp : Nat) (valid : Bool) (s : State) : State :=
  if !s.power.vaux then s
  else
    let old := s.power.junction[index]
    let s := { s with power := { s.power with junction := s.power.junction.set index (junctionWord old index temp valid) } }
    if s.powered && valid then s.heat index (junctionTemp old) (min temp 2047) else s

/-! ### Coolant (17 R479) -/

/-- The tick since which a condition holds. -/
def since (holds : Bool) (was : Option Nat) (tick : Nat) : Option Nat := if holds then some (was.getD tick) else none

/-- Whether a condition has held for d ticks. -/
def heldFor (x : Option Nat) (tick d : Nat) : Bool := x.any (fun t => decide (t + d ≤ tick))

/-- PWR_COOLANT after a reading; a missing one clears its VALID alone. -/
def coolantWord (old : W32) (inlet outlet : Option Nat) : W32 :=
  let put (v lo : Nat) (x : Option Nat) : Nat :=
    match x with
    | none => setFld v (lo + 11) 1 0
    | some t => setFld (setFld v lo 11 (min t 2047)) (lo + 11) 1 1
  BitVec.ofNat 32 (put (put old.toNat 0 inlet) 16 outlet)

/-- Outlet − inlet above d, both readings valid. -/
def riseAbove (inlet outlet : Option Nat) (d : Nat) : Bool := inlet.any (fun a => outlet.any (fun b => decide (a + d < b)))

/-- The forced states of Table 17.5 after a reading; an inlet reading that is invalid forces one while the package runs.
(Log: DEDUCED, unsafe, entry 122.) -/
def Power.coolantStates (w : Power) (running : Bool) (inlet outlet : Option Nat) (tick : Nat) : Power :=
  let diff := since (riseAbove inlet outlet 120) w.diffSince tick
  let low := heldFor diff tick 100000000 || outlet.any (fun b => decide (480 < b))
  let ok := since (inlet.any (fun a => outlet.any (fun b => decide (b < a + 96 ∧ b < 456)))) w.flowOkSince tick
  let flow := low || (w.forcedFlow && !heldFor ok tick 10000000000)
  let valid := since inlet.isSome w.inletSince tick
  { w with
    diffSince := diff, flowOkSince := ok, inletSince := valid, bothSince := since (inlet.isNone && outlet.isNone) w.bothSince tick,
    forcedFlow := flow, forcedFlowAt := if flow && !w.forcedFlow then tick else w.forcedFlowAt,
    forcedSensor := (running && inlet.isNone) || (w.forcedSensor && !heldFor valid tick 10000000000),
    flow := BitVec.ofNat 32 (setFld w.flow.toNat 16 1 low.toNat) }

/-- COOLANT_SENSOR_READ: the lid sensors are read; a boot that waits for an inlet reading goes on with the core self-test (16
R459).
(Log: DEDUCED, unsafe, entry 122.) -/
def coolantSensorRead (inlet outlet : Option Nat) (s : State) : State :=
  if !s.power.vaux then s
  else
    let s := { s with power := { s.power with coolant := coolantWord s.power.coolant inlet outlet } }
    if !s.powered then s
    else
      let running := decide (s.life.bootPhase ≠ 0x80 ∧ s.life.bootPhase ≠ 0x81)
      let s := { s with power := s.power.coolantStates running inlet outlet s.tick }
      let w := s.power
      if w.forcedFlow ∧ w.forcedFlowAt + 5000000000 ≤ s.tick ∧ riseAbove inlet outlet 120 = true then s.shutdown 25
      else if heldFor w.bothSince s.tick 1000000000 then s.shutdown 26
      else if s.life.bootPhase = 0x80 ∧ inletPresent inlet = true then s.applyMode.toPhase 4
      else s.applyMode

/-! ### Memory protection (08 R218) -/

/-- MEM_PROTECT_REQUEST: REQUEST is kept for the next cold reset. -/
def memProtectRequest (fn : Fn) (value : W32) (s : State) : State :=
  if s.mayWritePkg fn then { s with mem := { s.mem with strongRequest := bit value.toNat 0 } } else s

/-- The meaning of POWER_MODE_CHANGEOVER. -/
def execPowerModeChangeover (die : Fin 4) (s : State) : Host.Outcome State Fault Refusal := .next (powerModeChangeover die s)
/-- The meaning of POWER_MODE_REQUEST. -/
def execPowerModeRequest (fn : Fn) (value : W32) (s : State) : Host.Outcome State Fault Refusal := .next (powerModeRequest fn value s)
/-- The meaning of BRAKE_ASSERT. -/
def execBrakeAssert (s : State) : Host.Outcome State Fault Refusal := .next (brakeAssert s)
/-- The meaning of BRAKE_RELEASE. -/
def execBrakeRelease (s : State) : Host.Outcome State Fault Refusal := .next (brakeRelease s)
/-- The meaning of THERMAL_THROTTLE_STEP. -/
def execThermalThrottleStep (die : Fin 4) (s : State) : Host.Outcome State Fault Refusal := .next (thermalThrottleStep die s)
/-- The meaning of THERMAL_SENSOR_READ. -/
def execThermalSensorRead (index : Fin 25) (temp : Nat) (valid : Bool) (s : State) : Host.Outcome State Fault Refusal :=
  .next (thermalSensorRead index temp valid s)
/-- The meaning of COOLANT_SENSOR_READ. -/
def execCoolantSensorRead (inlet outlet : Option Nat) (s : State) : Host.Outcome State Fault Refusal :=
  .next (coolantSensorRead inlet outlet s)
/-- The meaning of MEM_PROTECT_REQUEST. -/
def execMemProtectRequest (fn : Fn) (value : W32) (s : State) : Host.Outcome State Fault Refusal := .next (memProtectRequest fn value s)

end Sys2Proof.Machine
end

