-- ==== Sys2Proof/Machine/Life.lean ====
section
/-! DEFINITION. Boot, background tests, time sync, discovery, wear and lifetime records (16 R449 to R473). -/

namespace Sys2Proof.Machine

/-! ### Supplies and boot (16 R452, R456 to R460; 14 R422) -/

/-- VAUX_GOOD: the time base counts from 0, and Selvage runs. The straps are sampled, an open one as 1; an open TRST_N holds the
test access port in reset (17 Table 17.15).
(Log: DESIGN CHOICE, unsafe, entry 154.) -/
def vauxGood (s : State) : State :=
  if s.power.vaux then s
  else
    let s := { s with tick := 0 }.coldReset
    { s with
      power := { s.power with
        vaux := true, trstN := s.power.balls.trstN.getD false,
        address := 0x4C + 2 * (s.power.balls.strap1.getD true).toNat + (s.power.balls.strap0.getD true).toNat },
      life := { s.life with bootPhase := 1, calendarAt := 0, calendarBase := 0, calendarKnown := false } }

/-- VAUX_LOSS: the time base and everything powered from VAUX are lost; region 0 keeps what was last written to it. -/
def vauxLoss (s : State) : State :=
  if !s.power.vaux then s
  else
    let s := { s with tick := 0, life := { s.life with wearNow := s.life.wearSaved, cycles := [] } }.coldReset
    { s with
      power := { s.power with vaux := false },
      life := { s.life with calendarAt := 0, calendarBase := 0, calendarKnown := false } }

/-- VIN_MAIN_LOSS (16 R457): while PERST_N is released, every engine stops and a POWER_LOSS record is written. -/
def vinMainLoss (s : State) : State :=
  if !s.power.vinMain then s
  else
    let s := if s.power.perstN && s.power.vaux && s.powered then s.losePower 1 else s
    { s with power := { s.power with vinMain := false } }

/-- PERST_N_ASSERT: a cold reset; the accumulators are written first. -/
def perstNAssert (s : State) : State :=
  let s := { s with life := s.life.saveWear, power := { s.power with perstN := false } }
  s.coldReset

/-- COLD_BOOT: PERST_N is released, the tests of the boot start, and the dies load their copies of the time base (16 R452).
After a shutdown the package boots only if the readings that caused it are inside their limits. Without a valid Basket image
the boot goes no further.
(Log: DEDUCED, unsafe, entry 113.) -/
def coldBoot (found : BootFindings) (s : State) : State :=
  if !s.power.vaux || s.power.perstN then s
  else if !s.power.tripClear then { s with power := { s.power with perstN := true, vinMain := true } }
  else
    let w := s.power
    let w := { w with
      perstN := true, vinMain := true, thermtripN := true, trip := none, forcedBrake := !w.brakeN,
      coolant := coolantWord w.coolant found.inlet (outletOf w.coolant) }
    let s := { s with
      power := w,
      life := { s.life with
        bootAt := s.tick, found := some found, dieOffsets := Vector.replicate 9 0, patchVersion := if found.patchOk then found.patchVersion else 0,
        patchRejected := !found.patchOk },
      hi := { s.hi with linkUp := true }, obs := { s.obs with driftAt := s.tick } }
    if !(found.basketValid && s.life.pickSlot.isSome) then { s with life := { s.life with found := none, bootPhase := 0x81 } }.applyMode
    else ({ s with life := { s.life.startBasket s.tick with bootPhase := 2 } }.applyMode).bootLevels found

/-- DEVICE_READY: the lines of the boot still ahead are reached, isolation is armed, and held ports advertise their credits
(11 R333). Of the halves of 64-bit registers written before, those of the two addresses that take writes then are kept (14
R405).
(Log: DEDUCED, unsafe, entry 84; DEDUCED, unsafe, entry 113; DESIGN CHOICE, safe, entry 139.) -/
def deviceReady (s : State) : State :=
  let s := s.bootLine.bootLine.bootLine.bootLine
  if s.life.deviceReady ∨ (s.life.bootPhase ≠ 6 ∧ s.life.bootPhase ≠ 0x82) then s
  else
    let s := { s with
      life := { s.life with deviceReady := true, bootPhase := 7 },
      ports := s.ports.map (fun (P : Port) => { P with held := false }), hi := { s.hi with latch := s.hi.latch.filter (fun x =>
        decide (x.1 = 0x40 ∨ x.1 = 0x640080)) } }
    (List.range 32).foldl (fun s i => s.openPort i) s

/-! ### The time base (16 R452, R453) -/

/-- TIME_BASE_COMPARE: a die finds its copy off the Colxis copy and slews it.
(Log: DEDUCED, unsafe, entry 117.) -/
def timeBaseCompare (die : Fin 9) (difference : Int) (s : State) : State :=
  if s.powered && decide (die ≠ 0) then { s with life := { s.life with dieOffsets := s.life.dieOffsets.set die difference } } else s

/-! ### Fabric time sync (16 R454, R455; 11 R334) -/

/-- Whether Basket sends and takes TIME_SYNC: 600 ms after PERST_N release, while enabled. -/
def State.syncing (s : State) : Bool :=
  s.basketUp && decide (6 ≤ s.life.bootPhase.toNat) && decide (s.life.bootPhase ≠ 0x80 ∧ s.life.bootPhase ≠ 0x81)

/-- SYNC_ENABLE. -/
def Life.syncEnable (l : Life) : Bool := bit l.timeCfg.toNat 1

/-- The TIME_SYNC that leaves by a port (16 Table 16.2). -/
def State.syncPayload (s : State) (i : Nat) : Bytes :=
  let e := (s.port i).syncEcho
  toLe 8 (s.portTick i) ++ zeros 8 ++ toLe 8 (e.elim 0 (·.1)) ++ toLe 8 (e.elim 0 (·.2.1)) ++ toLe 2 s.life.distance ++
    toLe 2 (s.life.master % 2 ^ 14) ++ toLe 1 s.life.locked.toNat ++ zeros 11

/-- TIME_SYNC_SEND: one packet on every UP port. -/
def timeSyncSend (s : State) : State :=
  if s.syncing && s.life.syncEnable && decide (s.life.bootAt + 600000000 ≤ s.tick) then
    (List.range 32).foldl (fun s i =>
      if s.portUp i then
        s.transmit i (controlPacket 0x11 (s.port i).partnerEndpoint s.fab.endpoint (s.syncPayload i))
      else s) s
  else s

/-- What each UP port's partner says of its master: distance, master, partner endpoint and port, smallest first. -/
def State.parentChoice (s : State) : Option (Nat × Nat × Nat × Nat) :=
  let all := (List.range 32).filterMap (fun i =>
    match (s.port i).syncEcho with
    | some (_, _, b) =>
      let d := at_ b 0x20 2
      if s.portUp i && decide (d ≠ 0xFFFF) then some (d, fld (at_ b 0x22 2) 0 14, (s.port i).partnerEndpoint, i) else none
    | none => none)
  all.foldl (fun best x =>
    match best with
    | none => some x
    | some y => if keyLt [x.1, x.2.1, x.2.2.1] [y.1, y.2.1, y.2.2.1] then some x else some y) none

/-- The package chooses its parent. -/
def State.chooseParent (s : State) : State :=
  let l := s.life
  if bit l.timeCfg.toNat 0 then { s with life := { l with distance := 0, master := s.fab.endpoint } }
  else
    match s.parentChoice with
    | none => { s with life := { l with distance := 0xFFFF, master := 0 } }
    | some (d, m, _, i) => { s with life := { l with distance := min (d + 1) 0xFFFF, master := m, parentPort := i } }

/-- An offset from the parent: LOCKED follows the last 16, and the time base is steered to make it zero, with one step
forward when it is far behind before any partition was enabled.
(Log: DEDUCED, unsafe, entry 117.) -/
def State.steer (s : State) (offset : Int) : State :=
  let l := s.life
  let offs := (offset :: l.offsets).take 16
  let s := { s with life := { l with
    offset := offset, offsets := offs,
    locked := decide (offs.length = 16) && offs.all (fun (x : Int) => decide (-10 ≤ x ∧ x ≤ 10)) } }
  if l.mayStep && decide (offset < -1000) then
    { s with tick := s.tick + (-offset).toNat, life := { s.life with mayStep := false, slew := 0 } }
  else { s with life := { s.life with slew := -offset } }

/-- TIME_SYNC_RECEIVE: of packets that waited, the newest of the port is used, with the stamp of its arrival; one that arrives
while Basket restarts waits or is dropped and counted (16 R467).
(Log: DEDUCED, unsafe, entry 117; DEDUCED, safe, entry 153.) -/
def timeSyncReceive (i : Fin 32) (payload : Bytes) (s : State) : State :=
  if decide (payload.length ≠ 48) then s
  else if s.restarting then
    if s.life.deviceReady then s.controlWait i (controlPacket 0x11 s.fab.endpoint (s.port i).partnerEndpoint payload) else s
  else if !s.syncing then s
  else
    let waited := (s.port i).controlQueue.filter (fun x => decide (x.kind = 0x11))
    let named := waited.any (fun x => decide (x.payload.take 8 = payload.take 8 ∧ x.payload.drop 16 = payload.drop 16))
    let b := match if named then waited.getLast? else none with
      | some x => x.payload
      | none => payload.take 8 ++ toLe 8 (s.portTick i) ++ payload.drop 16
    let s := (s.modPort i (fun P => { P with
      controlQueue := P.controlQueue.filter (fun x => decide (x.kind ≠ 0x11)), syncEcho := some (at_ b 0 8, at_ b 8 8, b) })).chooseParent
    if !s.life.syncEnable || bit s.life.timeCfg.toNat 0 || decide (s.life.distance = 0xFFFF ∨ s.life.parentPort ≠ i.val) ||
        decide (at_ b 0x10 8 = 0) then s
    else s.steer ((((at_ b 8 8 : Int) - at_ b 0 8) - ((at_ b 0x18 8 : Int) - at_ b 0x10 8)).tdiv 2)

/-! ### Discovery (16 R461, R468; 11 R331) -/

/-- Basket or Selvage takes a DISCOVERY packet of a port: a probe is answered on it; an SPDM message goes on with the exchange
of an encrypted port without keys. Once the exchange is complete, the peer's chain reaches an Omilaore root and its block 2
version is no lower than the minimum, the keys are installed and the port advertises its credits.
(Log: DESIGN CHOICE, unsafe, entry 71.) -/
def State.discoveryTake (s : State) (i : Fin 32) (payload : Bytes) : State :=
  let s := s.controlTaken i 0x10 payload
  let P := s.port i
  if P.state ≠ .up then s
  else
    match at_ payload 0 1 with
    | 0 => s.transmit i (controlPacket 0x10 P.partnerEndpoint s.fab.endpoint (s.discoveryHeader 1 i))
    | 2 =>
      if !P.encrypted || P.keyed then s
      else
        let s := (s.modPort i (fun P => { P with spdm := P.spdm ++ [(false, payload.drop 16)] })).spdmSend i
        if (Config.spdmPeer (s.port i).spdm).any (fun v => decide (s.life.minPeer ≤ v)) then (s.installKeys i).openPort i else s
    | _ => s

/-- The DISCOVERY packets of a port that Basket takes when one of them is named: those that wait before it, in arrival order, and
it (16 R460).
(Log: DEDUCED, safe, entry 153.) -/
def Port.discoveryTurn (P : Port) (payload : Bytes) : List Bytes :=
  (((P.controlQueue.filter (fun x => decide (x.kind = 0x10))).map (·.payload)).takeWhile (fun b => b != payload)) ++ [payload]

/-- DISCOVERY_RECEIVE: packets are taken in arrival order from 300 ms on; while Basket restarts, one that arrives waits or is
dropped and counted (16 R460, R467).
(Log: DESIGN CHOICE, unsafe, entry 71; DEDUCED, safe, entry 153.) -/
def discoveryReceive (i : Fin 32) (payload : Bytes) (s : State) : State :=
  if decide (payload.length < 16) then s
  else if s.restarting then
    if s.life.deviceReady then s.controlWait i (controlPacket 0x10 s.fab.endpoint (s.port i).partnerEndpoint payload) else s
  else if !s.basketUp || decide (s.life.bootPhase.toNat < 4) then s
  else ((s.port i).discoveryTurn payload).foldl (fun s b => s.discoveryTake i b) s

/-! ### Self-test and calibration (16 R462 to R464) -/

/-- Targets a kind takes: cores for SELF_TEST, stacks and ports for CALIBRATE. -/
def workTarget (kind target : Nat) : Bool := if kind = 0x11 then decide (target ≤ 1) else decide (target = 2 ∨ target = 3)

/-- INDEX limit of a target. -/
def workLimit (target : Nat) : Nat := if target ≤ 1 then 1280 else if target = 2 then 16 else 32

/-- The form of a body (16 Table 16.7). -/
def workFieldsOk (kind : Nat) (c : Bytes) : Bool :=
  workTarget kind (at_ c 0x20 1) && decide (at_ c 0x22 2 < workLimit (at_ c 0x20 1)) && decide (at_ c 0x21 1 = 0) &&
    decide (1 ≤ at_ c 0x24 4 ∧ at_ c 0x24 4 ≤ 60000) && decide (at_ c 0x28 8 % 32 = 0) && zeroAt c 0x30 80

/-- Whether a target is the partition's to test (16 R463). -/
def State.workAllowed (s : State) (p : Fin 4) (target index : Nat) : Bool :=
  if target ≤ 1 then (s.part p).cores.getLsbD index
  else if target = 2 then s.mem.owner.any (fun x => decide (x.1 / 65536 = index ∧ x.2 = p.val + 1))
  else decide (s.servingFn p = .pf)

/-- The checks of SELF_TEST and CALIBRATE. -/
def State.workCheck (s : State) (p : Fin 4) (kind : Nat) (e : Entry) : Except Status (List Xlat × List Rng) :=
  let r : Rng := { va := (at_ e.cmd 0x28 8 : Int), len := 32, write := true }
  if !workFieldsOk kind e.cmd then .error .invalid
  else if !s.workAllowed p (at_ e.cmd 0x20 1) (at_ e.cmd 0x22 2) then .error .isolation
  else
    match s.translate p [r] with
    | none => .error .isolation
    | some xs => .ok (xs, [r])

/-- A command waits for its target. -/
def State.workWait (s : State) (c : Cid) (e : Entry) (xs : List Xlat) : State :=
  let b : Background :=
    { cid := some c, cmdId := cmdId e.cmd, target := at_ e.cmd 0x20 1, index := at_ e.cmd 0x22 2, phys := 0,
      started := false, boundaryAt := none, due := s.tick + at_ e.cmd 0x24 4 * 1000000, start := 0,
      result := at_ e.cmd 0x28 8, xlats := xs }
  let l := s.cores.background.filter (fun x => x.started || x.cid != some c)
  { s with cores := { s.cores with background := l ++ [b] } }

/-- Whether a target is ready (16 Table 16.9).
(Log: DEDUCED, unsafe, entry 118.) -/
def State.workReady (s : State) (b : Background) : Bool :=
  if b.target ≤ 1 then
    s.atBoundary b && decide (2 ≤ (s.cores.freeSpares (b.index / 320)).length) && !s.cores.absent.getLsbD b.index
  else if b.target = 2 then !s.cores.calibrating 2 b.index && !s.mem.failed.getLsbD b.index
  else s.portUp b.index && !s.cores.calibrating 3 b.index

/-- The work begins in the background: a core's logical id moves to a spare first.
(Log: DEDUCED, unsafe, entry 118.) -/
def State.workStart (s : State) (b : Background) : State :=
  let started := { b with started := true, boundaryAt := none, phys := if b.target ≤ 1 then s.cores.phys b.index else 0, start := s.tick }
  let s := s.drift
  let s := { s with cores := { s.cores with background := s.cores.background.replace b started } }
  if b.target ≤ 1 then s.vacate b.index ((s.cores.freeSpares (b.index / 320)).headD 0)
  else if b.target = 2 then
    let t := junctionTemp (s.power.junction.toList.getD (9 + b.index) 0)
    { s with power := { s.power with calibratedAt := sset 0 s.power.calibratedAt b.index (t + 1) } }
  else s

/-- A command whose window has passed is DEFERRED, and nothing is done (16 R462). -/
def State.workDefer (s : State) (c : Cid) (b : Background) : State :=
  { s with cores := { s.cores with background := s.cores.background.erase b } }.refuse c .deferred

/-- A command of the two kinds starts within its window once its target is ready, and is done at once; once the window has
passed it is DEFERRED (16 R462). -/
def State.workGo (s : State) (c : Cid) : State :=
  match s.cores.background.find? (fun b => decide (b.cid = some c) && !b.started) with
  | none => s
  | some b =>
    if s.tick ≤ b.due ∧ s.workReady b = true then ((s.workStart b).begin c).executed c id
    else if b.due < s.tick then s.workDefer c b
    else s

/-- A row of the two kinds: the command is accepted, waits, and once its target is ready starts and is done; a replay of
it does not repeat the work.
(Log: DEDUCED, unsafe, entry 118.) -/
def State.workRow (s : State) (p : Fin 4) (kind : Nat) : State :=
  s.acceptHead p 0 kind (fun c e =>
    if e.accepted && e.replayed then (s.begin c).executed c id
    else
      if e.accepted then s.workGo c
      else
        match s.workCheck p kind e with
        | .error st => s.refuse c st
        | .ok (xs, rs) =>
          match s.walkPoison p rs with
          | some sec => s.refusePoisoned c sec 0
          | none => ((s.accepted c xs rs).workWait c e xs).workGo c)

/-- The row SELF_TEST. -/
def selfTest (p : Fin 4) (s : State) : State := s.workRow p 0x11
/-- The row CALIBRATE. -/
def calibrate (p : Fin 4) (s : State) : State := s.workRow p 0x12

/-- SELF_TEST_WINDOW_EXPIRY: WINDOW_MS has passed: a target that is ready by then lets the command start, else it is DEFERRED.
(Log: DEDUCED, unsafe, entry 118.) -/
def selfTestWindowExpiry (p : Fin 4) (s : State) : State :=
  match ((s.part p).queue 0).headEntry with
  | none => s
  | some e =>
    let c : Cid := { p := p, q := 0, n := e.n }
    match s.cores.background.find? (fun b => decide (b.cid = some c) && !b.started) with
    | none => s
    | some b =>
      if e.phase ≠ .waiting ∨ e.accepted = false then s
      else
        let s := s.advance b.due
        if s.tick ≤ b.due ∧ s.workReady b = true then ((s.workStart b).begin c).executed c id else s.workDefer c b

/-- The result record (16 Table 16.8) is written outside Darn.
(Log: DEDUCED, unsafe, entry 118.) -/
def State.workResult (s : State) (b : Background) (outcome : Nat) : State :=
  match b.cid, locate b.xlats b.result with
  | some c, some (host, a) =>
    let r := toLe 8 b.start ++ toLe 8 s.tick ++ toLe 1 b.target ++ toLe 1 outcome ++ toLe 2 b.index ++ toLe 2 b.phys ++
      zeros 2 ++ toLe 4 b.cmdId ++ zeros 4
    if host then s.hostWrite a r else if s.mem.ownedBy c.p a then s.writeOutside a r else s
  | _, _ => s

/-- BACKGROUND_WORK_DONE: the work of place `index` ends, a core's at a later epoch boundary of its partition: its logical
id returns, or it is retired and its id stays on the spare.
(Log: DEDUCED, unsafe, entry 118.) -/
def backgroundWorkDone (index outcome : Nat) (s : State) : State :=
  match s.cores.background[index]? with
  | none => s
  | some b =>
    if !b.started || (decide (b.target ≤ 1) && !s.atBoundary b) || decide (b.target = 4) then s
    else
      let s := (s.advance (b.start + workTime b.target)).drift
      let s := { s with cores := { s.cores with background := s.cores.background.eraseIdx index } }
      let s :=
        if b.target ≤ 1 then
          let s :=
            if outcome = 1 then s.failTest b.index b.phys
            else if s.cores.absent.getLsbD b.index then s
            else { s with cores := s.cores.place b.index b.phys }
          s.clockStop (unitOf 0 b.index) b.start (fun p => (s.part p).ownsCore b.index)
        else if outcome = 1 then
          (if h : b.target = 2 ∧ b.index < 16 then stackFailure ⟨b.index, h.2⟩ s else s)
        else s
      s.workResult b outcome

/-! ### Wear (16 R472, R473) -/

/-- The junction bin of a temperature in units of 0.125 °C. -/
def junctionBin (t : Nat) : Nat :=
  if t < 520 then 0 else if t < 600 then 1 else if t < 680 then 2 else if t < 760 then 3 else if t < 840 then 4 else 5

/-- Weight of a bin in ten-thousandths per hour: temperature factor × voltage factor; voltage bins Idle, Silk, Cotton,
Linen. -/
def binWeight (bin volt : Nat) : Nat :=
  ([25, 40, 65, 100, 160, 250].getD bin 0) * ([25, 60, 100, 170].getD volt 0)

/-- The wear index of a die (16 R473).
(Log: DEDUCED, unsafe, entry 116.) -/
def Life.wearIndex (l : Life) (die : Nat) : Nat :=
  let bins := (List.range 24).foldl (fun n k => n + sget 0 l.wearNow (die * 64 + k) * binWeight (k / 4) (k % 4)) 0
  min 1000 (1000 * (bins + sget 0 l.wearNow (die * 64 + 60) * 36000000) / (54677 * 36000000))

/-- The voltage bin of a die: a compute die is Idle with no thread resident, else in the power mode; the others Cotton. -/
def State.voltBin (s : State) (die : Nat) : Nat :=
  if 1 ≤ die ∧ die ≤ 4 then
    let busy := (List.finRange 4).any (fun p => (s.part p).residents.any (fun x => decide (x.2.2.core / 320 = die - 1)))
    if busy then 3 - s.power.effective.toNat else 0
  else 2

/-- Add to an accumulator. -/
def Life.addWear (l : Life) (k : Nat) : Life := { l with wearNow := sset 0 l.wearNow k (sget 0 l.wearNow k + 1) }

/-- Track thermal cycles of a die: a fall of 40 K below the highest reading since the last cycle, then a rise of 40 K.
Keys 2 × die: that highest reading + 1; 2 × die + 1: after the fall, the lowest since, + 1.
(Log: DEDUCED, unsafe, entry 116.) -/
def Life.cycle (l : Life) (die t : Nat) : Life :=
  let hi := sget 0 l.cycles (2 * die)
  let low := sget 0 l.cycles (2 * die + 1)
  if low = 0 then
    if t + 321 ≤ hi then { l with cycles := sset 0 l.cycles (2 * die + 1) (t + 1) }
    else { l with cycles := sset 0 l.cycles (2 * die) (max hi (t + 1)) }
  else if low + 320 ≤ t + 1 then
    { l with cycles := serase (sset 0 l.cycles (2 * die) (t + 1)) (2 * die + 1) }.addWear (die * 64 + 60)
  else { l with cycles := sset 0 l.cycles (2 * die + 1) (min low (t + 1)) }

/-- One die's sample.
(Log: DEDUCED, unsafe, entry 116.) -/
def State.wearDie (s : State) (die : Nat) : State :=
  let t := junctionTemp (s.power.junction.toList.getD die 0)
  { s with life := (s.life.addWear (die * 64 + 4 * junctionBin t + s.voltBin die)).cycle die t }

/-- WEAR_SAMPLE: once a second; the seconds with VIN_MAIN good are counted, each in the bins of every logic die; an index of 900
sets WEAR in the replacement request.
(Log: DEDUCED, unsafe, entry 116.) -/
def wearSample (s : State) : State :=
  if !(s.power.vaux && s.power.vinMain) then s
  else
    let s := { s with life := s.life.addWear 4096 }
    let s := (List.range 9).foldl State.wearDie s
    if (List.range 9).any (fun d => decide (900 ≤ s.life.wearIndex d)) then s.replace 0 2 else s

/-- WEAR_ACCUMULATOR_WRITE. -/
def wearAccumulatorWrite (s : State) : State := if s.power.vaux then { s with life := s.life.saveWear } else s

/-! ### Basket (16 R465 to R467) -/

/-- Selvage resets the management cores and restarts Basket, within 500 ms; a new image takes effect then.
(Log: DEDUCED, unsafe, entry 119.) -/
def State.restartBasket (s : State) : State :=
  let l := s.life
  let l := { l.startBasket s.tick with
    basketRestarts := min (l.basketRestarts + 1) 65535, basketUpAt := s.tick + (Config.freeWord s.free).toNat % 500000001 }
  { s with life := l, free := s.free + 1 }.health (Health.plain 1 11 0 0 s.tick)

/-- The calendar is set, and a CALENDAR_SET record written (16 R471). -/
def State.setCalendar (s : State) (seconds : Nat) : State :=
  { s with life := { s.life with
    calendarBase := seconds % 2 ^ 63, calendarAt := s.tick, calendarKnown := true } }.lifeNote 8 0 [seconds % 2 ^ 63]

/-- Basket handles a management message: a firmware update writes the slot that it does not run from, to take effect at its next
start; the calendar is set as by the host. Any other message is Basket's to answer, in ways the manual does not give.
(Log: DESIGN CHOICE, safe, entry 106; DEDUCED, unsafe, entry 119.) -/
def State.mgmt (s : State) (msg : MgmtMsg) : State :=
  match msg with
  | .firmware v signed =>
    let k := if s.life.basketSlot then 0 else 1
    { s with life := { s.life with
      slotVersion := s.life.slotVersion.set k (if signed then v + 1 else 0), newSlot := some k } }.lifeNote 9 0 [k, v]
  | .calendar t => s.setCalendar t
  | .other _ => s

/-- Basket takes the management messages that waited, in arrival order.
(Log: DEDUCED, safe, entry 153.) -/
def State.mgmtWaited (s : State) : State :=
  s.life.waiting.foldl State.mgmt { s with life := { s.life with waiting := [] } }

/-- BASKET_HEARTBEAT_CHECK: the third missed heartbeat restarts Basket; one that beats takes the messages that waited. -/
def basketHeartbeatCheck (beat : Bool) (s : State) : State :=
  if !s.basketUp then s
  else if beat then { s with life := { s.life with basketMisses := 0 } }.mgmtWaited
  else
    let s := { s with life := { s.life with basketMisses := s.life.basketMisses + 1 } }
    if 3 ≤ s.life.basketMisses then s.restartBasket else s

/-- MANAGEMENT_CORE_FAULT. -/
def managementCoreFault (s : State) : State := if s.basketUp then s.restartBasket else s

/-- BASKET_ROLLBACK_RAISE: an image that has run for 10 minutes raises the rollback counter to its version.
(Log: DEDUCED, unsafe, entry 119.) -/
def basketRollbackRaise (s : State) : State :=
  let v := s.life.slotVersion.getD s.life.basketSlot.toNat 0 - 1
  if s.basketUp && decide (s.life.rollbackCounter < v) then
    let s := s.advance (s.life.basketStartedAt + 600000000000)
    { s with life := { s.life with rollbackCounter := v } }.lifeNote 9 0 [v]
  else s

/-- CALENDAR_SET: a write of LIFE_CALENDAR. -/
def calendarSet (fn : Fn) (value : W64) (s : State) : State :=
  if s.mayWritePkg fn then s.setCalendar (value.toNat % 2 ^ 63) else s

/-- MCTP_MESSAGE, over PCIe or to a static address of SMBus or I3C, where it must be this package's (17 Table 17.15): one that
arrives while Basket restarts waits.
(Log: DESIGN CHOICE, safe, entry 106; DEDUCED, safe, entry 153.) -/
def mctpMessage (msg : MctpMsg) (s : State) : State :=
  if msg.address.any (fun a => decide (a ≠ s.power.address)) then s
  else if s.restarting then { s with life := { s.life with waiting := s.life.waiting ++ [msg.body] } }
  else if !s.basketUp then s
  else s.mgmtWaited.mgmt msg.body

/-! ### Export (16 R470; 14 R405) -/

/-- The bytes of a region: its records in log order, the HBM row history stack by stack; what else a region holds has no
layout in the manual and is free.
(Log: DESIGN CHOICE, safe, entry 115.) -/
def State.lifeRegion (s : State) (region : Nat) : Bytes :=
  let l := s.life.records.filter (fun x => x.1 == region)
  if region = 0 then Config.recordBody 256 (s.life.wearSaved.map (·.2))
  else if region = 5 then Config.recordBody 261 [s.mem.strongRequest.toNat, s.cores.replaceRequest.toNat, s.life.minPeer]
  else if region = 1 then
    (List.range 16).flatMap (fun k => (l.filter (fun x => decide (at_ x.2 0x0D 1 = 16 + k))).flatMap (·.2))
  else l.flatMap (·.2)

/-- GO of LIFE_EXPORT_CTRL (16 Table 16.21; 14 R405): BUSY with the region and the address, ignored while BUSY is 1,
NOT_READY before DEVICE_READY; a reserved region leaves the field.
(Log: DEDUCED, unsafe, entry 97.) -/
def State.exportGo (s : State) (fn : Fn) (region : Nat) : State :=
  if fn ≠ .pf ∨ s.life.exportBusy.isSome then s
  else
    let r := if region ≤ 5 then BitVec.ofNat 3 region else s.life.exportRegion
    let l := { s.life with exportRegion := r }
    if !s.life.deviceReady then { s with life := { l with exportResult := .notReady } }
    else { s with life := { l with exportBusy := some (r.toNat, s.life.exportAddr.toNat) } }

/-- The copy in progress ends: the count of bytes and the region's records are in host memory. -/
def State.exportRun (s : State) : State :=
  match s.life.exportBusy with
  | none => s
  | some (r, a) =>
    let b := s.lifeRegion r
    let s := s.hostWrite a (toLe 8 b.length ++ b)
    { s with life := { s.life with exportBusy := none, exportResult := .ok } }

/-- LIFE_EXPORT: the copy of the region whose GO has been written, or GO and the copy in one. -/
def lifeExport (fn : Fn) (region : Nat) (s : State) : State :=
  match s.life.exportBusy with
  | none => (s.exportGo fn region).exportRun
  | some (r, _) => if fn = .pf ∧ r = region then s.exportRun else s

/-- The meaning of VAUX_GOOD. -/
def execVauxGood (s : State) : Host.Outcome State Fault Refusal := .next (vauxGood s)
/-- The meaning of VAUX_LOSS. -/
def execVauxLoss (s : State) : Host.Outcome State Fault Refusal := .next (vauxLoss s)
/-- The meaning of VIN_MAIN_LOSS. -/
def execVinMainLoss (s : State) : Host.Outcome State Fault Refusal := .next (vinMainLoss s)
/-- The meaning of PERST_N_ASSERT. -/
def execPerstNAssert (s : State) : Host.Outcome State Fault Refusal := .next (perstNAssert s)
/-- The meaning of COLD_BOOT. -/
def execColdBoot (found : BootFindings) (s : State) : Host.Outcome State Fault Refusal := .next (coldBoot found s)
/-- The meaning of DEVICE_READY. -/
def execDeviceReady (s : State) : Host.Outcome State Fault Refusal := .next (deviceReady s)
/-- The meaning of TIME_BASE_COMPARE. -/
def execTimeBaseCompare (die : Fin 9) (difference : Int) (s : State) : Host.Outcome State Fault Refusal :=
  .next (timeBaseCompare die difference s)
/-- The meaning of TIME_SYNC_SEND. -/
def execTimeSyncSend (s : State) : Host.Outcome State Fault Refusal := .next (timeSyncSend s)
/-- The meaning of TIME_SYNC_RECEIVE. -/
def execTimeSyncReceive (port : Fin 32) (payload : Bytes) (s : State) : Host.Outcome State Fault Refusal :=
  .next (timeSyncReceive port payload s)
/-- The meaning of DISCOVERY_RECEIVE. -/
def execDiscoveryReceive (port : Fin 32) (payload : Bytes) (s : State) : Host.Outcome State Fault Refusal :=
  .next (discoveryReceive port payload s)
/-- The meaning of SELF_TEST. -/
def execSelfTest (p : Fin 4) (s : State) : Host.Outcome State Fault Refusal := .next (selfTest p s)
/-- The meaning of CALIBRATE. -/
def execCalibrate (p : Fin 4) (s : State) : Host.Outcome State Fault Refusal := .next (calibrate p s)
/-- The meaning of SELF_TEST_WINDOW_EXPIRY. -/
def execSelfTestWindowExpiry (p : Fin 4) (s : State) : Host.Outcome State Fault Refusal := .next (selfTestWindowExpiry p s)
/-- The meaning of BACKGROUND_WORK_DONE. -/
def execBackgroundWorkDone (index outcome : Nat) (s : State) : Host.Outcome State Fault Refusal :=
  .next (backgroundWorkDone index outcome s)
/-- The meaning of WEAR_SAMPLE. -/
def execWearSample (s : State) : Host.Outcome State Fault Refusal := .next (wearSample s)
/-- The meaning of WEAR_ACCUMULATOR_WRITE. -/
def execWearAccumulatorWrite (s : State) : Host.Outcome State Fault Refusal := .next (wearAccumulatorWrite s)
/-- The meaning of BASKET_HEARTBEAT_CHECK. -/
def execBasketHeartbeatCheck (beat : Bool) (s : State) : Host.Outcome State Fault Refusal := .next (basketHeartbeatCheck beat s)
/-- The meaning of MANAGEMENT_CORE_FAULT. -/
def execManagementCoreFault (s : State) : Host.Outcome State Fault Refusal := .next (managementCoreFault s)
/-- The meaning of BASKET_ROLLBACK_RAISE. -/
def execBasketRollbackRaise (s : State) : Host.Outcome State Fault Refusal := .next (basketRollbackRaise s)
/-- The meaning of CALENDAR_SET. -/
def execCalendarSet (fn : Fn) (value : W64) (s : State) : Host.Outcome State Fault Refusal := .next (calendarSet fn value s)
/-- The meaning of MCTP_MESSAGE. -/
def execMctpMessage (msg : MctpMsg) (s : State) : Host.Outcome State Fault Refusal := .next (mctpMessage msg s)
/-- The meaning of LIFE_EXPORT. -/
def execLifeExport (fn : Fn) (region : Nat) (s : State) : Host.Outcome State Fault Refusal := .next (lifeExport fn region s)

end Sys2Proof.Machine
end

