-- ==== Sys2Proof/Machine/Plain.lean ====
section
/-! DEFINITION. The commands SIGNAL, MARKER and COUNTER_WRITE (02 R38, R61, R62). -/

namespace Sys2Proof.Machine

/-- The field checks of SIGNAL (02 Table 2.11). -/
def signalFieldsOk (c : Bytes) : Bool := decide (at_ c 0x20 2 < 2 ^ 14 ∧ at_ c 0x28 1 < 2) && zeroAt c 0x29 87

/-- Whether a SIGNAL sends a remote signal at its release. -/
def signalRemote (c : Bytes) : Bool := bit (at_ c 0x28 1) 0

/-- The checks of SIGNAL: an endpoint without permission is an ISOLATION_FAULT (02 R61; 11 R319). -/
def State.signalCheck (s : State) (p : Fin 4) (e : Entry) : Except Status (List Xlat × List Rng) :=
  if !signalFieldsOk e.cmd then .error .invalid
  else if signalRemote e.cmd && !((s.part p).flowEnable && (s.part p).maySend (at_ e.cmd 0x20 2)) then .error .isolation
  else .ok ([], [])

/-- The row SIGNAL: its remote signal waits for the release of the epoch it finishes in. -/
def signal (p : Fin 4) (q : Nat) (s : State) : State :=
  (s.arrive p q).commandRow p q 0x06 ((s.arrive p q).signalCheck p) (fun c _ s => s.executed c id)

/-- The row MARKER (02 Table 2.6): the header's wait and signal only. -/
def marker (p : Fin 4) (q : Nat) (s : State) : State :=
  (s.arrive p q).commandRow p q 0x07 (fun e => if zeroAt e.cmd 0x20 96 then .ok ([], []) else .error .invalid)
    (fun c _ s => s.executed c id)

/-- The field checks of COUNTER_WRITE (02 R62). -/
def counterFieldsOk (c : Bytes) : Bool := decide (at_ c 0x20 2 + at_ c 0x22 2 ≤ 65535) && zeroAt c 0x28 88

/-- The row COUNTER_WRITE (02 R62), on the maintenance queue. -/
def counterWrite (p : Fin 4) (s : State) : State :=
  s.commandRow p 0 0x10 (fun e => if counterFieldsOk e.cmd then .ok ([], []) else .error .invalid) (fun c e s =>
    (s.modPart p (fun P =>
      P.counterFill (at_ e.cmd 0x20 2) (BitVec.ofNat 32 (at_ e.cmd 0x24 4)) (at_ e.cmd 0x22 2 + 1))).executed c id)

/-- The meaning of SIGNAL. -/
def execSignal (p : Fin 4) (q : Nat) (s : State) : Host.Outcome State Fault Refusal := .next (signal p q s)
/-- The meaning of MARKER. -/
def execMarker (p : Fin 4) (q : Nat) (s : State) : Host.Outcome State Fault Refusal := .next (marker p q s)
/-- The meaning of COUNTER_WRITE. -/
def execCounterWrite (p : Fin 4) (s : State) : Host.Outcome State Fault Refusal := .next (counterWrite p s)

end Sys2Proof.Machine
end

