-- ==== Sys2Proof/Machine/RegMap.lean ====
section
/-! DEFINITION. Where each register lies: the layout of BAR0 (14 R403, Tables 14.3 to 14.7; 15 Table 15.13; 16 Table
16.15; 17 Table 17.7). -/

namespace Sys2Proof.Machine

/-- The registers of a partition block (14 Table 14.5; 15 Table 15.13), of a group (Table 14.14) and of a queue
(Table 14.15). -/
inductive PartReg where
  | ctrl | status | streamPriority | streamShare | streamShareHigh | numericDefault | epochCfg | epochStatus
  | pageTableBase | tlbInvalidate | stepRecordBase | stepRecordCtrl | streamTable | scTableBase | scTableEntries | scCfg
  | flowCfg | windowTable | doorbellBase | summaryBase | statusLineBase | pollCfg | bar2Base | excRingBase | excRingCfg
  | healthRingBase | healthRingCfg | obsCfg | traceBase | snapshotBase | snapshotCfg | streamAddr | streamCfg
  | streamHeadAddr | pegBase | filter
  | counterSel (n : Nat)
  | groupSeed (g : Nat) | groupCfg (g : Nat) | groupCtrl (g : Nat) | groupStatus (g : Nat)
  | sqBase (q : Nat) | cqBase (q : Nat) | queueCfg (q : Nat) | queueIrq (q : Nat) | queueCtrl (q : Nat)
  | queueStatus (q : Nat) | sqHead (q : Nat) | cqTail (q : Nat)
deriving DecidableEq, Repr

/-- The registers of the package (14 Tables 14.6, 14.7; 15 Table 15.13; 16 Table 16.15; 17 Table 17.7). -/
inductive PkgReg where
  | deviceStatus | bar2Select | partialReset | selvageAddr | selvageCtrl | healthRingBase | healthRingCfg
  | statusLineBase | healthHeadAddr
  | portCtrl (n : Fin 32) | portStatus (n : Fin 32) | portQuota (n : Fin 32)
  | tableIndex | dataLow | dataHigh | planOwner | planStatus | planCtrl | fabCfg | telemetryCtrl
  | telemetry (n : Fin 32) (word : Nat)
  | seamStatus (n : Fin 12) | dieInfo (n : Fin 9) | packageLevel | memProtect | replaceRequest
  | pwrMode | coolant | flow | coolantCfg | junction (n : Fin 25)
  | obsPkgCfg | pegCtrl | pegStatus | pegMatch | pegMatchValue | imageAddr | pkgSnapshot
  | calendar | powerOn | timeCfg | timeStatus | wear (n : Fin 9) | exportAddr | exportCtrl | firmware
deriving DecidableEq, Repr

/-- Where an offset of a function's BAR0 leads: a partition block's register, a package register, a word of the
function's MSI-X table, or a word of its pending-bit array. -/
inductive Reg where
  | part (p : Fin 4) (r : PartReg)
  | pkg (r : PkgReg)
  | msix (k : Nat)
  | pba (k : Nat)
deriving DecidableEq, Repr

/-- The offsets of a partition block that hold one register each. -/
def partTable : List (Nat × PartReg) :=
  [(0x0, .ctrl), (0x4, .status), (0x100, .streamPriority), (0x104, .streamShare), (0x108, .streamShareHigh),
   (0x10C, .numericDefault), (0x110, .epochCfg), (0x118, .epochStatus), (0x120, .pageTableBase),
   (0x128, .tlbInvalidate), (0x130, .stepRecordBase), (0x138, .stepRecordCtrl), (0x140, .streamTable),
   (0x200, .scTableBase), (0x208, .scTableEntries), (0x20C, .scCfg), (0x300, .flowCfg), (0x308, .windowTable)] ++
  [(0x400, .doorbellBase), (0x408, .summaryBase), (0x410, .statusLineBase), (0x418, .pollCfg), (0x420, .bar2Base),
   (0x440, .excRingBase), (0x448, .excRingCfg), (0x450, .healthRingBase), (0x458, .healthRingCfg), (0x800, .obsCfg),
   (0x808, .traceBase), (0x810, .snapshotBase), (0x818, .snapshotCfg), (0x820, .streamAddr), (0x828, .streamCfg),
   (0x830, .streamHeadAddr), (0x838, .pegBase), (0x840, .filter)]

/-- The registers of a group by their offset. -/
def groupTable (g : Nat) : List (Nat × PartReg) :=
  [(0x0, .groupSeed g), (0x8, .groupCfg g), (0xC, .groupCtrl g), (0x10, .groupStatus g)]

/-- The registers of a queue by their offset. -/
def queueTable (q : Nat) : List (Nat × PartReg) :=
  [(0x0, .sqBase q), (0x8, .cqBase q), (0x10, .queueCfg q), (0x14, .queueIrq q), (0x18, .queueCtrl q),
   (0x1C, .queueStatus q), (0x20, .sqHead q), (0x24, .cqTail q)]

/-- The offsets of the package that hold one register each. -/
def pkgTable : List (Nat × PkgReg) :=
  [(0x0, .deviceStatus), (0x10, .bar2Select), (0x20, .partialReset), (0x40, .selvageAddr), (0x48, .selvageCtrl),
   (0x80, .healthRingBase), (0x88, .healthRingCfg), (0x90, .statusLineBase), (0x98, .healthHeadAddr),
   (0x500200, .tableIndex), (0x500208, .dataLow), (0x500210, .dataHigh), (0x500220, .planOwner),
   (0x500224, .planStatus), (0x500228, .planCtrl), (0x500230, .fabCfg), (0x500240, .telemetryCtrl)] ++
  [(0x600080, .packageLevel), (0x610000, .memProtect), (0x610004, .replaceRequest), (0x620000, .pwrMode),
   (0x620004, .coolant), (0x620008, .flow), (0x62000C, .coolantCfg), (0x630000, .obsPkgCfg), (0x630004, .pegCtrl),
   (0x630008, .pegStatus), (0x63000C, .pegMatch), (0x630010, .pegMatchValue), (0x630018, .imageAddr),
   (0x630020, .pkgSnapshot), (0x640000, .calendar), (0x640008, .powerOn), (0x640010, .timeCfg), (0x640014, .timeStatus),
   (0x640080, .exportAddr), (0x640088, .exportCtrl), (0x640090, .firmware)]

/-- The entry of a table at an offset. -/
def tableAt {α : Type} (l : List (Nat × α)) (off : Nat) : Option α := (l.find? (fun x => x.1 == off)).map (·.2)

/-- Which element of an array of `n` registers of `size` bytes an offset from the array's base names. -/
def elemIn (n base size off : Nat) : Option (Fin n) :=
  if h : base ≤ off ∧ (off - base) % size = 0 ∧ (off - base) / size < n then some ⟨(off - base) / size, h.2.2⟩ else none

/-- The register at an offset of a partition block. -/
def PartReg.locate (off : Nat) : Option PartReg :=
  if off < 0x880 then tableAt partTable off
  else if off < 0x8C0 then (elemIn 16 0x880 4 off).map (fun n => .counterSel n.val)
  else if 0x1020 ≤ off ∧ off < 0x1400 then tableAt (groupTable ((off - 0x1000) / 0x20)) (off % 0x20)
  else if 0x10000 ≤ off ∧ off < 0x18000 ∧ queueExists ((off - 0x10000) / 0x40) = true then
    tableAt (queueTable ((off - 0x10000) / 0x40)) (off % 0x40)
  else none

/-- The register at an offset of the package's part of the PF's BAR0. -/
def PkgReg.locate (off : Nat) : Option PkgReg :=
  if 0x508000 ≤ off ∧ off < 0x510000 then (elemIn 32 0x508000 0x400 (off / 0x400 * 0x400)).map (.telemetry · (off % 0x400 / 4))
  else if 0x500000 ≤ off ∧ off < 0x500080 then (elemIn 32 0x500000 4 off).map .portCtrl
  else if 0x500080 ≤ off ∧ off < 0x500100 then (elemIn 32 0x500080 4 off).map .portStatus
  else if 0x500100 ≤ off ∧ off < 0x500180 then (elemIn 32 0x500100 4 off).map .portQuota
  else if 0x600000 ≤ off ∧ off < 0x600040 then (elemIn 12 0x600000 4 off).map .seamStatus
  else if 0x600040 ≤ off ∧ off < 0x600080 then (elemIn 9 0x600040 4 off).map .dieInfo
  else if 0x620020 ≤ off ∧ off < 0x6200A0 then (elemIn 25 0x620020 4 off).map .junction
  else if 0x640020 ≤ off ∧ off < 0x640060 then (elemIn 9 0x640020 4 off).map .wear
  else tableAt pkgTable off

/-- Where an offset of a function's BAR0 leads (14 Tables 14.3, 14.4). -/
def Reg.locate (fn : Fn) (off : Nat) : Option Reg :=
  match fn with
  | .pf =>
    if 0x100000 ≤ off ∧ off < 0x500000 then
      (PartReg.locate (off % 0x100000)).map (.part (partOf (off / 0x100000 - 1)))
    else if 0xF00000 ≤ off ∧ off < 0xF08000 then some (.msix ((off - 0xF00000) / 4))
    else if 0xF80000 ≤ off ∧ off < 0xF80100 then some (.pba ((off - 0xF80000) / 4))
    else (PkgReg.locate off).map .pkg
  | .vf n =>
    if off < 0x100000 then (PartReg.locate off).map (.part n)
    else if off < 0x102000 then some (.msix ((off - 0x100000) / 4))
    else if 0x180000 ≤ off ∧ off < 0x180040 then some (.pba ((off - 0x180000) / 4))
    else if off = 0x1F0000 then some (.pkg .deviceStatus)
    else if off = 0x1F0004 then some (.pkg .packageLevel)
    else if off = 0x1F0008 then some (.pkg .replaceRequest)
    else none

/-- The partition registers of 64 bits. -/
def PartReg.wide : PartReg → Bool
  | .epochStatus | .pageTableBase | .stepRecordBase | .stepRecordCtrl | .streamTable | .scTableBase | .flowCfg
  | .windowTable | .doorbellBase | .summaryBase | .statusLineBase | .bar2Base | .excRingBase | .healthRingBase
  | .traceBase | .snapshotBase | .streamAddr | .streamHeadAddr | .pegBase | .groupSeed _ | .sqBase _ | .cqBase _ => true
  | _ => false

/-- The package registers of 64 bits. -/
def PkgReg.wide : PkgReg → Bool
  | .selvageAddr | .healthRingBase | .statusLineBase | .healthHeadAddr | .dataLow | .dataHigh | .pegMatchValue | .imageAddr
  | .calendar | .exportAddr => true
  | _ => false

/-- Whether a register has 64 bits. -/
def Reg.wide : Reg → Bool
  | .part _ r => r.wide
  | .pkg r => r.wide
  | .msix _ => false
  | .pba _ => false

end Sys2Proof.Machine
end

