-- ==== Sys2Proof/Machine/Registers.lean ====
section
/-! DEFINITION. Writes of registers (00 R11, R13; 14 R397 to R410, R416, R424; and the register tables of the other
chapters). A register that a row of its own writes goes through that row's operation. -/

namespace Sys2Proof.Machine

/-! ### Values kept -/

/-- An address register: its bits from bit 0 and from `hi` up are reserved. -/
def addrBits (lo hi v : Nat) : W64 := BitVec.ofNat 64 (v % 2 ^ hi / 2 ^ lo * 2 ^ lo)

/-- A ring's configuration: a reserved ring size, and a VECTOR beyond the function's table, leave their field
(14 "Partition registers"; 00 R13).
(Log: DEDUCED, unsafe, entry 104.) -/
def ringCfg (vectors : Nat) (old : W32) (v : Nat) : W32 :=
  let o := old.toNat
  let log := if fld v 0 4 ≤ 10 then fld v 0 4 else fld o 0 4
  let vec := if fld v 5 11 < vectors then fld v 5 11 else fld o 5 11
  BitVec.ofNat 32 (log + fld v 4 1 * 16 + vec * 32 + fld v 16 16 * 65536)

/-- HI_POLL_CFG after a write (14 Table 14.13). -/
def pollCfgWrite (old : W32) (v : Nat) : W32 :=
  let busy := fld v 0 8
  let idle := fld v 8 10
  let ok := decide (2 ≤ busy ∧ busy ≤ 100 ∧ 1 ≤ idle ∧ idle ≤ 1000 ∧ busy ≤ 10 * idle)
  BitVec.ofNat 32 ((if ok then busy + idle * 256 else fld old.toNat 0 18) + fld v 18 1 * 2 ^ 18)

/-- PT_STEP_RECORD_CTRL after a write (13 Table 13.13): writing ARM 1 clears DONE. -/
def stepCtrlWrite (old : W64) (v : Nat) : W64 :=
  BitVec.ofNat 64 (v % 2 ^ 17 + (if bit v 16 then 0 else fld old.toNat 17 1 * 2 ^ 17) + fld v 32 32 * 2 ^ 32)

/-- QM_QUEUE_CFG after a write (14 Table 14.15).
(Log: DEDUCED, unsafe, entry 104.) -/
def queueCfgWrite (vectors : Nat) (old : W32) (v : Nat) : W32 :=
  let o := old.toNat
  let sq := if fld v 0 4 ≤ 10 then fld v 0 4 else fld o 0 4
  let cq := if fld v 4 4 ≤ 10 then fld v 4 4 else fld o 4 4
  let vec := if fld v 9 11 < vectors then fld v 9 11 else fld o 9 11
  BitVec.ofNat 32 (sq + cq * 16 + fld v 8 1 * 256 + vec * 512)

/-- OBS_SNAPSHOT_CFG after a write (15 Table 15.15).
(Log: DEDUCED, unsafe, entry 104.) -/
def snapshotCfgWrite (old : W32) (v : Nat) : W32 :=
  let o := old.toNat
  let i := if fld v 0 16 = 0 ∨ 10 ≤ fld v 0 16 then fld v 0 16 else fld o 0 16
  let l := if fld v 16 4 ≤ 10 then fld v 16 4 else fld o 16 4
  BitVec.ofNat 32 (i + l * 65536)

/-- OBS_STREAM_CFG after a write (15 Table 15.16).
(Log: DEDUCED, unsafe, entry 104.) -/
def streamCfgWrite (old : W32) (v : Nat) : W32 :=
  let o := old.toNat
  let t := if fld v 0 2 = 3 then fld o 0 2 else fld v 0 2
  let l := if fld v 2 4 ≤ 10 then fld v 2 4 else fld o 2 4
  BitVec.ofNat 32 (t + l * 4)

/-- OBS_PKG_CFG after a write (15 Table 15.18). -/
def obsPkgCfgWrite (old : W32) (v : Nat) : W32 :=
  let cap := if 1 ≤ fld v 0 5 ∧ fld v 0 5 ≤ 30 then fld v 0 5 else fld old.toNat 0 5
  BitVec.ofNat 32 (cap + fld v 5 1 * 32 + fld v 8 8 * 256)

/-- FAB_TABLE_INDEX after a write (11 Table 11.15): REFUSED is cleared by a 1. -/
def tableIndexWrite (old : W32) (v : Nat) : W32 :=
  BitVec.ofNat 32 (v % 2 ^ 14 + fld v 16 2 * 65536 + (if bit v 30 then 0 else fld old.toNat 30 1 * 2 ^ 30))

/-- FAB_PLAN_OWNER after a write (11 Table 11.17): the field of a READY or ACTIVE plan stays. -/
def Fab.ownerWrite (f : Fab) (v : Nat) : W32 :=
  BitVec.ofNat 32 ((List.range 16).foldl (fun (n : Nat) k =>
    if f.plan k = .ready ∨ f.plan k = .active then n else setFld n (2 * k) 2 (fld v (2 * k) 2)) f.planOwner.toNat)

/-- FAB_CFG after a write (11 Table 11.19). -/
def fabCfgWrite (old : W32) (v : Nat) : W32 :=
  let t := if 5 ≤ fld v 16 10 ∧ fld v 16 10 ≤ 1000 then fld v 16 10 else fld old.toNat 16 10
  BitVec.ofNat 32 (v % 2 ^ 15 + t * 65536)

/-! ### Partition blocks -/

/-- A write of PT_CTRL (14 R408): with RESET the ENABLE bit of the same write is ignored. -/
def State.writePtCtrl (fn : Fn) (p : Fin 4) (v : Nat) (s : State) : State :=
  if bit v 1 then partitionReset fn p s else if bit v 0 then partitionEnable fn p s else partitionDisable fn p s

/-- A write of QM_GROUP_CTRL: the lower bit acts first.
(Log: DESIGN CHOICE, unsafe, entry 12.) -/
def State.writeGroupCtrl (fn : Fn) (p : Fin 4) (g v : Nat) (s : State) : State :=
  let s := if bit v 0 then groupCreate fn p g s else s
  if bit v 1 then groupDestroy fn p g s else s

/-- A write of QM_QUEUE_CTRL: the lower bits act first.
(Log: DESIGN CHOICE, unsafe, entry 12.) -/
def State.writeQueueCtrl (fn : Fn) (p : Fin 4) (q v : Nat) (s : State) : State :=
  let s := if bit v 0 then queueEnable fn p q s else s
  let s := if bit v 1 then queueDisable fn p q s else s
  if bit v 2 then queueResume fn p q s else s

/-- A write of a partition register that holds what is written: nothing but the register changes, save what the manual
says of an exception ring enabled and of a snapshot interval.
(Log: DEDUCED, unsafe, entry 104.) -/
def Part.store (P : Part) (vectors tick : Nat) (r : PartReg) (v : Nat) : Part :=
  match r with
  | .status =>
    { P with enableRefused := P.enableRefused && !bit v 2, rolledBack := P.rolledBack && !bit v 3 }
  | .numericDefault => if v % 4 < 2 then { P with numericDefault := BitVec.ofNat 32 (v % 4) } else P
  | .epochCfg => { P with epochCfg := BitVec.ofNat 32 (v % 2) }
  | .pageTableBase => { P with pageTableBase := BitVec.ofNat 64 (v % 2 + fld v 16 25 * 65536) }
  | .stepRecordBase => { P with stepRecordBase := addrBits 6 52 v }
  | .stepRecordCtrl => { P with stepRecordCtrl := stepCtrlWrite P.stepRecordCtrl v }
  | .streamTable => { P with streamTable := addrBits 4 56 v }
  | .scTableBase => { P with scTableBase := addrBits 5 52 v }
  | .scTableEntries => if v % 2 ^ 17 ≤ 65536 then { P with scTableEntries := BitVec.ofNat 32 (v % 2 ^ 17) } else P
  | .scCfg => { P with scCfg := BitVec.ofNat 32 (v % 16) }
  | .flowCfg => { P with flowCfg := BitVec.ofNat 64 (P.flowCfg.toNat % 65536 + fld v 16 36 * 65536 + fld v 63 1 * 2 ^ 63) }
  | .windowTable => { P with windowTable := addrBits 6 64 v }
  | .doorbellBase => { P with doorbellBase := addrBits 12 64 v }
  | .summaryBase => { P with summaryBase := addrBits 6 64 v }
  | .statusLineBase => { P with statusLineBase := addrBits 6 64 v }
  | .pollCfg => { P with pollCfg := pollCfgWrite P.pollCfg v }
  | .bar2Base => { P with bar2Base := addrBits 30 64 v }
  | .excRingBase => { P with excRingBase := addrBits 12 64 v }
  | .excRingCfg =>
    let fresh := bit v 4 && !bit P.excRingCfg.toNat 4
    { P with
      excRingCfg := ringCfg vectors P.excRingCfg v, excWritten := if fresh then 0 else P.excWritten,
      excUnsignalled := if fresh then 0 else P.excUnsignalled }
  | .healthRingBase => { P with healthRingBase := addrBits 12 64 v }
  | .healthRingCfg => { P with healthRingCfg := ringCfg vectors P.healthRingCfg v }
  | .traceBase => if P.obsMode = 0 ∧ P.streamIdle = true then { P with obsTraceBase := addrBits 12 64 v } else P
  | .snapshotBase => { P with obsSnapshotBase := addrBits 12 64 v }
  | .snapshotCfg =>
    let P' := { P with obsSnapshotCfg := snapshotCfgWrite P.obsSnapshotCfg v }
    if P.obsMode ≠ 0 ∧ fld P'.obsSnapshotCfg.toNat 0 16 ≠ fld P.obsSnapshotCfg.toNat 0 16 then
      { P' with snapshotDue := P'.firstSnapshot tick }
    else P'
  | .streamAddr => { P with obsStreamAddr := BitVec.ofNat 64 v }
  | .streamCfg =>
    if P.obsMode = 0 ∧ P.streamIdle = true then { P with obsStreamCfg := streamCfgWrite P.obsStreamCfg v } else P
  | .streamHeadAddr => { P with obsStreamHeadAddr := addrBits 3 64 v }
  | .pegBase => { P with obsPegBase := addrBits 6 64 v }
  | .groupSeed g =>
    let G := P.group g
    if G.created then P else P.setGroup g { G with seedReg := BitVec.ofNat 64 v }
  | .groupCfg g =>
    let G := P.group g
    if G.created then P else P.setGroup g { G with cfgReg := BitVec.ofNat 32 (v % 128) }
  | .sqBase q =>
    let Q := P.queue q
    if Q.state = .disabled then P.setQueue q { Q with sqBase := addrBits 12 64 v } else P
  | .cqBase q =>
    let Q := P.queue q
    if Q.state = .disabled then P.setQueue q { Q with cqBase := addrBits 12 64 v } else P
  | .queueCfg q =>
    let Q := P.queue q
    if Q.state = .disabled then P.setQueue q { Q with cfg := queueCfgWrite vectors Q.cfg v } else P
  | .queueIrq q => P.setQueue q { P.queue q with irq := BitVec.ofNat 32 (v % 2 ^ 26) }
  | .queueStatus q =>
    let Q := P.queue q
    P.setQueue q { Q with
      doorbellError := Q.doorbellError && !bit v 2, enableRefused := Q.enableRefused && !bit v 3,
      rolledBack := Q.rolledBack && !bit v 4 }
  | .ctrl | .streamPriority | .streamShare | .streamShareHigh | .epochStatus | .tlbInvalidate | .obsCfg | .filter
  | .counterSel _ | .groupCtrl _ | .groupStatus _ | .queueCtrl _ | .sqHead _ | .cqTail _ => P

/-- A write of a register of partition block p. -/
def State.writePart (fn : Fn) (p : Fin 4) (r : PartReg) (v : Nat) (s : State) : State :=
  match r with
  | .ctrl => s.writePtCtrl fn p v
  | .streamPriority => streamPriorityWrite fn p (BitVec.ofNat 32 v) s
  | .streamShare => streamShareWrite fn p false (BitVec.ofNat 32 v) s
  | .streamShareHigh => streamShareWrite fn p true (BitVec.ofNat 32 v) s
  | .tlbInvalidate => if bit v 0 then tlbInvalidate fn p s else s
  | .obsCfg => obsModeWrite fn p (BitVec.ofNat 32 v) s
  | .filter => counterSelectWrite fn p 16 (BitVec.ofNat 32 v) s
  | .counterSel n => counterSelectWrite fn p n (BitVec.ofNat 32 v) s
  | .groupCtrl g => s.writeGroupCtrl fn p g v
  | .queueCtrl q => s.writeQueueCtrl fn p q v
  | .flowCfg =>
    if s.mayWritePart fn p then
      let t := s.modPart p (fun P => P.store (fnVectors fn) s.tick r v)
      if !(s.part p).flowEnable && (t.part p).flowEnable then t.sendsBegin p else t
    else s
  | .windowTable =>
    if bit v 0 then windowTableReload fn p (BitVec.ofNat 64 v) s
    else if s.mayWritePart fn p then s.modPart p (fun P => P.store (fnVectors fn) s.tick r v) else s
  | _ => if s.mayWritePart fn p then s.modPart p (fun P => P.store (fnVectors fn) s.tick r v) else s

/-! ### Package registers -/

/-- GO of HI_SELVAGE_REQUEST_CTRL (14 R400, R405): BUSY with the record's address, ignored while BUSY is 1, NOT_READY
before DEVICE_READY. The row of the record's KIND carries the request out.
(Log: DEDUCED, unsafe, entry 97.) -/
def State.selvageGo (s : State) : State :=
  if !s.life.deviceReady then s.requestDone .notReady 0
  else if s.hi.selvageBusy.isSome then s
  else { s with hi := { s.hi with selvageBusy := some s.hi.selvageAddr.toNat } }

/-- The number of units that a TARGET names (14 Table 14.22). -/
def partialUnits (target : Nat) : Nat :=
  match target with
  | 1 => 4
  | 2 => 12
  | 3 => 1280
  | _ => 0

/-- A write of HI_PARTIAL_RESET (14 R424): GO makes the reset BUSY, or ends at once when the INDEX is out of range or
TARGET is 0; a GO while BUSY is ignored. The row of the TARGET carries the reset out. TARGET 0 leaves the field.
(Log: DEDUCED, unsafe, entry 97.) -/
def State.writePartial (s : State) (v : Nat) : State :=
  let index := fld v 16 11
  let atB := bit v 2
  let target := if v % 4 = 0 then fld s.hi.partialReset.toNat 0 2 else v % 4
  let fields := BitVec.ofNat 32 (partialKey target index atB)
  if !bit v 15 then { s with hi := { s.hi with partialReset := fields } }
  else if s.hi.partialBusy.isSome then s
  else if index < partialUnits (v % 4) then
    let s := { s with hi := { s.hi with partialReset := fields, partialBusy := some (partialKey (v % 4) index atB) } }
    if v % 4 = 3 then s.coreResetWait index else s
  else { s with hi := { s.hi with partialReset := fields, partialResult := .invalid } }

/-- A write of OBS_PEG_CTRL: the trigger acts before the resumption.
(Log: DESIGN CHOICE, unsafe, entry 12.) -/
def State.writePegCtrl (fn : Fn) (v : Nat) (s : State) : State :=
  let s := if bit v 0 then Sys2Proof.Machine.pegTrigger fn (bit v 1) (bit v 2) s else s
  if bit v 3 then pegResume fn (bit v 2) s else s

/-- A write of FAB_PLAN_CTRL: LOAD acts before CLEAR.
(Log: DESIGN CHOICE, unsafe, entry 12.) -/
def State.writePlanCtrl (fn : Fn) (v : Nat) (s : State) : State :=
  let plan : Fin 16 := ⟨v % 16, Nat.mod_lt _ (by decide)⟩
  let s := if bit v 4 then planLoad fn plan s else s
  if bit v 5 then planClear fn plan s else s

/-- A write of FAB_TELEMETRY_CTRL. -/
def State.writeTelemetryCtrl (fn : Fn) (v : Nat) (s : State) : State :=
  let w := if v % 65536 = 0 then s.fab.telemetryCtrl else BitVec.ofNat 32 (v % 65536)
  let s := { s with fab := { s.fab with telemetryCtrl := w } }
  if bit v 16 then telemetryClearMax fn s else s

/-- A write of LIFE_EXPORT_CTRL (16 Table 16.21; 14 R405): GO makes the copy BUSY, ignored while BUSY is 1, NOT_READY
before DEVICE_READY; the row LIFE_EXPORT carries it out. A write without GO sets REGION alone. -/
def State.writeExportCtrl (fn : Fn) (v : Nat) (s : State) : State :=
  if bit v 3 then s.exportGo fn (v % 8)
  else if v % 8 ≤ 5 then { s with life := { s.life with exportRegion := BitVec.ofNat 3 (v % 8) } }
  else s

/-- A write of a package register by the PF, or by Basket where the firewall lets it (16 Table 16.10). -/
def State.writePkg (r : PkgReg) (v : Nat) (s : State) : State :=
  match r with
  | .bar2Select => { s with hi := { s.hi with pfBar2Select := BitVec.ofNat 32 (v % 8) } }
  | .partialReset => s.writePartial v
  | .selvageAddr => { s with hi := { s.hi with selvageAddr := BitVec.ofNat 64 v } }
  | .selvageCtrl => if bit v 0 then s.selvageGo else s
  | .healthRingBase => { s with hi := { s.hi with pkgHealthBase := addrBits 12 64 v } }
  | .healthRingCfg => { s with hi := { s.hi with pkgHealthCfg := ringCfg (fnVectors .pf) s.hi.pkgHealthCfg v } }
  | .statusLineBase => { s with hi := { s.hi with pkgStatusLine := addrBits 6 64 v } }
  | .healthHeadAddr => { s with hi := { s.hi with pkgHealthHead := addrBits 3 64 v } }
  | .portCtrl n => portEnableWrite .pf n (BitVec.ofNat 32 v) s
  | .portQuota n => portQuotaWrite .pf n (BitVec.ofNat 32 v) s
  | .tableIndex => { s with fab := { s.fab with tableIndex := tableIndexWrite s.fab.tableIndex v } }
  | .dataLow => fabTableCommit .pf (BitVec.ofNat 64 v) s
  | .dataHigh => fabTableDataHighWrite .pf (BitVec.ofNat 64 v) s
  | .planOwner => { s with fab := { s.fab with planOwner := s.fab.ownerWrite v } }
  | .planCtrl => s.writePlanCtrl .pf v
  | .fabCfg => { s with fab := { s.fab with cfg := fabCfgWrite s.fab.cfg v } }
  | .telemetryCtrl => s.writeTelemetryCtrl .pf v
  | .memProtect => memProtectRequest .pf (BitVec.ofNat 32 v) s
  | .pwrMode => powerModeRequest .pf (BitVec.ofNat 32 v) s
  | .coolantCfg => { s with power := { s.power with coolantCfg := BitVec.ofNat 32 (v % 2) } }
  | .obsPkgCfg =>
    let s := s.settleBuckets
    { s with obs := { s.obs with cfg := obsPkgCfgWrite s.obs.cfg v } }
  | .pegCtrl => s.writePegCtrl .pf v
  | .pegStatus => s.modPeg (fun (g : Peg) => { g with ignored := g.ignored && !bit v 27 })
  | .pegMatch => { s with obs := { s.obs with pegMatch := BitVec.ofNat 32 (v % 2 ^ 30) } }
  | .pegMatchValue => { s with obs := { s.obs with pegMatchValue := BitVec.ofNat 64 v } }
  | .imageAddr => { s with obs := { s.obs with imageAddr := addrBits 6 64 v } }
  | .pkgSnapshot => if bit v 0 then packageSnapshot .pf s else s
  | .calendar => calendarSet .pf (BitVec.ofNat 64 v) s
  | .timeCfg => { s with life := { s.life with timeCfg := BitVec.ofNat 32 (v % 4) } }.chooseParent
  | .exportAddr => { s with life := { s.life with exportAddr := addrBits 12 64 v } }
  | .exportCtrl => s.writeExportCtrl .pf v
  | .deviceStatus | .portStatus _ | .planStatus | .telemetry _ _ | .seamStatus _ | .dieInfo _ | .packageLevel
  | .replaceRequest | .coolant | .flow | .junction _ | .powerOn | .timeStatus | .wear _ | .firmware => s

/-- Whether the PF may write a package register now: before DEVICE_READY only the request and the export registers
(14 R405). -/
def State.mayWriteReg (s : State) (r : PkgReg) : Bool :=
  s.life.deviceReady || decide (r = .selvageAddr) || decide (r = .selvageCtrl) || decide (r = .exportAddr) ||
    decide (r = .exportCtrl)

/-! ### MSI-X tables -/

/-- A write of word k of a function's MSI-X table: of the fourth word of a vector only the mask bit is kept, and clearing
it sends a pending message (14 R417).
(Log: PRESUMED, unsafe, entry 18.) -/
def State.writeMsix (fn : Fn) (k v : Nat) (s : State) : State :=
  if s.life.deviceReady && s.fnExists fn then
    if k % 4 = 3 then
      if bit v 0 then { s with hi := s.hi.setMsixWord fn k 1 } else msixVectorUnmask fn (k / 4) s
    else { s with hi := s.hi.setMsixWord fn k (BitVec.ofNat 32 v) }
  else s

/-! ### The row REGISTER_WRITE (14 R398, R399, R403 to R405) -/

/-- A whole value reaches a register. -/
def State.writeReg (fn : Fn) (r : Reg) (v : Nat) (s : State) : State :=
  match r with
  | .part p r => s.writePart fn p r v
  | .pkg r => if fn = .pf ∧ s.mayWriteReg r = true then s.writePkg r v else s
  | .msix k => s.writeMsix fn k v
  | .pba _ => s

/-- Whether a write of a register by a function takes effect now. -/
def State.mayWriteAt (s : State) (fn : Fn) (r : Reg) : Bool :=
  match r with
  | .part p _ => s.mayWritePart fn p
  | .pkg r => decide (fn = .pf) && s.mayWriteReg r
  | .msix _ => true
  | .pba _ => false

/-- The key under which the low half of a 64-bit register waits: the register's own place, the same for each function
that reaches it.
(Log: DESIGN CHOICE, unsafe, entry 22.) -/
def latchKey (fn : Fn) (off : Nat) : Nat :=
  match fn with
  | .pf => off
  | .vf n => (n.val + 1) * 0x100000 + off

/-- A 4-byte write: the low half of a 64-bit register waits for its high half, which takes effect with it; one that the function
may not write is ignored (14 R399, R405).
(Log: DESIGN CHOICE, unsafe, entry 22.) -/
def State.writeFour (fn : Fn) (off v : Nat) (s : State) : State :=
  match Reg.locate fn off with
  | some r =>
    if r.wide then
      if s.mayWriteAt fn r then { s with hi := { s.hi with latch := sset 0 s.hi.latch (latchKey fn off) (BitVec.ofNat 32 v) } }
      else s
    else s.writeReg fn r v
  | none =>
    if off % 8 = 4 then
      match Reg.locate fn (off - 4) with
      | some r =>
        if r.wide then s.writeReg fn r ((sget 0 s.hi.latch (latchKey fn (off - 4))).toNat + v * 2 ^ 32) else s
      | none => s
    else s

/-- REGISTER_WRITE: a write into a function's BAR0 of 4 bytes, or of 8 aligned bytes, which reach two neighbouring 32-bit
registers in turn; any other is ignored.
(Log: DESIGN CHOICE, unsafe, entry 12; DESIGN CHOICE, unsafe, entry 22.) -/
def registerWrite (fn : Fn) (offset size : Nat) (value : W64) (s : State) : State :=
  if !s.fnExists fn then s
  else if size = 4 ∧ offset % 4 = 0 then s.writeFour fn offset (value.toNat % 2 ^ 32)
  else if size = 8 ∧ offset % 8 = 0 then
    match Reg.locate fn offset with
    | some r =>
      if r.wide then s.writeReg fn r value.toNat
      else (s.writeReg fn r (value.toNat % 2 ^ 32)).writeFour fn (offset + 4) (value.toNat / 2 ^ 32)
    | none => s.writeFour fn (offset + 4) (value.toNat / 2 ^ 32)
  else s

/-- The meaning of REGISTER_WRITE. -/
def execRegisterWrite (fn : Fn) (offset size : Nat) (value : W64) (s : State) : Host.Outcome State Fault Refusal :=
  .next (registerWrite fn offset size value s)

end Sys2Proof.Machine
end

