-- ==== Sys2Proof/Machine/Readback.lean ====
section
/-! DEFINITION. What registers read as (00 R11; 14 R398, R403, R405; the register tables of every chapter), and the row
BASKET_ACCESS (16 R466). -/

namespace Sys2Proof.Machine

/-- The code of a partition state (14 Table 14.12). -/
def PState.code : PState → Nat
  | .disabled => 0
  | .enabled => 1
  | .draining => 2
  | .resetting => 3

/-- The code of a queue state (14 Table 14.15). -/
def QState.code : QState → Nat
  | .disabled => 0
  | .enabled => 1
  | .stopped => 2
  | .draining => 3

/-- The code of a port state (11 Table 11.12). -/
def PortState.code : PortState → Nat
  | .disabled => 0
  | .training => 1
  | .up => 2
  | .down => 3
  | .lost => 4
  | .mismatch => 5

/-- The code of a plan state (11 Table 11.17). -/
def PlanState.code : PlanState → Nat
  | .empty => 0
  | .ready => 1
  | .active => 2
  | .fault => 3

/-- How many bits of a word are 1, of the first n. -/
def bitCount : Nat → Nat → Nat
  | 0, _ => 0
  | n + 1, v => v % 2 + bitCount n (v / 2)

/-- PT_STATUS (14 Table 14.12): CORES counts the present logical cores the partition owns. -/
def State.ptStatus (s : State) (p : Fin 4) : Nat :=
  let P := s.part p
  P.state.code + P.enableRefused.toNat * 4 + P.rolledBack.toNat * 8 +
    bitCount 1280 (P.cores &&& ~~~s.cores.absent).toNat * 65536

/-- PT_EPOCH_STATUS (13 Table 13.3). -/
def Part.epochStatus (P : Part) : Nat :=
  P.released % 2 ^ 40 + P.closed.length % 256 * 2 ^ 40 + min P.replays 65535 * 2 ^ 48

/-- QM_QUEUE_STATUS (14 Table 14.15). -/
def Queue.status (Q : Queue) : Nat :=
  Q.state.code + Q.doorbellError.toNat * 4 + Q.enableRefused.toNat * 8 + Q.rolledBack.toNat * 16

/-- What a register of partition block p reads as. PT_CTRL.ENABLE reads 1 while the partition is ENABLED.
(Log: DEDUCED, unsafe, entry 103.) -/
def State.readPart (s : State) (p : Fin 4) (r : PartReg) : Nat :=
  let P := s.part p
  match r with
  | .ctrl => (decide (P.state = .enabled)).toNat
  | .status => s.ptStatus p
  | .streamPriority => P.streamPriority.toNat
  | .streamShare => P.streamShare.toNat
  | .streamShareHigh => P.streamShareHigh.toNat
  | .numericDefault => P.numericDefault.toNat
  | .epochCfg => P.epochCfg.toNat
  | .epochStatus => P.epochStatus
  | .pageTableBase => P.pageTableBase.toNat
  | .tlbInvalidate => P.tlbDone.toNat * 2
  | .stepRecordBase => P.stepRecordBase.toNat
  | .stepRecordCtrl => P.stepRecordCtrl.toNat
  | .streamTable => P.streamTable.toNat
  | .scTableBase => P.scTableBase.toNat
  | .scTableEntries => P.scTableEntries.toNat
  | .scCfg => P.scCfg.toNat
  | .flowCfg => P.flowCfg.toNat
  | .windowTable => P.windowTable.toNat
  | .doorbellBase => P.doorbellBase.toNat
  | .summaryBase => P.summaryBase.toNat
  | .statusLineBase => P.statusLineBase.toNat
  | .pollCfg => P.pollCfg.toNat
  | .bar2Base => P.bar2Base.toNat
  | .excRingBase => P.excRingBase.toNat
  | .excRingCfg => P.excRingCfg.toNat
  | .healthRingBase => P.healthRingBase.toNat
  | .healthRingCfg => P.healthRingCfg.toNat
  | .obsCfg => P.obsCfg.toNat
  | .traceBase => P.obsTraceBase.toNat
  | .snapshotBase => P.obsSnapshotBase.toNat
  | .snapshotCfg => P.obsSnapshotCfg.toNat
  | .streamAddr => P.obsStreamAddr.toNat
  | .streamCfg => P.obsStreamCfg.toNat
  | .streamHeadAddr => P.obsStreamHeadAddr.toNat
  | .pegBase => P.obsPegBase.toNat
  | .filter => P.obsFilter.toNat
  | .counterSel n => (sget 0 P.obsSel n).toNat
  | .groupSeed g => (P.group g).seedReg.toNat
  | .groupCfg g => (P.group g).cfgReg.toNat
  | .groupCtrl _ => 0
  | .groupStatus g => (P.group g).created.toNat + (P.group g).error.toNat * 16
  | .sqBase q => (P.queue q).sqBase.toNat
  | .cqBase q => (P.queue q).cqBase.toNat
  | .queueCfg q => (P.queue q).cfg.toNat
  | .queueIrq q => (P.queue q).irq.toNat
  | .queueCtrl _ => 0
  | .queueStatus q => (P.queue q).status
  | .sqHead q => (P.queue q).head.toNat
  | .cqTail q => (P.queue q).tail.toNat

/-! ### Package registers -/

/-- HI_DEVICE_STATUS (14 Table 14.8). -/
def State.deviceStatus (s : State) : Nat :=
  let on := (List.finRange 4).foldl (fun (n : Nat) p =>
    n + if (s.part p).state = .enabled ∨ (s.part p).state = .draining then 2 ^ (4 + p.val) else 0) 0
  s.life.deviceReady.toNat + s.hi.vfEnable.toNat * 2 + on + s.life.bootPhase.toNat * 256

/-- FAB_PORT_STATUS (11 Table 11.12). -/
def Port.status (P : Port) : Nat :=
  P.state.code + P.held.toNat * 8 + P.partnerPort % 32 * 16 + P.encrypted.toNat * 512 + P.partnerEndpoint % 2 ^ 14 * 65536

/-- The entry at INDEX, as FAB_TABLE_DATA_LOW and FAB_TABLE_DATA_HIGH show it; a routing entry has no high word.
(Log: DEDUCED, unsafe, entry 103.) -/
def Fab.entry (f : Fab) : Nat :=
  if f.onCircuits then (if f.index < 4096 then f.circuit f.index else 0) else (sget 0 f.routes f.index).toNat

/-- Word `k` of 32 bits of a port's telemetry block (11 Tables 11.22, 11.23). Codewords and stalls are counts
that the model does not time; the mean depth is that of the last window where the queue's depth has not changed since before
its beginning, else a free value.
(Log: DESIGN CHOICE, safe, entry 83; DESIGN CHOICE, safe, entry 107.) -/
def State.telemetryWord (s : State) (i : Fin 32) (k : Nat) : Nat :=
  let P := s.port i
  let half (v : Nat) : Nat := fld v (k % 2 * 32) 32
  if k < 28 then (if k / 2 = 4 ∨ k / 2 = 5 then half (s.portDrift i (k / 2)) else half (sget 0 P.telemetry (k / 2)))
  else if k < 32 ∨ 176 ≤ k then 0
  else
    let slot := (k - 32) / 16
    let w := (k - 32) % 16
    if w < 8 then half (sget 0 P.telemetry (16 + 8 * slot + w / 2))
    else if w = 8 then P.depth slot
    else if w = 9 then sget 0 P.telemetry (96 + slot)
    else if w = 10 then
      (if sget 0 P.depthSince slot + 2000 * fld s.fab.telemetryCtrl.toNat 0 16 ≤ s.tick then 16 * P.depth slot
      else (Config.freeWord (s.free + i.val * 256 + k)).toNat) % 2 ^ 32
    else if w = 12 ∨ w = 13 then half (s.portDrift i (16 + slot))
    else 0

/-- PWR_MODE (17 Table 17.8): THROTTLED is whether a die runs below the clock of EFFECTIVE, whatever the cause.
(Log: DEDUCED, unsafe, entry 120.) -/
def Power.mode (w : Power) : Nat :=
  let below := (List.finRange 4).foldl (fun (n : Nat) d =>
    n + (decide (w.clocks[d] < modeClock w.effective)).toNat * 2 ^ (12 + d.val)) 0
  let pending := (List.finRange 4).foldl (fun (n : Nat) d => n + (w.pendingDie d).toNat * 2 ^ (4 + d.val)) 0
  w.request.toNat + w.effective.toNat * 4 + pending + w.forcedBrake.toNat * 256 + w.forcedFlow.toNat * 512 +
    w.forcedSensor.toNat * 1024 + w.forcedDie.toNat * 2048 + below

/-- OBS_PEG_STATUS (15 Table 15.20). -/
def Peg.status (g : Peg) : Nat :=
  g.id.toNat + g.open_.toNat * 2 ^ 16 + g.halted.toNat * 2 ^ 17 + g.late.toNat * 2 ^ 21 + g.early.toNat * 2 ^ 22 +
    g.source.toNat * 2 ^ 23 + g.ignored.toNat * 2 ^ 27

/-- LIFE_TIME_STATUS (16 Table 16.19). -/
def Life.timeStatus (l : Life) : Nat :=
  let o : Int := max (-32767) (min 32767 l.offset)
  l.locked.toNat + l.parentPort % 32 * 2 + (o % 65536).toNat * 256

/-- What a package register reads as.
(Log: DEDUCED, unsafe, entry 103.) -/
def State.readPkg (s : State) (r : PkgReg) : Nat :=
  match r with
  | .deviceStatus => s.deviceStatus
  | .bar2Select => s.hi.pfBar2Select.toNat
  | .partialReset => s.hi.partialReset.toNat + s.hi.partialResult.code * 2 ^ 28 + s.hi.partialBusy.isSome.toNat * 2 ^ 31
  | .selvageAddr => s.hi.selvageAddr.toNat
  | .selvageCtrl => s.hi.selvageBusy.isSome.toNat * 2 + s.hi.selvageResult.code * 256 + s.hi.selvageDetail.toNat * 65536
  | .healthRingBase => s.hi.pkgHealthBase.toNat
  | .healthRingCfg => s.hi.pkgHealthCfg.toNat
  | .statusLineBase => s.hi.pkgStatusLine.toNat
  | .healthHeadAddr => s.hi.pkgHealthHead.toNat
  | .portCtrl n => (s.port n).ctrl.toNat
  | .portStatus n => (s.port n).status
  | .portQuota n => (s.port n).quota.toNat
  | .tableIndex => s.fab.tableIndex.toNat
  | .dataLow => s.fab.entry % 2 ^ 64
  | .dataHigh => s.fab.entry / 2 ^ 64
  | .planOwner => s.fab.planOwner.toNat
  | .planStatus => (List.range 16).foldl (fun (n : Nat) k => n + (s.fab.plan k).code * 4 ^ k) 0
  | .planCtrl => s.fab.planDetail.toNat
  | .fabCfg => s.fab.cfg.toNat
  | .telemetryCtrl => s.fab.telemetryCtrl.toNat
  | .telemetry n k => s.telemetryWord n k
  | .seamStatus n => s.seams[n].status n.val
  | .dieInfo n => s.dieInfo[n].toNat
  | .packageLevel => s.packageLevel.toNat
  | .memProtect =>
    s.mem.strongRequest.toNat + s.mem.strongActive.toNat * 2 + (s.mem.strongRequest != s.mem.strongActive).toNat * 4
  | .replaceRequest => s.cores.replaceRequest.toNat
  | .pwrMode => s.power.mode
  | .coolant => s.power.coolant.toNat
  | .flow => s.power.flow.toNat
  | .coolantCfg => s.power.coolantCfg.toNat
  | .junction n => s.power.junction[n].toNat
  | .obsPkgCfg => s.obs.cfg.toNat
  | .pegCtrl => 0
  | .pegStatus => s.obs.peg.status
  | .pegMatch => s.obs.pegMatch.toNat
  | .pegMatchValue => s.obs.pegMatchValue.toNat
  | .imageAddr => s.obs.imageAddr.toNat
  | .pkgSnapshot => 0
  | .calendar => s.calendar
  | .powerOn => s.life.powerOnMinutes
  | .timeCfg => s.life.timeCfg.toNat
  | .timeStatus => s.life.timeStatus
  | .wear n => s.life.wearIndex n.val
  | .exportAddr => s.life.exportAddr.toNat
  | .exportCtrl => s.life.exportRegion.toNat + s.life.exportBusy.isSome.toNat * 16 + s.life.exportResult.code * 256
  | .firmware => s.life.patchVersion.toNat + s.life.basketSlot.toNat * 256 + s.life.basketRestarts % 65536 * 65536

/-- Whether a register reads as itself before DEVICE_READY (14 R405). -/
def Reg.early : Reg → Bool
  | .pkg .deviceStatus => true
  | .pkg .selvageCtrl => true
  | .pkg .exportCtrl => true
  | _ => false

/-- What a register reads as to a function. -/
def State.readReg (s : State) (fn : Fn) (r : Reg) : Nat :=
  if !s.life.deviceReady && !r.early then 0
  else
    match r with
    | .part p r => s.readPart p r
    | .pkg r => s.readPkg r
    | .msix k => (s.hi.msixWord fn k).toNat
    | .pba k => (List.range 32).foldl (fun (n : Nat) j => n + (s.hi.pendingBit fn (32 * k + j)).toNat * 2 ^ j) 0

/-- What four bytes at an offset of a function's BAR0 read as. -/
def State.bar0 (s : State) (fn : Fn) (off : Nat) : Nat :=
  match Reg.locate fn off with
  | some r => s.readReg fn r % 2 ^ 32
  | none =>
    if 4 ≤ off then
      match Reg.locate fn (off - 4) with
      | some r => if r.wide then s.readReg fn r / 2 ^ 32 else 0
      | none => 0
    else 0

/-! ### Basket behind its firewall (16 R466, Table 16.10) -/

/-- A blocked access: Selvage counts it and writes a MANAGEMENT_NOTE record. -/
def State.blocked (s : State) : State :=
  { s with life := { s.life with firewallBlocks := s.life.firewallBlocks + 1 } }.lifeNote 11 0 [s.life.firewallBlocks + 1]

/-- Whether Basket may reach an offset of the package's registers: the PWR_ registers, fabric telemetry, the SEAM_ and HLTH_
registers, and the register that takes the package counters, OBS_PKG_SNAPSHOT (16 Table 16.10).
(Log: DEDUCED, unsafe, entry 105.) -/
def basketMay (off : Nat) : Bool :=
  decide (off = 0x500240) || decide (0x508000 ≤ off ∧ off < 0x510000) || decide (0x600000 ≤ off ∧ off < 0x630000) || decide (off = 0x630020)

/-- Whether Basket may read an offset of a partition block: PT_STATUS, PT_EPOCH_STATUS and QM_QUEUE_STATUS.
(Log: DEDUCED, unsafe, entry 105.) -/
def basketReads (off : Nat) : Bool :=
  match PartReg.locate off with
  | some .status => true
  | some .epochStatus => true
  | some (.queueStatus _) => true
  | _ => false

/-- A write of PWR_FLOW by Basket, which alone writes FLOW (17 Table 17.9). -/
def State.writeFlow (s : State) (v : Nat) : State :=
  { s with power := { s.power with flow := BitVec.ofNat 32 (setFld s.power.flow.toNat 0 16 v) } }

/-- A write of a package register by Basket: as its access type allows; of OBS_PEG_CTRL it has the trigger alone.
(Log: DEDUCED, unsafe, entry 105.) -/
def State.basketWrite (s : State) (off v : Nat) : State :=
  match PkgReg.locate off with
  | some .flow => s.writeFlow v
  | some .pwrMode => s.requestMode (BitVec.ofNat 32 v)
  | some .pegCtrl => if bit v 0 then s.pegTrigger 5 (bit v 1) (bit v 2) 0 none else s
  | some r => if r.wide then s else s.writePkg r v
  | none => s

/-- An entry of the routing or the circuit table. -/
def Fab.tableWord (f : Fab) (circuit : Bool) (index : Nat) : Nat :=
  if circuit then f.circuit (index % 4096) else (sget 0 f.routes (index % 16384)).toNat

/-- BASKET_ACCESS.
(Log: DEDUCED, unsafe, entry 105.) -/
def basketAccess (req : BasketReq) (s : State) : State :=
  if !s.basketUp then s
  else
    match req with
    | .frames => s.blocked.emit (.basketData 0)
    | .hostMemory => s.blocked.emit (.basketData 0)
    | .selvageData => s.blocked.emit (.basketData 0)
    | .writePartition _ _ => s.blocked
    | .readPartition p off =>
      if basketReads off then
        s.emit (.basketData (BitVec.ofNat 64 (match PartReg.locate off with | some r => s.readPart p r | none => 0)))
      else s.blocked.emit (.basketData 0)
    | .note body => s.lifeRecord 11 0 body
    | .readPackage off =>
      if basketMay off then
        s.emit (.basketData (BitVec.ofNat 64 (match PkgReg.locate off with | some r => s.readPkg r | none => 0)))
      else s.blocked.emit (.basketData 0)
    | .writePackage off v => if basketMay off || decide (off = 0x630004) then s.basketWrite off v.toNat else s.blocked
    | .readTable circuit index => s.emit (.basketData (BitVec.ofNat 64 (s.fab.tableWord circuit index)))
    | .pegTrigger halt fabric => s.pegTrigger 5 halt fabric 0 none
    | .controlPacket i pkt => if pkt.slot ≠ 6 then s.blocked else if s.portUp i then s.transmit i pkt else s

/-- The meaning of BASKET_ACCESS. -/
def execBasketAccess (req : BasketReq) (s : State) : Host.Outcome State Fault Refusal := .next (basketAccess req s)

end Sys2Proof.Machine
end

