-- ==== Sys2Proof/Machine/Dispatch.lean ====
section
/-! DEFINITION. The dispatch: one arm per constructor of `Instr`, each one direct call of its meaning. -/

namespace Sys2Proof.Machine

def exec (i : Instr) (s : State) : Host.Outcome State Fault Refusal :=
  match i with
  | .sweep p q => Sys2Proof.Machine.execSweep p q s
  | .copy p q => Sys2Proof.Machine.execCopy p q s
  | .collective p q => Sys2Proof.Machine.execCollective p q s
  | .planSwitch p q => Sys2Proof.Machine.execPlanSwitch p q s
  | .press p q => Sys2Proof.Machine.execPress p q s
  | .signal p q => Sys2Proof.Machine.execSignal p q s
  | .marker p q => Sys2Proof.Machine.execMarker p q s
  | .counterWrite p => Sys2Proof.Machine.execCounterWrite p s
  | .selfTest p => Sys2Proof.Machine.execSelfTest p s
  | .calibrate p => Sys2Proof.Machine.execCalibrate p s
  | .peg p => Sys2Proof.Machine.execPeg p s
  | .snapshot p => Sys2Proof.Machine.execSnapshot p s
  | .copyIn thread => Sys2Proof.Machine.execCopyIn thread s
  | .copyOut thread => Sys2Proof.Machine.execCopyOut thread s
  | .copyMesh thread => Sys2Proof.Machine.execCopyMesh thread s
  | .arrayLoadB thread => Sys2Proof.Machine.execArrayLoadB thread s
  | .arrayMma thread => Sys2Proof.Machine.execArrayMma thread s
  | .accInit thread => Sys2Proof.Machine.execAccInit thread s
  | .chain thread => Sys2Proof.Machine.execChain thread s
  | .rowFwd thread => Sys2Proof.Machine.execRowFwd thread s
  | .rowBwd thread => Sys2Proof.Machine.execRowBwd thread s
  | .wait thread => Sys2Proof.Machine.execWait thread s
  | .waitSatisfied thread => Sys2Proof.Machine.execWaitSatisfied thread s
  | .signalAdd thread => Sys2Proof.Machine.execSignalAdd thread s
  | .signalSet thread => Sys2Proof.Machine.execSignalSet thread s
  | .barrier thread => Sys2Proof.Machine.execBarrier thread s
  | .commandFinish c => Sys2Proof.Machine.execCommandFinish c s
  | .placeNext core => Sys2Proof.Machine.execPlaceNext core s
  | .threadRetire thread => Sys2Proof.Machine.execThreadRetire thread s
  | .shadowBlockFreed p => Sys2Proof.Machine.execShadowBlockFreed p s
  | .collectiveRegionReady c region => Sys2Proof.Machine.execCollectiveRegionReady c region s
  | .arrivalTimeout c => Sys2Proof.Machine.execArrivalTimeout c s
  | .hostRequestError c => Sys2Proof.Machine.execHostRequestError c s
  | .devicePoll p host => Sys2Proof.Machine.execDevicePoll p host s
  | .commandAdmit p q => Sys2Proof.Machine.execCommandAdmit p q s
  | .epochWatchdogClose p => Sys2Proof.Machine.execEpochWatchdogClose p s
  | .cutCapture p => Sys2Proof.Machine.execCutCapture p s
  | .epochRelease p => Sys2Proof.Machine.execEpochRelease p s
  | .irqTimerExpiry p q => Sys2Proof.Machine.execIrqTimerExpiry p q s
  | .msixVectorUnmask fn vector => Sys2Proof.Machine.execMsixVectorUnmask fn vector s
  | .recover f => Sys2Proof.Machine.execRecover f s
  | .coreHang core => Sys2Proof.Machine.execCoreHang core s
  | .strikeLapse phys => Sys2Proof.Machine.execStrikeLapse phys s
  | .stackFailure stack => Sys2Proof.Machine.execStackFailure stack s
  | .patrolScrub stack found => Sys2Proof.Machine.execPatrolScrub stack found s
  | .drainRollback p => Sys2Proof.Machine.execDrainRollback p s
  | .stepRecordWrite p => Sys2Proof.Machine.execStepRecordWrite p s
  | .partitionEnable fn p => Sys2Proof.Machine.execPartitionEnable fn p s
  | .partitionDisable fn p => Sys2Proof.Machine.execPartitionDisable fn p s
  | .partitionReset fn p => Sys2Proof.Machine.execPartitionReset fn p s
  | .pfFunctionLevelReset => Sys2Proof.Machine.execPfFunctionLevelReset  s
  | .groupCreate fn p g => Sys2Proof.Machine.execGroupCreate fn p g s
  | .groupDestroy fn p g => Sys2Proof.Machine.execGroupDestroy fn p g s
  | .queueEnable fn p q => Sys2Proof.Machine.execQueueEnable fn p q s
  | .queueDisable fn p q => Sys2Proof.Machine.execQueueDisable fn p q s
  | .queueResume fn p q => Sys2Proof.Machine.execQueueResume fn p q s
  | .tlbInvalidate fn p => Sys2Proof.Machine.execTlbInvalidate fn p s
  | .streamPriorityWrite fn p value => Sys2Proof.Machine.execStreamPriorityWrite fn p value s
  | .streamShareWrite fn p high value => Sys2Proof.Machine.execStreamShareWrite fn p high value s
  | .assignCores host => Sys2Proof.Machine.execAssignCores host s
  | .assignFrames host => Sys2Proof.Machine.execAssignFrames host s
  | .releaseFrames host => Sys2Proof.Machine.execReleaseFrames host s
  | .setEndpoints host => Sys2Proof.Machine.execSetEndpoints host s
  | .memoryEncryption host => Sys2Proof.Machine.execMemoryEncryption host s
  | .partialResetVelac index => Sys2Proof.Machine.execPartialResetVelac index s
  | .partialResetSeamAdapter index atB => Sys2Proof.Machine.execPartialResetSeamAdapter index atB s
  | .partialResetCore index selfTestPassed => Sys2Proof.Machine.execPartialResetCore index selfTestPassed s
  | .fabTableDataHighWrite fn value => Sys2Proof.Machine.execFabTableDataHighWrite fn value s
  | .fabTableCommit fn value => Sys2Proof.Machine.execFabTableCommit fn value s
  | .planLoad fn plan => Sys2Proof.Machine.execPlanLoad fn plan s
  | .planClear fn plan => Sys2Proof.Machine.execPlanClear fn plan s
  | .portQuotaWrite fn port value => Sys2Proof.Machine.execPortQuotaWrite fn port value s
  | .portEnableWrite fn port value => Sys2Proof.Machine.execPortEnableWrite fn port value s
  | .windowTableReload fn p value => Sys2Proof.Machine.execWindowTableReload fn p value s
  | .telemetryClearMax fn => Sys2Proof.Machine.execTelemetryClearMax fn s
  | .pegTrigger fn halt fabric => Sys2Proof.Machine.execPegTrigger fn halt fabric s
  | .pegResume fn fabric => Sys2Proof.Machine.execPegResume fn fabric s
  | .packageSnapshot fn => Sys2Proof.Machine.execPackageSnapshot fn s
  | .lifeExport fn region => Sys2Proof.Machine.execLifeExport fn region s
  | .calendarSet fn value => Sys2Proof.Machine.execCalendarSet fn value s
  | .powerModeRequest fn value => Sys2Proof.Machine.execPowerModeRequest fn value s
  | .memProtectRequest fn value => Sys2Proof.Machine.execMemProtectRequest fn value s
  | .counterSelectWrite fn p index value => Sys2Proof.Machine.execCounterSelectWrite fn p index value s
  | .counterSelectApply p => Sys2Proof.Machine.execCounterSelectApply p s
  | .obsModeWrite fn p value => Sys2Proof.Machine.execObsModeWrite fn p value s
  | .registerWrite fn offset size value => Sys2Proof.Machine.execRegisterWrite fn offset size value s
  | .bar2Read fn offset length => Sys2Proof.Machine.execBar2Read fn offset length s
  | .bar2Write fn offset data => Sys2Proof.Machine.execBar2Write fn offset data s
  | .configRequest fn req => Sys2Proof.Machine.execConfigRequest fn req s
  | .seamFlitReceive seam dir flit => Sys2Proof.Machine.execSeamFlitReceive seam dir flit s
  | .seamAckTimer seam dir => Sys2Proof.Machine.execSeamAckTimer seam dir s
  | .seamAckReceive seam dir seq => Sys2Proof.Machine.execSeamAckReceive seam dir seq s
  | .seamNackReceive seam dir seq => Sys2Proof.Machine.execSeamNackReceive seam dir seq s
  | .seamRetryExhausted seam dir => Sys2Proof.Machine.execSeamRetryExhausted seam dir s
  | .controlWordReceive seam dir word => Sys2Proof.Machine.execControlWordReceive seam dir word s
  | .seamRetraining seam failing => Sys2Proof.Machine.execSeamRetraining seam failing s
  | .laneMapProposal seam => Sys2Proof.Machine.execLaneMapProposal seam s
  | .laneMapCommit seam => Sys2Proof.Machine.execLaneMapCommit seam s
  | .backgroundLaneTestEnd seam failing => Sys2Proof.Machine.execBackgroundLaneTestEnd seam failing s
  | .linkFrameReceive port frame => Sys2Proof.Machine.execLinkFrameReceive port frame s
  | .linkAckTimer port => Sys2Proof.Machine.execLinkAckTimer port s
  | .linkNackReceive port seq => Sys2Proof.Machine.execLinkNackReceive port seq s
  | .linkDrop port => Sys2Proof.Machine.execLinkDrop port s
  | .helloReceive port hello => Sys2Proof.Machine.execHelloReceive port hello s
  | .portLost port => Sys2Proof.Machine.execPortLost port s
  | .packetReceive port pkt => Sys2Proof.Machine.execPacketReceive port pkt s
  | .packetForward port pkt => Sys2Proof.Machine.execPacketForward port pkt s
  | .circuitPacket port pkt => Sys2Proof.Machine.execCircuitPacket port pkt s
  | .e2eAckTimer p flow => Sys2Proof.Machine.execE2eAckTimer p flow s
  | .ackReceive pkt => Sys2Proof.Machine.execAckReceive pkt s
  | .ackTimeout p flow => Sys2Proof.Machine.execAckTimeout p flow s
  | .fabricStall port stream cls => Sys2Proof.Machine.execFabricStall port stream cls s
  | .circuitSetup port pkt => Sys2Proof.Machine.execCircuitSetup port pkt s
  | .keySlotSwitch port tx => Sys2Proof.Machine.execKeySlotSwitch port tx s
  | .timeSyncSend => Sys2Proof.Machine.execTimeSyncSend  s
  | .timeSyncReceive port payload => Sys2Proof.Machine.execTimeSyncReceive port payload s
  | .discoveryReceive port payload => Sys2Proof.Machine.execDiscoveryReceive port payload s
  | .pegPacketReceive port payload => Sys2Proof.Machine.execPegPacketReceive port payload s
  | .periodicSnapshot p => Sys2Proof.Machine.execPeriodicSnapshot p s
  | .traceStream p => Sys2Proof.Machine.execTraceStream p s
  | .pegCapture => Sys2Proof.Machine.execPegCapture  s
  | .pegWindowClose => Sys2Proof.Machine.execPegWindowClose  s
  | .powerModeChangeover die => Sys2Proof.Machine.execPowerModeChangeover die s
  | .thermalThrottleStep die => Sys2Proof.Machine.execThermalThrottleStep die s
  | .thermalSensorRead index temp valid => Sys2Proof.Machine.execThermalSensorRead index temp valid s
  | .coolantSensorRead inlet outlet => Sys2Proof.Machine.execCoolantSensorRead inlet outlet s
  | .brakeAssert => Sys2Proof.Machine.execBrakeAssert  s
  | .brakeRelease => Sys2Proof.Machine.execBrakeRelease  s
  | .vauxGood => Sys2Proof.Machine.execVauxGood s
  | .vinMainLoss => Sys2Proof.Machine.execVinMainLoss  s
  | .coldBoot found => Sys2Proof.Machine.execColdBoot found s
  | .deviceReady => Sys2Proof.Machine.execDeviceReady  s
  | .perstNAssert => Sys2Proof.Machine.execPerstNAssert  s
  | .timeBaseCompare die difference => Sys2Proof.Machine.execTimeBaseCompare die difference s
  | .selfTestWindowExpiry p => Sys2Proof.Machine.execSelfTestWindowExpiry p s
  | .backgroundWorkDone index outcome => Sys2Proof.Machine.execBackgroundWorkDone index outcome s
  | .wearSample => Sys2Proof.Machine.execWearSample  s
  | .wearAccumulatorWrite => Sys2Proof.Machine.execWearAccumulatorWrite  s
  | .basketHeartbeatCheck beat => Sys2Proof.Machine.execBasketHeartbeatCheck beat s
  | .basketRollbackRaise => Sys2Proof.Machine.execBasketRollbackRaise  s
  | .portTrained port => Sys2Proof.Machine.execPortTrained port s
  | .vauxLoss => Sys2Proof.Machine.execVauxLoss  s
  | .managementCoreFault => Sys2Proof.Machine.execManagementCoreFault  s
  | .mctpMessage msg => Sys2Proof.Machine.execMctpMessage msg s
  | .basketAccess req => Sys2Proof.Machine.execBasketAccess req s
  | .partitionResetDone p => Sys2Proof.Machine.execPartitionResetDone p s

end Sys2Proof.Machine
end

