-- ==== Sys2Proof/Machine/Idle.lean ====
section
/-! DEFINITION. What the block does when no command waits: time passes. -/

namespace Sys2Proof.Machine

/-- One tick of the always-on time base (00 R5, 16 R452, R453): the count goes up by one; steered, it advances one extra count
or holds, no more than once in 10,000 ticks.
(Log: DESIGN CHOICE, unsafe, entry 2; DEDUCED, unsafe, entry 117.) -/
def State.timeTick (s : State) : State :=
  let l := s.life
  if l.slew = 0 ∨ l.syncEnable = false ∨ s.tick < l.slewAt then { s with tick := s.tick + 1 }
  else if 0 < l.slew then
    { s with tick := s.tick + 2, life := { l with slew := l.slew - 1, slewAt := s.tick + 10000 } }
  else { s with life := { l with slew := l.slew + 1, slewAt := s.tick + 10000 } }

/-- The dies slew their copies of the time base towards the Colxis copy, by the same rule (16 R452).
(Log: DEDUCED, unsafe, entry 117.) -/
def State.slewDies (s : State) : State :=
  { s with life := (List.finRange 9).foldl (fun (l : Life) (k : Fin 9) =>
    let x : Int := l.dieOffsets[k]
    if x = 0 ∨ s.tick < l.dieSlewAt[k] then l
    else { l with
      dieOffsets := l.dieOffsets.set k (if 0 < x then x - 1 else x + 1), dieSlewAt := l.dieSlewAt.set k (s.tick + 10000) }) s.life }

/-- A tick passes, while VAUX is good: a boot goes on, and a partition whose trace records were dropped says so once tokens
have returned (15 R439).
(Log: DESIGN CHOICE, unsafe, entry 2; DESIGN CHOICE, unsafe, entry 5; DEDUCED, unsafe, entry 112.) -/
def idle (s : State) : State :=
  if s.power.vaux then (List.finRange 4).foldl State.retryDropped s.timeTick.slewDies.bootTick else s

end Sys2Proof.Machine
end

