-- ==== Sys2Proof/Machine/Step.lean ====
section
/-! DEFINITION. One step of the block: the command at the front of the queue, or the idle tick. -/

namespace Sys2Proof.Machine

/-- Take the command at the front of the queue and execute it with the queue's rest; on an empty queue the time base
advances (DESIGN CHOICE, assumption 2).
(Log: DESIGN CHOICE, safe, entry 1; DESIGN CHOICE, unsafe, entry 2; DESIGN CHOICE, safe, entry 3.) -/
def step (s : State) : Host.Outcome State Fault Refusal :=
  match s.pending with
  | [] => .next (idle s)
  | c :: r => exec c { s with pending := r }

/-- `s` with the command a table word spells at the front of its queue: no row has bits, so `s`.
(Log: DESIGN CHOICE, safe, entry 3.) -/
def State.withFetchWord (s : State) (nbits w : Nat) : State :=
  match decodeTableWord nbits w with
  | none => s
  | some c => { s with pending := c :: s.pending }

end Sys2Proof.Machine
end

