-- ==== Sys2Proof/Safety.lean ====
section
/-! DEFINITION. What counts as a good run, in the terms the statements use: a step that completes, memories in their
canonical form, the package level that R291 fixes, and where a command stands in its queue. -/

namespace Sys2Proof

/-- The rows that can reset the block, take its supply away or set what a boot finds. -/
def Instr.resets : Instr → Bool
  | .thermalSensorRead _ _ _ | .coolantSensorRead _ _ | .vauxGood | .vauxLoss | .vinMainLoss | .perstNAssert | .coldBoot _ => true
  | _ => false

/-- An event that a row of the block cannot be: its operand has not the form that the row's rule delivers. -/
def Instr.malformed : Instr → Bool
  | .seamFlitReceive _ _ f => decide (f.payload.length ≠ 248)
  | .linkFrameReceive _ f => decide (f.body.length ≠ 244)
  | .packetReceive _ pkt | .packetForward _ pkt | .circuitPacket _ pkt | .circuitSetup _ pkt => !pkt.wf
  | .ackReceive pkt => !pkt.wf
  | _ => false

end Sys2Proof

namespace Sys2Proof.Machine

/-- The canonical form of a memory: addresses strictly rising, and no entry equal to what an unlisted address reads as. -/
abbrev Memory.wf (m : SMap Byte) : Prop := swf 0 m = true

/-- Host memory and device memory are in canonical form. -/
def State.memoriesWf (s : State) : Prop := Memory.wf s.host ∧ Memory.wf s.mem.bytes

/-- LEVEL of a die's word in SEAM_DIE_INFO (10 Table 10.12). -/
def dieLevel (w : W32) : Nat := fld w.toNat 16 8

/-- The package level is the lowest level of its nine dies (10 R291). -/
def State.levelsAgree (s : State) : Prop := s.packageLevel.toNat = (s.dieInfo.toList.map dieLevel).foldl min 255

/-- An outcome that is a next state: no fault and no refusal. -/
def Completes (o : Host.Outcome State Fault Refusal) : Prop := ∃ t, o = .next t

/-- The command `e` of kind `kind`, waiting at the head of queue `q` and not looked at before, is free to be taken up: its
queue is ENABLED, no Halt-Peg holds it, its wait is satisfied and so is its fence (02 R37, R39). -/
structure AtHead (s : State) (p : Fin 4) (q kind : Nat) (e : Entry) : Prop where
  head : ((s.part p).queue q).headEntry = some e
  named : s.entry { p := p, q := q, n := e.n } = some e
  waiting : e.phase = .waiting
  fresh : e.accepted = false ∧ e.refused = false ∧ e.replayed = false ∧ e.owed = []
  enabled : s.queueOpen p q = true
  wait : (s.part p).waitOk e.cmd = true
  fence : ((s.part p).queue q).fenceOk e = true
  ofKind : cmdKind e.cmd = kind
  allowed : kindAllowed kind q = true
  header : headerOk e.cmd q = true

/-- The command `e`, whatever its kind, waiting at the head of queue `q` and not looked at before, is free to be taken up. -/
structure IsHead (s : State) (p : Fin 4) (q : Nat) (e : Entry) : Prop where
  head : ((s.part p).queue q).headEntry = some e
  named : s.entry { p := p, q := q, n := e.n } = some e
  waiting : e.phase = .waiting
  fresh : e.accepted = false ∧ e.refused = false ∧ e.replayed = false ∧ e.owed = []
  enabled : s.queueOpen p q = true
  wait : (s.part p).waitOk e.cmd = true
  fence : ((s.part p).queue q).fenceOk e = true

/-- The name of a command in a queue. -/
def Entry.cid (e : Entry) (p : Fin 4) (q : Nat) : Cid := { p := p, q := q, n := e.n }

/-- A thread that is ready to perform an operation of the opcode: its command, sweep, itself and the operation's bytes. -/
def Ready (s : State) (i : Tid) (opcode : Nat) (x : Running) : Prop := s.running i opcode = some x

/-- A sync counter as a restore leaves it: the cut's value, raised by each remote signal received since (02 R75; 13 R369). -/
def Part.counterAtCut (P : Part) (k : Nat) : W32 :=
  ((P.remoteSets.filter (fun r => r.2.1 == k)).map (·.2.2)).foldr (fun v x => maxW x v) (sget 0 P.base.counters k)

/-- What a list of writes in order, each of bytes to a virtual address, leaves at device address `a` through the pages
`xs`: the last byte stored there, and none where nothing is stored. -/
def storedByte (xs : List Xlat) (l : List (Int × Bytes)) (a : Nat) : Option Byte :=
  (l.flatMap (fun x => pieces (x.2.length / 65536 + 2) x.1.toNat x.2)).foldl (fun (o : Option Byte) (pc : Piece) =>
    match locate xs pc.va with
    | some (false, base) => if base ≤ a ∧ a < base + pc.bytes.length then pc.bytes[a - base]? else o
    | _ => o) none

/-- Partition `p` writes no trace: its mode, in force and as written, is not Tracing (15 R431). -/
def Part.quietMode (P : Part) : Prop := fld P.obsCfg.toNat 0 2 ≠ 2 ∧ P.obsMode ≠ 2

/-- No Peg match is armed, so that nothing a row counts takes a Peg (15 Table 15.21). -/
def State.unarmed (s : State) : Prop := bit s.obs.pegMatch.toNat 29 = false

/-- A thread that has counted k more occurrences under a key, for a rebuild to count again (15 R429). -/
def Thread.counting (h : Thread) (key k : Nat) : Thread := { h with events := sset 0 h.events key (sget 0 h.events key + k) }

/-- Two packets are the same but for what a hop rewrites: PFLAGS, and the stamps of a TIME_SYNC. -/
def SamePacket (x y : Packet) : Prop :=
  x.circuit = y.circuit ∧ (y.header ≠ [] → x.kind = y.kind) ∧ x.header.drop 2 = y.header.drop 2 ∧ x.payload.drop 8 = y.payload.drop 8 ∧
    (y.kind ≠ 0x11 → x.payload = y.payload ∧ x.trailer = y.trailer)

/-- A packet goes out by a port: it has left since, or it is the last that waits there for a frame slot. -/
def Leaves (s t : State) (o : Nat) (pkt : Packet) : Prop :=
  (∃ x, (t.port o).egress.getLast? = some x ∧ SamePacket x pkt) ∨
    ∃ l x, t.out = l ++ s.out ∧ Out.packet o x ∈ l ∧ SamePacket x pkt

/-- A packet of a kind goes out by a port. -/
def Sends (s t : State) (o kind : Nat) : Prop := ∃ pkt, pkt.kind = kind ∧ Leaves s t o pkt

/-- Nothing new is sent: what has left since are frames of port `i` and packets that waited there. -/
def OnlyQueued (s t : State) (i : Nat) : Prop :=
  ∃ l, t.out = l ++ s.out ∧ ∀ y ∈ l, (∃ f, y = Out.frame i f) ∨ ∃ x ∈ (s.port i).egress, ∃ z, y = Out.packet i z ∧ SamePacket z x

/-- A frame leaves by port `i` whose header acknowledges, with the number that the receiver expects, and asks for a resend if
it has to. -/
def Acknowledges (s t : State) (i seq : Nat) (resend : Bool) : Prop :=
  ∃ l f, t.out = l ++ s.out ∧ Out.frame i f ∈ l ∧ bit f.header.toNat 48 = true ∧ fld f.header.toNat 32 16 = seq ∧
    (resend = true → bit f.header.toNat 49 = true)

/-- The packet that a flow of partition `a.p` expects, from an admitted source and for an open window: what its receive
entry `r` is then (11 R313, Table 11.8). -/
structure Expected (s : State) (a : Arrival) (pkt : Packet) (r : RecvEntry) : Prop where
  entry : r = RecvEntry.of (s.flowEntry a.p (recvOffset a.flow))
  trailer : pkt.trailerOk = true
  used : r.used = true
  gen : r.gen = pkt.gen
  seq : r.expected = pkt.seq
  enabled : (s.part a.p).flowEnable = true
  admitted : (s.part a.p).recvPerm.getLsbD a.src = true
  window : (s.part a.p).windowOk a pkt = true

/-- A packet as its port hands it on: of an encrypted hop, without KEY_SLOT. -/
def State.taken (s : State) (i : Fin 32) (pkt : Packet) : Packet := if (s.port i).encrypted then pkt.setFlag 1 false else pkt

/-- A packet comes in by a port: the port is UP and reachable, and the packet authentic where the hop is encrypted. -/
structure ComesIn (s : State) (i : Fin 32) (pkt : Packet) : Prop where
  wf : pkt.wf = true
  up : s.portUp i = true
  authentic : (s.port i).encrypted = true → pkt.authentic = true
  notLooped : pkt ∉ s.fab.loop

end Sys2Proof.Machine
end

