-- ==== Sys2Proof/Certificates/Slice0/Obligations.lean ====
section
/-! DEFINITION. The statements about the block for the provers. Each docstring names the rules of the manual it says. -/

open Sys2Proof Sys2Proof.Machine

/-! ### The step and the invariants it keeps -/

/-- A step takes the command at the front of the queue and executes it on the state with the queue's rest. -/
def Obligations.StepRunsFront : Prop :=
  ∀ (s : State) (c : Instr) (r : List Instr), step { s with pending := c :: r } = exec c { s with pending := r }

/-- What a cold reset leaves (14 Table 14.21 and the reset columns of the registers' tables): no partition is enabled,
no queue and no group exists, epoch 1 is open, the ports are DISABLED with ENABLE 1, the tables of the fabric are zero,
the package is not ready, and both memories list nothing. The invariants below hold after reset. Some of it is the model's choice:
host memory that lists nothing (log entry 14: a cold reset keeps host memory), device memory that reads as zeros before its
training (log entry 15), the port controls with MEDIUM 0 of a package whose ports no boot has configured (log entry 16), and
levels and steppings of 0 before the first boot (log entries 19 and 20). -/
def Obligations.ResetState : Prop :=
  ((∀ p, (State.reset.part p).state = .disabled ∧ (State.reset.part p).openEpoch = 1 ∧
    (∀ q, ((State.reset.part p).queue q).state = .disabled) ∧ (∀ g, ((State.reset.part p).group g).created = false) ∧
    (∀ k, (State.reset.part p).counter k = 0) ∧ (State.reset.part p).streamPriority = 0xE1) ∧
  (∀ i : Fin 32, (State.reset.port i).state = .disabled ∧ (State.reset.port i).ctrl = 1) ∧
  (∀ d v, State.reset.fab.route d v = none) ∧ State.reset.fab.cfg = 0x140000 ∧
  State.reset.life.deviceReady = false ∧ State.reset.power.effective = 1 ∧
  State.reset.host = [] ∧ State.reset.mem.bytes = [] ∧ State.reset.pending = [])
  ∧ (State.reset.memoriesWf ∧ State.reset.levelsAgree)

/-- Every step keeps host memory and device memory in canonical form, from every state that has it. -/
def Obligations.StepKeepsMemoriesWf : Prop :=
  ∀ s t : State, s.memoriesWf → step s = .next t → t.memoriesWf

/-- Every step keeps the package level at the lowest level of the nine dies (10 R291). -/
def Obligations.StepKeepsPackageLevel : Prop :=
  ∀ s t : State, s.levelsAgree → step s = .next t → t.levelsAgree

/-- No command changes the queue of waiting commands: only a step takes from it. Time never goes back (00 R5): but for
the two rows that power the time base down or up, a command leaves the tick where it was or later. The rollback counter
only rises (16 R467): no command lowers it, not even a cold reset or the loss of VAUX. With no command waiting, a step
is one tick of the time base (00 R5) while VAUX is good, the model's choice (log entry 2): when no boot is in progress,
no die slews its copy and no DROPPED record is due, nothing else changes. A package that slews (16 R453) then adds one
extra count or holds its count, and not again within 10,000 ticks. -/
def Obligations.StepsKeepOrder : Prop :=
  (∀ (c : Instr) (s t : State), exec c s = .next t → t.pending = s.pending)
  ∧ (∀ (c : Instr) (s t : State), c ≠ .vauxGood → c ≠ .vauxLoss → exec c s = .next t → s.tick ≤ t.tick)
  ∧ (∀ (c : Instr) (s t : State), exec c s = .next t → s.life.rollbackCounter ≤ t.life.rollbackCounter)
  ∧ (∀ s : State, s.pending = [] →
    (s.power.vaux = false → step s = .next s) ∧
    (s.power.vaux = true → s.life.found = none → (∀ k : Fin 9, s.life.dieOffsets[k] = 0) → (∀ p, (s.part p).traceDrops = 0) →
      (s.life.slew = 0 ∨ s.life.syncEnable = false ∨ s.tick < s.life.slewAt → step s = .next { s with tick := s.tick + 1 }) ∧
      (0 < s.life.slew → s.life.syncEnable = true → s.life.slewAt ≤ s.tick →
        step s = .next { s with tick := s.tick + 2, life := { s.life with slew := s.life.slew - 1, slewAt := s.tick + 10000 } }) ∧
      (s.life.slew < 0 → s.life.syncEnable = true → s.life.slewAt ≤ s.tick →
        step s = .next { s with life := { s.life with slew := s.life.slew + 1, slewAt := s.tick + 10000 } })))

/-! ### Commands that execute whole at their start (02 R37, R39, R61, R62) -/

/-- MARKER and SIGNAL (02 R37, R39, R61): at the head of its queue with its wait and fence satisfied, a well-formed
command is accepted, starts now and is done; no counter moves before it finishes. In a partition that does not trace,
its start touches nothing outside its partition. SIGNAL to an endpoint that the partition's fabric permissions do not
allow completes as ISOLATION_FAULT, and nothing is sent (02 R61). -/
def Obligations.MarkerAndSignal : Prop :=
  ((∀ (s : State) (p : Fin 4) (q : Nat) (e : Entry), AtHead (s.arrive p q) p q 0x07 e → zeroAt e.cmd 0x20 96 = true →
    ∃ t x, exec (.marker p q) s = .next t ∧ t.entry (e.cid p q) = some x ∧ x.phase = .executed ∧ x.accepted = true ∧
      x.startTick = s.tick ∧ x.status = e.status ∧ x.cmd = e.cmd ∧
      (∀ r k, (t.part r).counter k = (s.part r).counter k) ∧
      (fld (s.part p).obsCfg.toNat 0 2 ≠ 2 → t.mem = s.mem ∧ t.host = s.host ∧ t.ports = s.ports ∧ t.out = s.out)) ∧
  (∀ (s : State) (p : Fin 4) (q : Nat) (e : Entry), AtHead (s.arrive p q) p q 0x06 e → signalFieldsOk e.cmd = true →
    (signalRemote e.cmd = true → (s.part p).flowEnable = true ∧ (s.part p).maySend (at_ e.cmd 0x20 2) = true) →
    ∃ t x, exec (.signal p q) s = .next t ∧ t.entry (e.cid p q) = some x ∧ x.phase = .executed ∧ x.accepted = true ∧
      x.startTick = s.tick ∧ x.status = e.status ∧ x.cmd = e.cmd ∧
      (∀ r k, (t.part r).counter k = (s.part r).counter k) ∧
      (fld (s.part p).obsCfg.toNat 0 2 ≠ 2 → t.mem = s.mem ∧ t.host = s.host ∧ t.ports = s.ports ∧ t.out = s.out)))
  ∧ (∀ (s : State) (p : Fin 4) (q : Nat) (e : Entry), AtHead (s.arrive p q) p q 0x06 e → signalFieldsOk e.cmd = true →
    signalRemote e.cmd = true → ((s.part p).flowEnable = false ∨ (s.part p).maySend (at_ e.cmd 0x20 2) = false) →
    ∃ t x, exec (.signal p q) s = .next t ∧ t.entry (e.cid p q) = some x ∧ x.phase = .finished ∧ x.status = .isolation ∧
      t.out = s.out ∧ t.ports = s.ports)

/-- COUNTER_WRITE (02 R62) sets COUNT consecutive counters of its partition, from FIRST, to VALUE, whatever they held,
and no other counter; a range that passes counter 65,535 completes as INVALID_COMMAND and sets none. -/
def Obligations.CounterWriteSetsItsRange : Prop :=
  ∀ (s : State) (p : Fin 4) (e : Entry), AtHead s p 0 0x10 e → zeroAt e.cmd 0x28 88 = true →
    (at_ e.cmd 0x20 2 + at_ e.cmd 0x22 2 ≤ 65535 →
      ∃ t x, exec (.counterWrite p) s = .next t ∧ t.entry (e.cid p 0) = some x ∧ x.phase = .executed ∧
        ∀ r k, (t.part r).counter k =
          if r = p ∧ at_ e.cmd 0x20 2 ≤ k ∧ k < at_ e.cmd 0x20 2 + (at_ e.cmd 0x22 2 + 1) then
            BitVec.ofNat 32 (at_ e.cmd 0x24 4)
          else (s.part r).counter k) ∧
    (65535 < at_ e.cmd 0x20 2 + at_ e.cmd 0x22 2 →
      ∃ t x, exec (.counterWrite p) s = .next t ∧ t.entry (e.cid p 0) = some x ∧ x.phase = .finished ∧ x.status = .invalid ∧
        ∀ r k, (t.part r).counter k = (s.part r).counter k)

/-! ### Sync counters and the synchronisation of threads (02 R50 to R58) -/

/-- The counter operations (02 R57): wait is satisfied while the counter is at least the value, unsigned; add saturates
at 0xFFFF_FFFF; set is the larger of the two; each leaves every other counter alone. Adds to one counter give the same
value in either order, and so do sets. -/
def Obligations.CounterOperations : Prop :=
  ∀ (P : Part) (c : Nat) (v : W32),
    (P.satisfied c v = true ↔ v.toNat ≤ (P.counter c).toNat) ∧
    ((P.counterAdd c v).counter c).toNat = min ((P.counter c).toNat + v.toNat) 0xFFFFFFFF ∧
    ((P.counterSet c v).counter c).toNat = max (P.counter c).toNat v.toNat ∧
    (∀ d, d ≠ c → (P.counterAdd c v).counter d = P.counter d ∧ (P.counterSet c v).counter d = P.counter d) ∧
    (∀ w, ((P.counterAdd c v).counterAdd c w).counter c = ((P.counterAdd c w).counterAdd c v).counter c ∧
      ((P.counterSet c v).counterSet c w).counter c = ((P.counterSet c w).counterSet c v).counter c)

/-- WAIT (02 R53): with the counter at least VALUE the thread goes on to its next operation; otherwise it stays resident
with all it holds, and issues nothing. WAIT_SATISFIED (02 R53): a waiting thread whose counter has reached VALUE goes on
to its next operation. -/
def Obligations.WaitHoldsAndReleases : Prop :=
  (∀ (s : State) (i : Tid) (x : Running), s.running i 0x40 = some x →
    (((s.part i.cid.p).satisfied (syncCounter x.e.cmd x.op x.h.t) (syncValue x.op) = true →
      ∃ t, exec (.wait i) s = .next t ∧ t.threadOf i = some { x.h with op := x.h.op + 1, wait := .ready } ∧
        (∀ p k, (t.part p).counter k = (s.part p).counter k) ∧ t.mem = s.mem ∧ t.host = s.host) ∧
    ((s.part i.cid.p).satisfied (syncCounter x.e.cmd x.op x.h.t) (syncValue x.op) = false →
      ∃ t, exec (.wait i) s = .next t ∧ t.threadOf i = some { x.h with wait := .waiting } ∧
        (∀ opcode, t.running i opcode = none) ∧
        (∀ p k, (t.part p).counter k = (s.part p).counter k) ∧ t.mem = s.mem ∧ t.host = s.host)))
  ∧ (∀ (s : State) (i : Tid) (x : Running), s.runningOr i 0x40 .waiting = some x → x.h.wait = .waiting →
    (s.part i.cid.p).satisfied (syncCounter x.e.cmd x.op x.h.t) (syncValue x.op) = true →
    ∃ t, exec (.waitSatisfied i) s = .next t ∧ t.threadOf i = some { x.h with op := x.h.op + 1, wait := .ready } ∧
      (∀ p k, (t.part p).counter k = (s.part p).counter k) ∧ t.mem = s.mem ∧ t.host = s.host)

/-- SIGNAL_ADD and SIGNAL_SET (02 R57 to R59): the counter of the thread's coordinates takes the saturating sum, or the
larger value, as the operation retires; no other counter moves; an add that saturates marks the command's record. -/
def Obligations.ThreadSignalsApply : Prop :=
  ∀ (s : State) (i : Tid) (x : Running),
    (s.running i 0x41 = some x →
      ∃ t, exec (.signalAdd i) s = .next t ∧ t.threadOf i = some { x.h with op := x.h.op + 1, wait := .ready } ∧
        ((t.part i.cid.p).counter (syncCounter x.e.cmd x.op x.h.t)).toNat =
          min (((s.part i.cid.p).counter (syncCounter x.e.cmd x.op x.h.t)).toNat + (syncValue x.op).toNat) 0xFFFFFFFF ∧
        (0xFFFFFFFF < ((s.part i.cid.p).counter (syncCounter x.e.cmd x.op x.h.t)).toNat + (syncValue x.op).toNat →
          ∃ e, t.entry i.cid = some e ∧ e.counterSat = true) ∧
        (∀ p k, (p ≠ i.cid.p ∨ k ≠ syncCounter x.e.cmd x.op x.h.t) → (t.part p).counter k = (s.part p).counter k) ∧
        t.mem = s.mem ∧ t.host = s.host) ∧
    (s.running i 0x42 = some x →
      ∃ t, exec (.signalSet i) s = .next t ∧ t.threadOf i = some { x.h with op := x.h.op + 1, wait := .ready } ∧
        ((t.part i.cid.p).counter (syncCounter x.e.cmd x.op x.h.t)).toNat =
          max ((s.part i.cid.p).counter (syncCounter x.e.cmd x.op x.h.t)).toNat (syncValue x.op).toNat ∧
        (∀ p k, (p ≠ i.cid.p ∨ k ≠ syncCounter x.e.cmd x.op x.h.t) → (t.part p).counter k = (s.part p).counter k) ∧
        t.mem = s.mem ∧ t.host = s.host)

/-- BARRIER (02 R54): a thread that arrives before the last stays at the barrier; with the last arrival every thread of
the sweep goes on to its next operation. THREAD_RETIRE (02 R50): a ready thread past its last operation leaves its core
and counts as retired; every other thread of its sweep stays as it was. -/
def Obligations.BarrierAndRetire : Prop :=
  (∀ (s : State) (i : Tid) (x : Running), s.running i 0x43 = some x →
    ((x.w.modThread i.t (fun h => { h with wait := .arrived })).allArrived x.e.cmd x.h.op = false →
      ∃ t, exec (.barrier i) s = .next t ∧ t.threadOf i = some { x.h with wait := .arrived } ∧ t.mem = s.mem) ∧
    ((x.w.modThread i.t (fun h => { h with wait := .arrived })).allArrived x.e.cmd x.h.op = true →
      ∃ t e w, exec (.barrier i) s = .next t ∧ t.entry i.cid = some e ∧ e.sweep = some w ∧
        w.threads.length = gridSize x.e.cmd ∧ (∀ h ∈ w.threads, h.op = x.h.op + 1 ∧ h.wait = .ready) ∧ t.mem = s.mem))
  ∧ (∀ (s : State) (i : Tid) (e : Entry) (w : Sweep) (h : Thread), s.entry i.cid = some e → e.phase = .running →
    e.sweep = some w → w.thread i.t = some h → h.wait = .ready → opCount w.prog ≤ h.op →
    ∃ t e' w', exec (.threadRetire i) s = .next t ∧ t.entry i.cid = some e' ∧ e'.sweep = some w' ∧
      w'.threads = w.threads.filter (fun x => x.t != i.t) ∧ w'.retired = w.retired ++ [i.t] ∧ w'.placed = w.placed ∧
      e'.phase = .running ∧ (∀ p k, (t.part p).counter k = (s.part p).counter k))

/-! ### SWEEP and the dispatcher (02 R39, R63 to R66) -/

/-- SWEEP (02 R39, R41): a sweep at the head of its queue that passes its checks is accepted: it keeps its program, its
argument slots, its core list, its translations and what it reads, whatever the dispatcher then places. One that fails a
check completes with the check's status and has executed nothing. -/
def Obligations.SweepIsAccepted : Prop :=
  ∀ (s : State) (p : Fin 4) (q : Nat) (e : Entry), AtHead (s.arrive p q) p q 0x01 e →
    (∀ xs rs w, (s.arrive p q).sweepCheck p q e = .ok (xs, rs, w) → (s.arrive p q).walkPoison p rs = none →
      (s.arrive p q).poisonReads xs (sweepTables e w) = none →
      ∃ t x w', exec (.sweep p q) s = .next t ∧ t.entry (e.cid p q) = some x ∧ x.accepted = true ∧ x.cmd = e.cmd ∧
        x.xlats = xs ∧ x.reads = readRanges rs ∧ x.sweep = some w' ∧ w'.prog = w.prog ∧ w'.slots = w.slots ∧
        w'.coreList = w.coreList ∧ (∀ r k, (t.part r).counter k = (s.part r).counter k)) ∧
    (∀ st, (s.arrive p q).sweepCheck p q e = .error st →
      ∃ t x, exec (.sweep p q) s = .next t ∧ t.entry (e.cid p q) = some x ∧ x.phase = .finished ∧ x.status = st ∧
        x.endTick = s.tick ∧ t.mem = s.mem ∧ t.host = s.host)

/-- PLACE_NEXT (02 R66): on a core that no partition has present nothing happens. On a core of one partition, when the
dispatcher chooses a sweep that has already started, at least one more thread is placed, no counter moves, and every
command goes on running that was. The choice of place_next (02 R66): it is a head that is a candidate on the core;
nothing is chosen only when there is no candidate; no candidate whose stream is below its MIN is passed over for one
that is not; and among those considered no stream of a better rank is passed over. -/
def Obligations.PlacementAndChoice : Prop :=
  ((∀ (s : State) (c : Nat), (∀ p, s.present p c = false) → exec (.placeNext c) s = .next s) ∧
  (∀ (s : State) (c : Nat) (p : Fin 4) (h : SweepHead), s.present p c = true → (∀ r, r ≠ p → s.present r c = false) →
    (((s.heads p).map SweepHead.group).eraseDups.foldl (fun s' g => s'.nextPhase p (s.heads p) g) s).choose p (s.heads p) c = some h →
    h.e.phase = .running →
    ∃ t, exec (.placeNext c) s = .next t ∧ s.cores.placed < t.cores.placed ∧
      (∀ r k, (t.part r).counter k = (s.part r).counter k) ∧
      (∀ i e, s.entry i = some e → e.phase ≠ .waiting → ∃ x, t.entry i = some x ∧ x.phase ≠ .waiting ∧ x.cmd = e.cmd)))
  ∧ (∀ (s : State) (p : Fin 4) (hs : List SweepHead) (c : Nat),
    (s.choose p hs c = none ↔ ∀ h ∈ hs, s.candidate p hs c h = false) ∧
    (∀ h, s.choose p hs c = some h →
      h ∈ hs ∧ s.candidate p hs c h = true ∧
      (∀ k ∈ hs, s.candidate p hs c k = true → (s.part p).streamOn c k.stream < (s.part p).shareMin k.stream * 64 →
        (s.part p).streamOn c h.stream < (s.part p).shareMin h.stream * 64 ∧ (s.part p).rank h.stream ≤ (s.part p).rank k.stream) ∧
      ((s.part p).shareMin h.stream * 64 ≤ (s.part p).streamOn c h.stream →
        ∀ k ∈ hs, s.candidate p hs c k = true → (s.part p).rank h.stream ≤ (s.part p).rank k.stream)))

/-! ### COPY, PRESS, COLLECTIVE and PLAN_SWITCH -/

/-- COPY (08 R226, R230; 02 R39, R67), in a partition that does not trace. A copy that could start waits while one of a
better stream, or of the next group, could start too. Otherwise: a copy that reaches no host page is accepted and
performed: each byte of device memory then holds the last byte that the moves store there, and any other byte is
unchanged; where its in-place writes do not all find free shadow blocks, it stalls, and is done only if nothing is left to write
(13 R364). A copy that reaches host pages starts here and makes its moves at its finish: the model's choice (log entry 8). One
that fails a check completes with the check's status and writes nothing. -/
def Obligations.CopyExecutes : Prop :=
  ∀ (s : State) (p : Fin 4) (q : Nat) (e : Entry), AtHead s p q 0x02 e → (s.part p).quietMode →
    (s.outranked p .copy (fun e => decide (cmdKind e.cmd = 0x02)) q = true → exec (.copy p q) s = .next s) ∧
    (s.outranked p .copy (fun e => decide (cmdKind e.cmd = 0x02)) q = false →
    (∀ xs rs, s.copyCheck p e = .ok (xs, rs) → s.walkPoison p rs = none → (∀ x ∈ xs, x.host = false) → copyFabric e.cmd = false →
      s.poisonReads xs (s.copyReads { e with xlats := xs }) = none →
      ((s.accepted (e.cid p q) xs rs).begin (e.cid p q)).dueRoom { p := p, q := q, n := e.n, reads := readRanges rs, always := false, thread := none, own := [] }
        xs (copyDue e.cmd (s.copyMoves { e with xlats := xs })) = true →
      ∃ t x, exec (.copy p q) s = .next t ∧ t.entry (e.cid p q) = some x ∧ x.phase = .executed ∧ x.accepted = true ∧
        x.startTick = s.tick ∧ x.detail = BitVec.ofNat 32 (s.copyMoves { e with xlats := xs }).detail ∧
        (∀ a, t.mem.byte a = (storedByte xs ((s.copyMoves { e with xlats := xs }).dst ++ (s.copyMoves { e with xlats := xs }).aux) a).getD (s.mem.byte a)) ∧
        t.host = s.host ∧ (∀ r k, (t.part r).counter k = (s.part r).counter k)) ∧
    (∀ xs rs, s.copyCheck p e = .ok (xs, rs) → s.walkPoison p rs = none → (∀ x ∈ xs, x.host = false) → copyFabric e.cmd = false →
      s.poisonReads xs (s.copyReads { e with xlats := xs }) = none →
      ((s.accepted (e.cid p q) xs rs).begin (e.cid p q)).dueRoom { p := p, q := q, n := e.n, reads := readRanges rs, always := false, thread := none, own := [] }
        xs (copyDue e.cmd (s.copyMoves { e with xlats := xs })) = false →
      ∃ t x, exec (.copy p q) s = .next t ∧ t.entry (e.cid p q) = some x ∧ x.accepted = true ∧ x.startTick = s.tick ∧
        .command (e.cid p q) ∈ (t.part p).stalls ∧ (x.phase = .executed ∨ x.phase = .running) ∧ (x.phase = .executed ↔ x.owed = []) ∧
        t.host = s.host ∧ (∀ r k, (t.part r).counter k = (s.part r).counter k)) ∧
    (∀ xs rs, s.copyCheck p e = .ok (xs, rs) → s.walkPoison p rs = none → (∃ x ∈ xs, x.host = true) →
      ∃ t x, exec (.copy p q) s = .next t ∧ t.entry (e.cid p q) = some x ∧ x.phase = .running ∧ x.xlats = xs ∧
        x.startTick = s.tick ∧ t.mem = s.mem ∧ t.host = s.host) ∧
    (∀ st, s.copyCheck p e = .error st →
      ∃ t x, exec (.copy p q) s = .next t ∧ t.entry (e.cid p q) = some x ∧ x.phase = .finished ∧ x.status = st ∧
        t.mem = s.mem ∧ t.host = s.host))

/-- PRESS (08 R239, R241): a well-formed command is accepted; with five commands already at its Press unit (one running,
four in the input queue) it holds the head of its queue; otherwise it starts; and when the unit is idle it is performed
at once, or waits for a free shadow block. COLLECTIVE (12 R341, R350 to R352): a well-formed command is accepted. When
it is uniform, or its plan is ACTIVE or in FAULT, it starts now; when its plan is EMPTY it completes as NOT_READY; when
its plan is only READY it waits at the head. One that could start waits while a command of a better stream, or of the
next group, could start too (02 R67). -/
def Obligations.PressAndCollectiveStart : Prop :=
  (∀ (s : State) (p : Fin 4) (q : Nat) (e : Entry) (xs : List Xlat) (rs : List Rng) (d : Bytes), AtHead s p q 0x05 e →
    s.pressCheck p e = .ok (xs, rs, d) → s.walkPoison p rs = none → s.poisonReads xs [(at_ e.cmd 0x30 8, 128)] = none →
    ∃ t x, exec (.press p q) s = .next t ∧ t.entry (e.cid p q) = some x ∧ x.accepted = true ∧ x.cmd = e.cmd ∧ x.xlats = xs ∧
      (5 ≤ (s.mem.pressQueue.filter (fun y => y.1 == (({ cmd := e.cmd, d := d.take 128, hyper := [], seed := 0 } : Press).stack xs).getD 0)).length →
        x.phase = .waiting ∧ t.mem = s.mem) ∧
      ((s.mem.pressQueue.filter (fun y => y.1 == (({ cmd := e.cmd, d := d.take 128, hyper := [], seed := 0 } : Press).stack xs).getD 0)).length < 5 →
        (x.phase = .running ∨ x.phase = .executed) ∧ x.startTick = s.tick) ∧
      (s.mem.pressQueue.filter (fun y => y.1 == (({ cmd := e.cmd, d := d.take 128, hyper := [], seed := 0 } : Press).stack xs).getD 0) = [] → s.mem.poison = [] →
        x.phase = .executed ∨ (t.part p).stalls.contains (.command (e.cid p q)) = true))
  ∧ (∀ (s : State) (p : Fin 4) (q : Nat) (e : Entry) (xs : List Xlat) (rs : List Rng) (k : Coll), AtHead s p q 0x03 e →
    s.collCheck p e = .ok (xs, rs, k) → s.walkPoison p rs = none → s.poisonReads xs (readRanges (coTables e.cmd)) = none →
    (s.outranked p .collective s.fab.collReady q = true → exec (.collective p q) s = .next s) ∧
    (s.outranked p .collective s.fab.collReady q = false →
    ∃ t x, exec (.collective p q) s = .next t ∧ t.entry (e.cid p q) = some x ∧ x.accepted = true ∧ x.cmd = e.cmd ∧
      (coUniform e.cmd = true ∨ s.fab.plan (coPlan e.cmd) = .active ∨ s.fab.plan (coPlan e.cmd) = .fault →
        (x.phase = .running ∨ x.phase = .executed) ∧ x.startTick = s.tick ∧ ∃ k', x.coll = some k' ∧ k'.ranks = k.ranks ∧
          k'.counts = k.counts) ∧
      (coUniform e.cmd = false → s.fab.plan (coPlan e.cmd) = .empty → x.phase = .finished ∧ x.status = .notReady) ∧
      (coUniform e.cmd = false → s.fab.plan (coPlan e.cmd) = .ready → x.phase = .waiting ∧ x.coll = some k)))

/-- PLAN_SWITCH (12 R353, 11 R328), where no command of a better stream or of the next group could start (02 R67): with
no circuit collective of the partition still sending, the named READY plan of the partition becomes ACTIVE, the plan
that was ACTIVE becomes READY, and DETAIL holds that plan's number, 16 for none. Of another partition's plan it is an
ISOLATION_FAULT, of a plan not READY a NOT_READY, and neither changes any plan. -/
def Obligations.PlanSwitchSwitches : Prop :=
  ∀ (s : State) (p : Fin 4) (q : Nat) (e : Entry), AtHead s p q 0x04 e →
    (∀ x ∈ ((s.part p).queue q).entries, ¬(x.phase = .running ∧ cmdKind x.cmd = 0x04)) →
    at_ e.cmd 0x20 1 < 32 → zeroAt e.cmd 0x21 95 = true → s.outranked p .collective s.fab.collReady q = false →
    ((∀ n, psPlan e.cmd = some n → s.fab.owner n = p.val ∧ s.fab.plan n = .ready) → ((s.accepted (e.cid p q) [] []).begin (e.cid p q)).stillSending p = false →
      ∃ t x, exec (.planSwitch p q) s = .next t ∧ t.entry (e.cid p q) = some x ∧ x.phase = .executed ∧
        x.detail = BitVec.ofNat 32 (s.fab.activeCode p) ∧
        (∀ n, psPlan e.cmd = some n → t.fab.plan n = .active) ∧
        (∀ m, s.fab.activePlan p = some m → t.fab.plan m = .ready) ∧
        (∀ m, s.fab.activePlan p ≠ some m → psPlan e.cmd ≠ some m → t.fab.plan m = s.fab.plan m)) ∧
    (∀ n, psPlan e.cmd = some n → s.fab.owner n ≠ p.val →
      ∃ t x, exec (.planSwitch p q) s = .next t ∧ t.entry (e.cid p q) = some x ∧ x.phase = .finished ∧ x.status = .isolation ∧
        t.fab = s.fab) ∧
    (∀ n, psPlan e.cmd = some n → s.fab.owner n = p.val → s.fab.plan n ≠ .ready →
      ∃ t x, exec (.planSwitch p q) s = .next t ∧ t.entry (e.cid p q) = some x ∧ x.phase = .finished ∧ x.status = .notReady ∧
        t.fab = s.fab)

/-! ### Maintenance commands, refusals and the finish of a command -/

/-- A kind that Table 2.6 does not list, or that the queue does not take, and a header that fails its checks, complete
as INVALID_COMMAND when a command row looks at the head (02 R38, R39) and no command at the head of another queue comes
before it (R67); nothing else happens but the finish. -/
def Obligations.InvalidHeadersComplete : Prop :=
  ∀ (s : State) (p : Fin 4) (q : Nat) (e : Entry) (c : Instr), IsHead s p q e →
    (c = .copy p q ∧ (kindAllowed (cmdKind e.cmd) q = false ∨ (cmdKind e.cmd = 0x02 ∧ headerOk e.cmd q = false ∧
        s.outranked p .copy (fun e => decide (cmdKind e.cmd = 0x02)) q = false)) ∨
     c = .press p q ∧ (kindAllowed (cmdKind e.cmd) q = false ∨ (cmdKind e.cmd = 0x05 ∧ headerOk e.cmd q = false)) ∨
     c = .collective p q ∧ (kindAllowed (cmdKind e.cmd) q = false ∨ (cmdKind e.cmd = 0x03 ∧ headerOk e.cmd q = false ∧
        s.outranked p .collective s.fab.collReady q = false)) ∨
     q = 0 ∧ c = .counterWrite p ∧ (kindAllowed (cmdKind e.cmd) 0 = false ∨ (cmdKind e.cmd = 0x10 ∧ headerOk e.cmd 0 = false)) ∨
     q = 0 ∧ c = .selfTest p ∧ (kindAllowed (cmdKind e.cmd) 0 = false ∨ (cmdKind e.cmd = 0x11 ∧ headerOk e.cmd 0 = false)) ∨
     q = 0 ∧ c = .calibrate p ∧ (kindAllowed (cmdKind e.cmd) 0 = false ∨ (cmdKind e.cmd = 0x12 ∧ headerOk e.cmd 0 = false)) ∨
     q = 0 ∧ c = .peg p ∧ (kindAllowed (cmdKind e.cmd) 0 = false ∨ (cmdKind e.cmd = 0x13 ∧ headerOk e.cmd 0 = false)) ∨
     q = 0 ∧ c = .snapshot p ∧ (kindAllowed (cmdKind e.cmd) 0 = false ∨ (cmdKind e.cmd = 0x14 ∧ headerOk e.cmd 0 = false))) →
    ∃ t x, exec c s = .next t ∧ t.entry (e.cid p q) = some x ∧ x.phase = .finished ∧ x.status = .invalid ∧
      x.startTick = s.tick ∧ x.endTick = s.tick ∧ t.mem = s.mem ∧ t.host = s.host ∧ t.out = s.out ∧
      (∀ r k, (t.part r).counter k = (s.part r).counter k)

/-- SELF_TEST and CALIBRATE (16 R462, R463). Acceptance of a well-formed command sets its window; its target not being
ready, it waits at the head; a stack or port that is ready is calibrated and the command is done. A SELF_TEST accepted
earlier starts when its core is ready within its window: its logical core moves to a spare and the test runs in the background;
once the window has passed it completes as DEFERRED and its target stays as it is. -/
def Obligations.BackgroundWorkStarts : Prop :=
  (∀ (s : State) (p : Fin 4) (kind : Nat) (e : Entry) (xs : List Xlat) (rs : List Rng) (c : Instr),
    (kind = 0x11 ∧ c = .selfTest p ∨ kind = 0x12 ∧ c = .calibrate p) → AtHead s p 0 kind e →
    s.workCheck p kind e = .ok (xs, rs) → s.walkPoison p rs = none →
    ∃ t x b, exec c s = .next t ∧ t.entry (e.cid p 0) = some x ∧ x.accepted = true ∧ b ∈ t.cores.background ∧
      b.cid = some (e.cid p 0) ∧ b.cmdId = cmdId e.cmd ∧ b.target = at_ e.cmd 0x20 1 ∧ b.index = at_ e.cmd 0x22 2 ∧
      b.due = s.tick + at_ e.cmd 0x24 4 * 1000000 ∧
      (b.started = false → x.phase = .waiting ∧ t.mem = s.mem) ∧
      (b.started = true → kind = 0x12 ∧ x.phase = .executed ∧ x.startTick = s.tick ∧ b.start = s.tick) ∧
      (b.target = 3 → (b.started = true ↔ s.portUp b.index = true ∧ s.cores.calibrating 3 b.index = false))) ∧
  (∀ (s : State) (p : Fin 4) (e : Entry) (b : Background), ((s.part p).queue 0).headEntry = some e →
    s.entry (e.cid p 0) = some e → e.phase = .waiting → e.accepted = true → e.refused = false → e.replayed = false →
    s.queueOpen p 0 = true → cmdKind e.cmd = 0x11 →
    s.cores.background.find? (fun b => decide (b.cid = some (e.cid p 0)) && !b.started) = some b → b.target ≤ 1 →
    (b.due < s.tick →
      ∃ t x, exec (.selfTest p) s = .next t ∧ t.entry (e.cid p 0) = some x ∧ x.phase = .finished ∧ x.status = .deferred ∧
        t.cores.background = s.cores.background.erase b ∧ t.cores.phys b.index = s.cores.phys b.index) ∧
    (s.tick ≤ b.due → s.workReady b = true →
    ∃ t x b', exec (.selfTest p) s = .next t ∧ t.entry (e.cid p 0) = some x ∧ x.phase = .executed ∧ x.startTick = s.tick ∧
      b' ∈ t.cores.background ∧ b'.cid = some (e.cid p 0) ∧ b'.started = true ∧ b'.start = s.tick ∧
      b'.phys = s.cores.phys b.index ∧ t.cores.phys b.index = (s.cores.freeSpares (b.index / 320)).headD 0))

/-- PEG (15 R441, R442, R448): RESUME ends the halt of its partition alone; a trigger with no window open takes the next
id of the package, opens the window and fixes T, and the command runs until its Peg has captured; with a window open the
trigger is ignored and noted and the command is NOT_READY; fabric scope without the permission bit is an
ISOLATION_FAULT. SNAPSHOT (15 R432, R433): a command that passes its checks is done at the capture, 2,048 ticks after
its request, and DETAIL holds the snapshot's length, 128 bytes and 184 for each present core and 16 for each absent one;
the partition's count of snapshots goes up by one. That every scope takes the next id of the package is the model's reading (log
entry 109); that SNAPSHOT carries time to its capture is its choice (log entry 108). -/
def Obligations.PegAndSnapshotCommands : Prop :=
  (∀ (s : State) (p : Fin 4) (e : Entry), AtHead s p 0 0x13 e → pegFieldsOk e.cmd = true →
    (at_ e.cmd 0x20 1 = 4 →
      ∃ t x, exec (.peg p) s = .next t ∧ t.entry (e.cid p 0) = some x ∧ x.phase = .executed ∧
        t.obs.peg.halted.getLsbD p.val = false ∧ (∀ r : Fin 4, r ≠ p → t.obs.peg.halted.getLsbD r.val = s.obs.peg.halted.getLsbD r.val)) ∧
    (at_ e.cmd 0x20 1 < 4 → (bit (at_ e.cmd 0x20 1) 1 = true → bit s.obs.cfg.toNat (12 + p.val) = true) →
      (s.obs.peg.open_ = false →
        ∃ t x, exec (.peg p) s = .next t ∧ t.entry (e.cid p 0) = some x ∧ x.phase = .running ∧ x.startTick = s.tick ∧
          t.obs.peg.open_ = true ∧ t.obs.peg.id = s.obs.peg.lastId + 1 ∧ t.obs.peg.lastId = s.obs.peg.lastId + 1 ∧
          t.obs.peg.cause = some (e.cid p 0) ∧ t.obs.peg.captured = false ∧ t.obs.peg.halt = bit (at_ e.cmd 0x20 1) 0 ∧
          t.obs.peg.t = s.tick + (if bit (at_ e.cmd 0x20 1) 1 then 8192 else 2048) ∧
          t.obs.peg.closeAt = t.obs.peg.t + 1000000 ∧ x.detail = BitVec.ofNat 32 (s.obs.peg.lastId + 1).toNat) ∧
      (s.obs.peg.open_ = true →
        ∃ t x, exec (.peg p) s = .next t ∧ t.entry (e.cid p 0) = some x ∧ x.phase = .finished ∧ x.status = .notReady ∧
          t.obs.peg = { s.obs.peg with ignored := true })) ∧
    (at_ e.cmd 0x20 1 < 4 → bit (at_ e.cmd 0x20 1) 1 = true → bit s.obs.cfg.toNat (12 + p.val) = false →
      ∃ t x, exec (.peg p) s = .next t ∧ t.entry (e.cid p 0) = some x ∧ x.phase = .finished ∧ x.status = .isolation ∧
        t.obs.peg = s.obs.peg))
  ∧ (∀ (s : State) (p : Fin 4) (e : Entry), AtHead s p 0 0x14 e →
    (∀ xs rs, s.snapshotCheck p e = .ok (xs, rs) → s.walkPoison p rs = none →
      ∃ t x, exec (.snapshot p) s = .next t ∧ t.entry (e.cid p 0) = some x ∧ x.phase = .executed ∧ x.startTick = s.tick ∧
        t.tick = s.tick + 2048 ∧ x.detail = BitVec.ofNat 32 (s.snapshotSize p) ∧
        (t.part p).snapshotCount = (s.part p).snapshotCount + 1 ∧ (∀ r k, (t.part r).counter k = (s.part r).counter k)) ∧
    (∀ st, s.snapshotCheck p e = .error st →
      ∃ t x, exec (.snapshot p) s = .next t ∧ t.entry (e.cid p 0) = some x ∧ x.phase = .finished ∧ x.status = st ∧ t.tick = s.tick))

/-- COMMAND_FINISH (02 R57, R60, R77): a command whose work is done, and which waits for no acknowledgement, finishes
now with its status. On OK or DEFERRED its header signal is applied; when it stopped its queue and nothing has resumed
it the signal is held; on any other status, or without SIGNAL_EN, no counter moves. No other counter moves. That a command whose
queue was resumed before its finish applies its own signal then is the model's choice (log entry 41), and so is its SIGNAL_HELD
(log entry 130). A command whose scale-table entries do not find the shadow blocks that their writes need waits instead, its
signal not applied (13 R364). -/
def Obligations.CommandFinishes : Prop :=
  ∀ (s : State) (c : Cid) (e : Entry), s.entry c = some e → e.done = true → s.awaitsAck c e = false →
    (e.phase = .executed ∨ cmdKind e.cmd = 0x01) → e.owed = [] →
    (e.status = .ok → (s.scEndAll c e).written c = false →
      ∃ t x, exec (.commandFinish c) s = .next t ∧ t.entry c = some x ∧ x.phase = e.phase ∧ x.owed ≠ [] ∧
        .command c ∈ (t.part c.p).stalls ∧ (∀ r k, (t.part r).counter k = (s.part r).counter k)) ∧
    ((e.status = .ok → (s.scEndAll c e).written c = true) →
    ∃ t x, exec (.commandFinish c) s = .next t ∧ t.entry c = some x ∧ x.phase = .finished ∧ x.status = e.status ∧
      x.cmd = e.cmd ∧ x.startTick = e.startTick ∧ x.endTick = s.tick ∧ t.tick = s.tick ∧
      (∀ w, e.sweep = some w → x.threads = w.retired.length) ∧
      ((e.status = .ok ∨ e.status = .deferred) → cmdSignalEn e.cmd = true → (e.queueStopped = false ∨ e.resumed = true) →
        ((t.part c.p).counter (at_ e.cmd 0x18 2)).toNat =
          if cmdSignalSet e.cmd then max ((s.part c.p).counter (at_ e.cmd 0x18 2)).toNat (at_ e.cmd 0x1C 4 % 2 ^ 32)
          else min (((s.part c.p).counter (at_ e.cmd 0x18 2)).toNat + at_ e.cmd 0x1C 4 % 2 ^ 32) 0xFFFFFFFF) ∧
      ((e.status = .ok ∨ e.status = .deferred) → cmdSignalEn e.cmd = true → e.queueStopped = true → x.signalHeld = true) ∧
      (¬(e.status = .ok ∨ e.status = .deferred) ∨ cmdSignalEn e.cmd = false ∨ (e.queueStopped = true ∧ e.resumed = false) →
        (t.part c.p).counter (at_ e.cmd 0x18 2) = (s.part c.p).counter (at_ e.cmd 0x18 2)) ∧
      (∀ r k, r ≠ c.p ∨ k ≠ at_ e.cmd 0x18 2 → (t.part r).counter k = (s.part r).counter k))

/-! ### Operations of tile threads (06, 07, 08) -/

/-- COPY_IN, COPY_OUT and COPY_MESH (08 R234 to R236). COPY_IN stores what its moves read into the thread's local store
and changes no memory; a poisoned sector that it reads, and that no replay mends, makes the command complete as
UNRECOVERABLE (13 R374, R375). COPY_OUT leaves in each byte of device memory the last byte its moves store there (after a stall,
those it had still to make), any other byte unchanged; when a stack has no free shadow block for a write the thread stalls with
what it has still to write, and no byte outside its writes has changed (13 R364).
COPY_MESH stores into the local store of the destination thread, and bytes for a thread that is not resident go nowhere.
In each the thread goes on to its next operation. -/
def Obligations.TileCopies : Prop :=
  ∀ (s : State) (i : Tid) (x : Running),
    (s.running i 0x01 = some x → s.retainedFor i x = none → s.poisonReads x.e.xlats (s.copyInReads x) = none →
      ∃ t, exec (.copyIn i) s = .next t ∧ t.threadOf i =
          some ((x.h.lsMoves (s.copyInMoves x).dst).retireOp.counting 9 (movesBytes (s.copyInMoves x).dst)) ∧
        t.mem = s.mem ∧ t.host = s.host ∧ (∀ r k, (t.part r).counter k = (s.part r).counter k)) ∧
    (∀ sec, s.running i 0x01 = some x → s.retainedFor i x = none → s.poisonReads x.e.xlats (s.copyInReads x) = some sec →
      (s.part i.cid.p).replayable sec = false →
      ∃ t e, exec (.copyIn i) s = .next t ∧ t.entry i.cid = some e ∧ e.phase = .executed ∧ e.status = .unrecoverable ∧
        t.threadOf i = none) ∧
    (s.running i 0x02 = some x →
      ((shapeOf (tileShape x.w x.op)).kind = 4 → x.h.owed = [] →
        s.poisonReads x.e.xlats [(tileAux (shapeOf (tileShape x.w x.op)) x.h.t, 4 * (shapeOf (tileShape x.w x.op)).rows)] = none) →
      (s.shadowRoom { x.e.writer i.cid with thread := some i, own := s.threadReads x } x.e.xlats
          ((s.copyOutDue x).map (fun y => (y.1, y.2.length))) = true →
        ∃ t, exec (.copyOut i) s = .next t ∧ t.threadOf i = some x.h.retireOp ∧
          (∀ a, t.mem.byte a = (storedByte x.e.xlats ((s.copyOutDue x).map (fun y => ((y.1 : Int), y.2))) a).getD (s.mem.byte a)) ∧
          t.host = s.host ∧ (∀ r k, (t.part r).counter k = (s.part r).counter k)) ∧
      (s.shadowRoom { x.e.writer i.cid with thread := some i, own := s.threadReads x } x.e.xlats
          ((s.copyOutDue x).map (fun y => (y.1, y.2.length))) = false →
        ∃ t l, exec (.copyOut i) s = .next t ∧ (t.part i.cid.p).threadStalled i = true ∧ t.threadOf i = some { x.h with owed := l } ∧
          (∀ a, storedByte x.e.xlats ((s.copyOutDue x).map (fun y => ((y.1 : Int), y.2))) a = none → t.mem.byte a = s.mem.byte a) ∧
          t.host = s.host ∧ (∀ opcode, t.running i opcode = none))) ∧
    (s.running i 0x03 = some x →
      ∃ t l, exec (.copyMesh i) s = .next t ∧ t.mem = s.mem ∧ t.host = s.host ∧
        l = ((shapeOf (tileShape x.w x.op)).moves (tileLs x.op) (fld (at_ x.op 8 8) 0 21) (fun a n => x.h.lsRead a.toNat n) (fun _ => []) 0).dst ∧
        (meshDest x.e.cmd x.op x.h.t ≠ i.t →
          (∃ h, t.threadOf i = some h ∧ { h with events := [] } = { x.h.retireOp with events := [] } ∧
            sget 0 h.events 10 = sget 0 x.h.events 10 + movesBytes l) ∧
          t.threadOf { i with t := meshDest x.e.cmd x.op x.h.t } =
            (x.w.thread (meshDest x.e.cmd x.op x.h.t)).map (fun h => (h.lsMoves l).meshFrom i.t l)) ∧
        (meshDest x.e.cmd x.op x.h.t = i.t →
          ∃ h, t.threadOf i = some h ∧ { h with events := [] } = { ((x.h.lsMoves l).meshFrom i.t l).retireOp with events := [] } ∧
            sget 0 h.events 10 = sget 0 x.h.events 10 + movesBytes l))

/-- ACC_INIT (06 R177): the zero form fills its tile with the mode's zero, the load form with the elements of local
store, the merge form merges the elements of local store into the tile it had, and each element is computed by itself;
local store, registers and memory are unchanged and the thread goes on. ARRAY_LOAD_B and ARRAY_MMA (06 R178 to R180).
While another thread of the core holds a preloaded block, neither starts and nothing changes. Otherwise ARRAY_LOAD_B
preloads its block, and ARRAY_MMA accumulates into its tile: an element inside M × N takes its contributions in
increasing chunk order, from what it held alone; one outside keeps its value; the block is released. Both leave local
store and memory alone and the thread goes on. That the contributions of a merged element which are not known count as the fewest
that can give its number is the model's choice (log entry 149); that the preloaded block keeps its contents from ARRAY_LOAD_B on is its
reading (log entry 148). -/
def Obligations.ArrayRows : Prop :=
  (∀ (s : State) (i : Tid) (x : Running), s.running i 0x12 = some x →
    ∃ t h, exec (.accInit i) s = .next t ∧ t.threadOf i = some h ∧ h.op = x.h.op + 1 ∧ h.wait = .ready ∧ h.ls = x.h.ls ∧
      h.regs = x.h.regs ∧ t.mem = s.mem ∧ t.host = s.host ∧ (∀ r k, (t.part r).counter k = (s.part r).counter k) ∧
      (fld (at_ x.op 1 1) 0 2 = 0 → ∃ a, h.tile (at_ x.op 3 1) = some a ∧ a.mode = accMode (at_ x.op 2 1) ∧
        ∀ r c, r < 64 → c < 64 → a.code r c = (accMode (at_ x.op 2 1)).zero) ∧
      (fld (at_ x.op 1 1) 0 2 = 1 → ∃ a, h.tile (at_ x.op 3 1) = some a ∧ a.mode = accMode (at_ x.op 2 1) ∧
        ∀ r c, r < 64 → c < 64 →
          a.code r c = le (x.h.lsRead (at_ x.op 8 4 + (64 * r + c) * (accMode (at_ x.op 2 1)).size) (accMode (at_ x.op 2 1)).size)) ∧
      (2 ≤ fld (at_ x.op 1 1) 0 2 → ∀ a0, x.h.tile (at_ x.op 3 1) = some a0 →
        ∃ a, h.tile (at_ x.op 3 1) = some a ∧ a.mode = a0.mode ∧ ∀ r c, r < 64 → c < 64 →
          ∀ new, new = le (x.h.lsRead (at_ x.op 8 4 + (64 * r + c) * 12) 12) →
          a.code r c = mergedCode (x.h.mark (2 ^ 23 + (64 * r + c)))
            (sget 0 a0.contribs (64 * r + c) + knownContribs s.cores.sums new) (a0.code r c) new))
  ∧ (∀ (s : State) (i : Tid) (x : Running),
    (s.running i 0x10 = some x →
      (preloadElsewhere s i x.h.core = true → exec (.arrayLoadB i) s = .next s) ∧
      (preloadElsewhere s i x.h.core = false →
        ∃ t, exec (.arrayLoadB i) s = .next t ∧
          t.threadOf i = some { x.h with preload := some (stationaryOf x), op := x.h.op + 1, wait := .ready } ∧ t.mem = s.mem ∧
          t.host = s.host ∧ (∀ r k, (t.part r).counter k = (s.part r).counter k))) ∧
    (s.running i 0x11 = some x →
      (preloadElsewhere s i x.h.core = true → exec (.arrayMma i) s = .next s) ∧
      (preloadElsewhere s i x.h.core = false → ∀ g a, g = mmaOf x ((s.part i.cid.p).group (groupOf i.cid.q)).seed →
        x.h.tile g.unit = some a →
        ∃ t h a', exec (.arrayMma i) s = .next t ∧ t.threadOf i = some h ∧ h.op = x.h.op + 1 ∧ h.wait = .ready ∧
          h.preload = none ∧ h.ls = x.h.ls ∧ h.regs = x.h.regs ∧ t.mem = s.mem ∧ t.host = s.host ∧
          (∀ r k, (t.part r).counter k = (s.part r).counter k) ∧ h.tile g.unit = some a' ∧ a'.mode = a.mode ∧
          (∀ r c, r < g.m → c < g.n → a'.code r c =
            (mmaElem g a ((List.range ((g.k + 63) / 64)).map (fun k => (readTile x.h g.a k, readTile x.h g.b k))) r c
              ((g.k + 31) / 32) 0 (a.code r c) (sget 0 a.contribs (64 * r + c))).1) ∧
          (∀ r c, c < 64 → (g.m ≤ r ∨ g.n ≤ c) → a'.code r c = a.code r c))))

/-- CHAIN (07 R189 to R191, R196). A thread whose register set is not free waits, resident. Otherwise the operation is
performed and the thread goes on; the accumulator tiles are left alone; only a tile-register destination writes a
register, and each element of the extent there is the chain's result for it in the lane format; the raw save leaves in
local store each element's code of the accumulator tile. -/
def Obligations.ChainRuns : Prop :=
  ∀ (s : State) (i : Tid) (x : Running), s.runningOr i 0x20 .registers = some x →
    ((opRegs x.w x.h.op).isEmpty = false → x.h.holdsRegs = false → registersFree (s.part i.cid.p) x = false →
      ∃ t, exec (.chain i) s = .next t ∧ t.threadOf i = some { x.h with wait := .registers } ∧ t.mem = s.mem ∧ t.host = s.host) ∧
    ((opRegs x.w x.h.op).isEmpty = true ∨ x.h.holdsRegs = true ∨ registersFree (s.part i.cid.p) x = true →
      ∃ t h, exec (.chain i) s = .next t ∧ t.threadOf i = some h ∧ h.op = x.h.op + 1 ∧ h.wait = .ready ∧ h.core = x.h.core ∧
        h.acc = x.h.acc ∧ ((chainOf x).dest ≠ 1 → h.regs = x.h.regs) ∧
        ((chainOf x).scaleSrc ≠ 2 → t.mem = s.mem ∧ t.host = s.host) ∧
        (∀ r k, (t.part r).counter k = (s.part r).counter k) ∧
        ((chainOf x).dest = 1 → ∃ reg, h.regs.head? = some reg ∧ reg.num = fld (at_ (chainOf x).loc 8 4) 0 2 ∧
          ∀ r c, r < (chainOf x).m → c < (chainOf x).n →
            reg.elems.find? (fun y => y.1 == storagePos (bit (chainOf x).w 226) (64 * r + c)) =
              some (storagePos (bit (chainOf x).w 226) (64 * r + c),
                BitVec.ofNat 64 ((chainOf x).lane.encode (chainElem (chainOf x) ((chainOf x).readX x.h) ((chainOf x).readY x.h) r c).1))) ∧
        ((chainOf x).dest = 2 → ∀ a, x.h.tile (at_ (chainOf x).loc 0 4) = some a → ∀ r c, r < (chainOf x).m → c < (chainOf x).n →
          h.lsRead (at_ (chainOf x).loc 8 4 + (64 * r + c) * a.mode.size) a.mode.size = toLe a.mode.size (a.code r c)))

/-- ROW_FWD and ROW_BWD (07 R207, R209, R210). The operation is performed and the thread goes on, its accumulators and
registers untouched; one that reads kept statistics leaves side memory and device memory alone, and one that writes none
beyond the side memory leaves device memory alone. One whose spill records do not find the shadow blocks that their writes need
stalls, and goes on from the first row it has not done (13 R364). ROW_FWD of one row keeps the row's statistics in the core's
side memory and stores its outputs converted to the output format. -/
def Obligations.RowOperations : Prop :=
  ∀ (s : State) (i : Tid) (x : Running) (c : Instr) (opcode : Nat) (g : RowOp),
    (c = .rowFwd i ∧ opcode = 0x30 ∨ c = .rowBwd i ∧ opcode = 0x31) → s.running i opcode = some x →
    g = rowOpOf ((s.part i.cid.p).group (groupOf i.cid.q)) x →
    (g.reads = true → s.poisonReads x.e.xlats g.spillBytes = none) →
    (g.reads = false → s.shadowRoom { x.e.writer i.cid with
        thread := some i, own := s.rowOwn ((s.part i.cid.p).group (groupOf i.cid.q)) x } x.e.xlats
        (g.spillOf ((List.range g.rows).drop x.h.done)) = false →
      ∃ t h, exec c s = .next t ∧ t.threadOf i = some h ∧ h.op = x.h.op ∧ x.h.done ≤ h.done ∧ h.done < g.rows ∧ h.acc = x.h.acc ∧
        h.regs = x.h.regs ∧ (t.part i.cid.p).threadStalled i = true ∧ t.host = s.host ∧
        (∀ r k, (t.part r).counter k = (s.part r).counter k)) ∧
    ((g.reads = false → s.shadowRoom { x.e.writer i.cid with
        thread := some i, own := s.rowOwn ((s.part i.cid.p).group (groupOf i.cid.q)) x } x.e.xlats
        (g.spillOf ((List.range g.rows).drop x.h.done)) = true) →
    ∃ t h, exec c s = .next t ∧ t.threadOf i = some h ∧ h.op = x.h.op + 1 ∧ h.wait = .ready ∧ h.acc = x.h.acc ∧
      h.regs = x.h.regs ∧ (g.reads = true → t.mem = s.mem ∧ t.cores.side = s.cores.side) ∧ (g.spilled = [] → t.mem = s.mem) ∧
      t.host = s.host ∧ (∀ r k, (t.part r).counter k = (s.part r).counter k) ∧
      (c = .rowFwd i → g.reads = false → g.rows = 1 → x.h.done = 0 → g.base < g.cap →
        t.sideRow x.h.core (g.bank + g.base) = le (statBytes (keptStats g (g.readRow x.h 0 0)).1) ∧
        ∀ b, b = packCodes (elemBits g.outFmt) ((rowResult g (if g.flag 0 then rowVec x.h (g.at' 8) g.n else [])
            (if g.flag 1 then rowVec x.h (g.at' 0x0C) g.n else []) (g.readRow x.h 0 0) [] (keptStats g (g.readRow x.h 0 0)).1 none).out.map
              (fun v => (convertElem g.outFmt [] v 127 (FFmt.fp32.encode v) none).code)) →
          h.lsRead (g.rowAt 0x10 0) b.length = b))

/-! ### Polling, admission and interrupts (14 R411 to R417) -/

/-- DEVICE_POLL (14 R411, R414) of a partition in force: what the host stored is there; time is at least the poll's; the
summary line, unless SWAP is off, reads 0 after it; every existing queue that the line marks or that waits for a
completion slot takes its doorbell word, and a queue with neither keeps its state; the next poll comes one interval on,
the BUSY interval while a command is unfinished. A doorbell word (14 R413): one that leaves more commands than the ring
holds, or more records than were written, stops the queue, marks DOORBELL_ERROR and keeps the counts; any other gives an
ENABLED queue its two counts. COMMAND_ADMIT (14 R411, R412, R419): with a command in the ring and a slot for its
completion, the command at HEAD enters its queue last, and HEAD goes up by one; on an ENABLED queue it waits to be taken
up, on a DRAINING one it is cancelled. Without a slot the queue waits for one and admits nothing. -/
def Obligations.PollAndAdmit : Prop :=
  (∀ (s v : State) (p : Fin 4) (host : HostStores), (s.part p).live = true →
    v = (if bit (s.part p).pollCfg.toNat 18 then { s with host := sstores s.host host }
      else State.swapSummary { s with host := sstores s.host host } (s.part p).summaryBase.toNat) →
    ∃ t, exec (.devicePoll p host) s = .next t ∧ t.tick = max s.tick (s.part p).pollAt ∧ t.host = v.host ∧ t.mem = s.mem ∧
      (bit (s.part p).pollCfg.toNat 18 = false → ∀ w, w < 8 → t.hostWord ((s.part p).summaryBase.toNat + 8 * w) = 0) ∧
      (∀ q, queueExists q = true →
        ((bit (s.part p).pollCfg.toNat 18 = false ∧ q ∈ lineQueues (sread (sstores s.host host) (s.part p).summaryBase.toNat 64)) ∨
          (bit (s.part p).pollCfg.toNat 18 = true ∧ (((s.part p).queue q).state = .enabled ∨ ((s.part p).queue q).state = .stopped)) ∨
          ((s.part p).queue q).spaceHeld = true) →
        (t.part p).queue q = ((s.part p).queue q).ring (v.doorbell p q)) ∧
      (∀ q, bit (s.part p).pollCfg.toNat 18 = false → q ∉ lineQueues (sread (sstores s.host host) (s.part p).summaryBase.toNat 64) →
        (∀ x ∈ (s.part p).queues, x.1 = q → x.2.spaceHeld = false) → (t.part p).queue q = (s.part p).queue q) ∧
      (t.part p).pollAt = t.tick + (t.part p).pollInterval ∧
      ((s.part p).busy t.tick = true → (t.part p).pollInterval = fld (s.part p).pollCfg.toNat 0 8 * 100) ∧
      (∀ r k, (t.part r).counter k = (s.part r).counter k))
  ∧ (∀ (Q : Queue) (d : Nat), Q.state = .enabled →
    ((Q.sqSize < (BitVec.ofNat 32 d - Q.head).toNat ∨ Q.cqSize < (Q.tail - BitVec.ofNat 32 (d / 2 ^ 32)).toNat) →
      (Q.ring d).state = .stopped ∧ (Q.ring d).doorbellError = true ∧ (Q.ring d).sqTail = Q.sqTail ∧ (Q.ring d).cqHead = Q.cqHead) ∧
    ((BitVec.ofNat 32 d - Q.head).toNat ≤ Q.sqSize → (Q.tail - BitVec.ofNat 32 (d / 2 ^ 32)).toNat ≤ Q.cqSize →
      Q.ring d = { Q with sqTail := BitVec.ofNat 32 d, cqHead := BitVec.ofNat 32 (d / 2 ^ 32) }))
  ∧ (∀ (s : State) (p : Fin 4) (q : Nat) (Q : Queue), Q = (s.part p).queue q → (s.part p).live = true → Q.admits = true →
    Q.head ≠ Q.sqTail →
    (Q.cqSize ≤ (Q.head - Q.cqHead).toNat →
      ∃ t, exec (.commandAdmit p q) s = .next t ∧ (t.part p).queue q = { Q with spaceHeld := true }) ∧
    ((Q.head - Q.cqHead).toNat < Q.cqSize →
      ∃ t x, exec (.commandAdmit p q) s = .next t ∧ ((t.part p).queue q).entries.getLast? = some x ∧ x.n = Q.head.toNat ∧
        x.cmd = sread s.host (Q.sqBase.toNat + 128 * (Q.head.toNat % Q.sqSize)) 128 ∧ x.accepted = false ∧
        (Q.state = .enabled → x.phase = .waiting) ∧ (Q.state = .draining → x.phase = .finished ∧ x.status = .cancelled) ∧
        ((t.part p).queue q).entries.length = Q.entries.length + 1 ∧ ((t.part p).queue q).head = Q.head + 1 ∧
        ((t.part p).queue q).spaceHeld = false ∧ t.mem = s.mem ∧ t.host = s.host ∧ t.out = s.out ∧
        (∀ r k, (t.part r).counter k = (s.part r).counter k)))

/-- IRQ_TIMER_EXPIRY and MSIX_VECTOR_UNMASK: the timer and the mask bit of 14 R417; what a message to a function with MSI-X off
or masked becomes is MSI-X's own, which R417 names and does not give (log entry 18). On a function with MSI-X enabled the timer's message leaves when
neither its vector nor its function is masked, and becomes pending when one is; without MSI-X nothing is sent; the queue
then counts anew. A write that clears a vector's mask bit sends the message that was pending, once, unless the function
is masked or has MSI-X off. -/
def Obligations.MsixMessages : Prop :=
  (∀ (s : State) (p : Fin 4) (q : Nat) (d v : Nat), ((s.part p).queue q).irqDue = some d →
    v = fld ((s.part p).queue q).cfg.toNat 9 11 →
    ∃ t, exec (.irqTimerExpiry p q) s = .next t ∧ t.tick = max s.tick d ∧ ((t.part p).queue q).irqDue = none ∧
      ((t.part p).queue q).unsignalled = 0 ∧ t.mem = s.mem ∧ t.host = s.host ∧
      (s.hi.msixOn (s.servingFn p) = true → (s.hi.fnMasked (s.servingFn p) = true ∨ s.hi.masked (s.servingFn p) v = true) →
        t.hi.pendingBit (s.servingFn p) v = true ∧ t.out = s.out) ∧
      (s.hi.msixOn (s.servingFn p) = true → s.hi.fnMasked (s.servingFn p) = false → s.hi.masked (s.servingFn p) v = false →
        t.hi = s.hi ∧ ∃ a m, t.out = .msix (s.servingFn p) v a m :: s.out) ∧
      (s.hi.msixOn (s.servingFn p) = false → t.hi = s.hi ∧ t.out = s.out)) ∧
  (∀ (s : State) (fn : Fn) (v : Nat), s.life.deviceReady = true → s.fnExists fn = true → v < fnVectors fn →
    ∃ t, exec (.msixVectorUnmask fn v) s = .next t ∧ t.hi.masked fn v = false ∧
      (s.hi.msixOn fn = true → s.hi.fnMasked fn = false → t.hi.pendingBit fn v = false ∧
        (s.hi.pendingBit fn v = true → ∃ a m, t.out = .msix fn v a m :: s.out)) ∧
      (s.hi.msixOn fn = false ∨ s.hi.fnMasked fn = true → t.hi.pendingBit fn v = s.hi.pendingBit fn v ∧ t.out = s.out) ∧
      (s.hi.pendingBit fn v = false → t.out = s.out) ∧ t.parts = s.parts ∧ t.mem = s.mem ∧ t.host = s.host)

/-! ### Epochs (13 R355 to R360) -/

/-- EPOCH_WATCHDOG_CLOSE and CUT_CAPTURE (13 R356 to R358). At its close age an open epoch without a request gets one. A
close requested is captured while fewer than two closed epochs wait: the cut holds the counters, groups and commands as
they stand, the next epoch opens now, and no counter and no memory changes; with two waiting nothing happens.
EPOCH_RELEASE (13 R359, R360; 02 R73): the oldest closed epoch is released once every packet it sent has been
acknowledged, and never before. Its cut becomes the one a fault restores to; of each queue exactly the finished commands
at its front of epochs up to it leave, each with a completion record, in submission order; no counter moves. The cut
changes in nothing but the send entries of its remote signals, which have left and are not sent again. That no more than two
closed epochs wait is read from Table 13.3's values (log entry 85), and that a release puts the send entries of remote signals in
its cut is log entry 76: both are the model's reading. -/
def Obligations.EpochsCloseAndRelease : Prop :=
  ((∀ (s : State) (p : Fin 4), (s.part p).live = true → (s.part p).closeRequest = none →
    ∃ t, exec (.epochWatchdogClose p) s = .next t ∧
      t.tick = max s.tick ((s.part p).openedAt + if (s.part p).capShort then 6000 else 26000) ∧
      (t.part p).closeRequest = some t.tick ∧ (∀ r, r ≠ p → t.part r = s.part r) ∧ t.mem = s.mem) ∧
  (∀ (s : State) (p : Fin 4), (s.part p).closeRequest ≠ none → (s.part p).closed.length < 2 →
    ∃ t x, exec (.cutCapture p) s = .next t ∧ (t.part p).closed = (s.part p).closed ++ [x] ∧ x.epoch = (s.part p).openEpoch ∧
      some x.requested = (s.part p).closeRequest ∧ x.cut.epoch = (s.part p).openEpoch + 1 ∧ x.cut.counters = (s.part p).counters ∧
      x.cut.groups = (s.part p).groups ∧ (t.part p).openEpoch = (s.part p).openEpoch + 1 ∧ (t.part p).openedAt = s.tick ∧
      (t.part p).closeRequest = none ∧ (t.part p).counters = (s.part p).counters ∧ (∀ r, r ≠ p → t.part r = s.part r) ∧
      t.mem = s.mem ∧ t.host = s.host) ∧
  (∀ (s : State) (p : Fin 4), (s.part p).closeRequest = none ∨ 2 ≤ (s.part p).closed.length → exec (.cutCapture p) s = .next s))
  ∧ (∀ (s : State) (p : Fin 4),
    ((s.part p).closed = [] → exec (.epochRelease p) s = .next s) ∧
    (∀ x r, (s.part p).closed = x :: r →
      ((s.part p).acknowledged x.epoch = false ∨ s.fab.held.any (fun h => h.ofEpoch p x.epoch) = true →
        exec (.epochRelease p) s = .next s) ∧
      ((s.part p).acknowledged x.epoch = true → s.fab.held.any (fun h => h.ofEpoch p x.epoch) = false →
        ∃ t, exec (.epochRelease p) s = .next t ∧ (t.part p).closed = r ∧ (t.part p).released = x.epoch ∧ 
          { (t.part p).base with sendEntries := [] } = { x.cut with sendEntries := [] } ∧
          (t.part p).faultsFromCut = 0 ∧ (t.part p).openEpoch = (s.part p).openEpoch ∧
          (∀ k, (t.part p).counter k = (s.part p).counter k) ∧
          (∀ q, ((t.part p).queue q).tail = ((s.part p).queue q).tail +
            BitVec.ofNat 32 ((((s.part p).queue q).entries.takeWhile (fun e => e.ready x.epoch)).length)) ∧
          (∀ q, ((t.part p).queue q).entries =
            ((s.part p).queue q).entries.drop (((s.part p).queue q).entries.takeWhile (fun e => e.ready x.epoch)).length))))

/-! ### Faults and recovery (13 R364 to R382) -/

/-- RECOVER (13 R369 to R373): a replayable fault of a partition in force takes it back to its last released cut: its
counters are the cut's with the remote signals received since (log entry 77: the model's reading), the epoch after the cut is open
again, nothing is closed, staged or stalled beyond the cut, and the count of replays goes up; the third fault from one cut
instead leaves every queue in use STOPPED. With every release on time the recovery ends within 50,000 ticks in Long mode and
30,000 in Short mode, its replay being longer where a die is throttled below 1.4 GHz (17 R481). Other
partitions' counters do not move. A Seam fault (cause 4 of Table 13.6) takes back every partition in force that has had
fewer than two faults from its cut; a buffer error (cause 9) those with a command in progress on its unit. -/
def Obligations.FaultsRestoreTheCut : Prop :=
  (∀ (s : State) (f : FaultReport), (s.part f.p).live = true →
    ((f.cause = 1 ∨ f.cause = 2) ∧ (s.part f.p).ownsCore f.unit = true ∨ f.cause = 5 ∨ f.cause = 6 ∨ f.cause = 7) →
    ((s.part f.p).faultsFromCut < 2 →
      ∃ t, exec (.recover f) s = .next t ∧ (t.part f.p).openEpoch = (s.part f.p).base.epoch ∧
        (∀ k, (t.part f.p).counter k = (s.part f.p).counterAtCut k) ∧ (t.part f.p).closed = [] ∧
        (t.part f.p).staged = [] ∧ (t.part f.p).stalls = (s.part f.p).base.stalls ∧
        (t.part f.p).faultsFromCut = (s.part f.p).faultsFromCut + 1 ∧ (t.part f.p).replays = min ((s.part f.p).replays + 1) 65535 ∧
        s.tick ≤ t.tick ∧ ((s.part f.p).closed = [] →
          t.tick ≤ s.tick + 20000 + (if (s.part f.p).capShort then 10000 else 30000) * 1400 / s.replayClock (s.part f.p)) ∧
        ((s.part f.p).closed = [] → (∀ die : Fin 4, 1400 ≤ s.power.clocks[die]) →
          t.tick ≤ s.tick + if (s.part f.p).capShort then 30000 else 50000) ∧
        (∀ r k, r ≠ f.p → (t.part r).counter k = (s.part r).counter k)) ∧
    (2 ≤ (s.part f.p).faultsFromCut →
      ∃ t, exec (.recover f) s = .next t ∧
        (∀ q, ((t.part f.p).queue q).state = if ((s.part f.p).queue q).state = .disabled then .disabled else .stopped) ∧
        (∀ r k, r ≠ f.p → (t.part r).counter k = (s.part r).counter k)))
  ∧ (∀ (s : State) (f : FaultReport) (p : Fin 4),
    (f.cause = 4 ∨ f.cause = 9 ∧ s.onUnit f.unit f.collective f.press p = true) → (s.part p).live = true →
    (s.part p).faultsFromCut < 2 →
    ∃ t, exec (.recover f) s = .next t ∧ (t.part p).openEpoch = (s.part p).base.epoch ∧
      (∀ k, (t.part p).counter k = (s.part p).counterAtCut k) ∧ (t.part p).closed = [] ∧
      (t.part p).faultsFromCut = (s.part p).faultsFromCut + 1)

/-- CORE_HANG and STRIKE_LAPSE (13 R378 to R380): a hung core retires; an unused spare of its die takes its logical id,
and without one the id becomes absent. A strike 24 hours old lapses, and a younger one stays. STACK_FAILURE and
PATROL_SCRUB (13 R376, R381; 08 R217). A stack that fails is withheld and every unfinished command of the partitions
that own frames on it completes as UNRECOVERABLE. Standard protection corrects one symbol of a sector and detects two;
Strong corrects two, or the errors of one data pin, and detects three (08 R216). A scrub takes its findings in order,
those of different rows each by itself; a row corrected in fewer than four passes is counted once a pass, one corrected
in a fourth is repaired; an uncorrectable sector reads as poisoned and its row is repaired. -/
def Obligations.CoreAndMemoryFaults : Prop :=
  ((∀ (s : State) (l : Nat), l < 1280 → s.cores.absent.getLsbD l = false →
    ∃ t, exec (.coreHang l) s = .next t ∧ s.cores.phys l ∈ t.cores.retired ∧
      (∀ sp r, Cores.freeSpares { s.cores with retired := s.cores.retired ++ [s.cores.phys l] } (l / 320) = sp :: r →
        t.cores.phys l = sp ∧ t.cores.absent = s.cores.absent) ∧
      (Cores.freeSpares { s.cores with retired := s.cores.retired ++ [s.cores.phys l] } (l / 320) = [] →
        t.cores.absent.getLsbD l = true)) ∧
  (∀ (s : State) (phys : Nat) (x : Nat × Nat), s.cores.strikes.find? (fun y => y.1 == phys) = some x →
    ∃ t, exec (.strikeLapse phys) s = .next t ∧ t.tick = max s.tick (x.2 + 86400000000000) ∧
      (∀ y, y ∈ t.cores.strikes ↔ y ∈ s.cores.strikes ∧ (y.1 = phys → t.tick < y.2 + 86400000000000)) ∧
      t.parts = s.parts ∧ t.mem = s.mem))
  ∧ ((∀ (s : State) (k : Fin 16), s.mem.failed.getLsbD k.val = false →
    ∃ t, exec (.stackFailure k) s = .next t ∧ t.mem.failed.getLsbD k.val = true ∧
      (∀ j : Fin 16, j ≠ k → t.mem.failed.getLsbD j.val = s.mem.failed.getLsbD j.val) ∧
      (∀ x ∈ t.mem.pressQueue, x.1 ≠ k.val) ∧
      (∀ c e, s.mem.owner.any (fun x => decide (x.1 / 65536 = k.val ∧ x.2 = c.p.val + 1)) = true → s.entry c = some e →
        e.phase ≠ .finished → ∃ x, t.entry c = some x ∧ (x.phase = .executed ∨ x.phase = .finished) ∧ x.status = .unrecoverable)) ∧
  (∀ (s : State) (k : Fin 16), s.mem.failed.getLsbD k.val = true → exec (.stackFailure k) s = .next s) ∧
  (∀ (s : State) (k : Fin 16), exec (.patrolScrub k []) s = .next s) ∧
  (∀ (s : State) (k : Fin 16) (x : ScrubFinding) (r : List ScrubFinding), (∀ y ∈ r, y.row ≠ x.row) →
    ∃ t, exec (.patrolScrub k [x]) s = .next t ∧ exec (.patrolScrub k (x :: r)) s = exec (.patrolScrub k r) t) ∧
  (∀ (s : State) (x : ScrubFinding),
    (s.mem.strongActive = false → (x.symbols ≤ 1 → s.mem.verdict x = .corrected) ∧ (x.symbols = 2 → s.mem.verdict x = .uncorrectable)) ∧
    (s.mem.strongActive = true → (x.symbols ≤ 2 ∨ x.onePin = true → s.mem.verdict x = .corrected) ∧
      (x.symbols = 3 → x.onePin = false → s.mem.verdict x = .uncorrectable))) ∧
  (∀ (s : State) (k : Fin 16) (x : ScrubFinding), x.symbols ≠ 0 →
    (s.mem.verdict x = .corrected → sget 0 s.mem.corrPasses (k.val * 2 ^ 32 + x.row) < 3 →
      (∃ t, exec (.patrolScrub k [x]) s = .next t ∧
        sget 0 t.mem.corrPasses (k.val * 2 ^ 32 + x.row) = sget 0 s.mem.corrPasses (k.val * 2 ^ 32 + x.row) + 1 ∧
        t.mem.bytes = s.mem.bytes ∧ t.mem.repairUsed = s.mem.repairUsed) ∧
      (∀ y, y.row = x.row → y.symbols ≠ 0 → s.mem.verdict y = .corrected →
        ∃ t, exec (.patrolScrub k [x, y]) s = .next t ∧
          sget 0 t.mem.corrPasses (k.val * 2 ^ 32 + x.row) = sget 0 s.mem.corrPasses (k.val * 2 ^ 32 + x.row) + 1)) ∧
    (s.mem.verdict x = .corrected → 3 ≤ sget 0 s.mem.corrPasses (k.val * 2 ^ 32 + x.row) →
      ∃ t, exec (.patrolScrub k [x]) s = .next t ∧ sget 0 t.mem.corrPasses (k.val * 2 ^ 32 + x.row) = 0 ∧ t.mem.bytes = s.mem.bytes ∧
        sget 0 t.mem.repairUsed k.val = sget 0 s.mem.repairUsed k.val + 1) ∧
    (s.mem.verdict x = .uncorrectable →
      ∃ t, exec (.patrolScrub k [x]) s = .next t ∧ x.pa / 64 ∈ t.mem.poison ∧ t.mem.bytes = s.mem.bytes ∧
        sget 0 t.mem.repairUsed k.val = sget 0 s.mem.repairUsed k.val + 1)))

/-- DRAIN_ROLLBACK and STEP_RECORD_WRITE (14 R420, R421; 13 R389). At the first limit of a partition's drains the
partition goes back to its cut and asks for a close, and every queue past its limit has only finished commands and shows
ROLLED_BACK. An armed step record whose counter has reached its value is put aside for the release of the open epoch,
once. The model's readings: the counters keep the remote signals received since the cut (log entry 77), the rollback asks for a
close (log entry 91), and the step record is put aside for the release of the open epoch (log entry 95). -/
def Obligations.DrainRollbackAndStepRecord : Prop :=
  (∀ (s : State) (p : Fin 4), (s.part p).firstLimit = none → exec (.drainRollback p) s = .next s) ∧
  (∀ (s : State) (p : Fin 4) (d : Nat), (s.part p).firstLimit = some d →
    ∃ t, exec (.drainRollback p) s = .next t ∧ t.tick = max s.tick d ∧ (t.part p).openEpoch = (s.part p).base.epoch ∧
      (∀ k, (t.part p).counter k = (s.part p).counterAtCut k) ∧ (t.part p).closeRequest ≠ none ∧
      (∀ q l, ((s.part p).queue q).state = .draining → ((s.part p).queue q).drainDue = some l → l ≤ t.tick →
        ((t.part p).queue q).rolledBack = true ∧ ((t.part p).queue q).drainDue = none ∧
        ∀ e ∈ ((t.part p).queue q).entries, e.phase = .finished) ∧
      (∀ l, (s.part p).drainDue = some l → l ≤ t.tick → (t.part p).rolledBack = true)) ∧
  (∀ (s : State) (p : Fin 4) (pa : Nat), (s.part p).live = true → bit (s.part p).stepRecordCtrl.toNat 16 = true →
    (s.part p).satisfied (fld (s.part p).stepRecordCtrl.toNat 0 16) (BitVec.ofNat 32 (fld (s.part p).stepRecordCtrl.toNat 32 32)) = true →
    (∀ x ∈ (s.part p).staged, x.device = false) → s.obsAddr p (fld (s.part p).stepRecordBase.toNat 6 46 * 64) = some pa →
    ∃ t x, exec (.stepRecordWrite p) s = .next t ∧ (t.part p).staged = (s.part p).staged ++ [x] ∧ x.device = true ∧
      x.addr = pa + 0x18 ∧ x.epoch = (s.part p).openEpoch ∧ t.mem = s.mem ∧ t.host = s.host ∧
      exec (.stepRecordWrite p) t = .next t)

/-- COLLECTIVE_REGION_READY, ARRIVAL_TIMEOUT, HOST_REQUEST_ERROR and SHADOW_BLOCK_FREED (12 R346, R348; 08 R224; 13
R364). A region that has arrived is taken once and its stage runs. A collective whose time is out with data missing
completes as UNRECOVERABLE with MISSING and the first rank missing. A command that reaches host pages and whose host
request fails completes as UNRECOVERABLE and the error is logged. A stalled COPY_OUT that finds room makes the writes it had
left and goes on, and a stalled COPY that finds room makes its own and is done. -/
def Obligations.EventsOfStartedCommands : Prop :=
  (∀ (s : State) (c : Cid) (i : Nat) (e : Entry) (k : Coll) (x : Placed) (wx : Window), s.entry c = some e → e.coll = some k →
    e.phase = .running → k.opened = true → e.owed = [] → (layoutOf e.cmd k)[i]? = some x → k.regionsDone.contains i = false → x.len ≠ 0 →
    (s.part c.p).regionArrived e.cmd x = true →
    wx = ((s.part c.p).window (coWindow e.cmd)).getD { entry := [], xlats := [] } →
    s.poisonReads wx.xlats [(wx.base + x.off, if coReduce e.cmd || decide (coOp e.cmd = 5) then x.len else 0)] = none →
    ∃ t e' k', exec (.collectiveRegionReady c i) s = .next t ∧ t.entry c = some e' ∧ e'.coll = some k' ∧
      k'.regionsDone = k.regionsDone ++ [i] ∧ (e'.phase = .running ∨ e'.phase = .executed)) ∧
  (∀ (s : State) (c : Cid) (e : Entry) (k : Coll), s.entry c = some e → e.coll = some k → e.phase = .running →
    (layoutOf e.cmd k).any (fun x => !(s.part c.p).regionArrived e.cmd x) = true →
    ∃ t e', exec (.arrivalTimeout c) s = .next t ∧ t.tick = max s.tick (k.startTick + coTimeout e.cmd) ∧ t.entry c = some e' ∧
      e'.phase = .executed ∧ e'.status = .unrecoverable ∧
      e'.detail = BitVec.ofNat 32 (e.detail.toNat % 2 + 2 + (s.advance (k.startTick + coTimeout e.cmd)).firstMissing c.p e.cmd k * 2 ^ 16) ∧ t.mem = s.mem) ∧
  (∀ (s : State) (c : Cid) (e : Entry), s.entry c = some e → e.phase = .running → e.hostful = true →
    ∃ t e' l, exec (.hostRequestError c) s = .next t ∧ t.entry c = some e' ∧ e'.phase = .executed ∧ e'.status = .unrecoverable ∧
      t.out = .aer (s.servingFn c.p) c.p.val :: l) ∧
  (∀ (s u : State) (i : Tid) (x : Running), (s.part i.cid.p).stalls = [.thread i] →
    u = s.modPart i.cid.p (fun P => { P with stalls := [] }) → u.running i 0x02 = some x →
    ((shapeOf (tileShape x.w x.op)).kind = 4 → x.h.owed ≠ []) →
    u.shadowRoom { x.e.writer i.cid with thread := some i, own := u.threadReads x } x.e.xlats
      ((u.copyOutDue x).map (fun y => (y.1, y.2.length))) = true →
    ∃ t, exec (.shadowBlockFreed i.cid.p) s = .next t ∧ (t.part i.cid.p).stalls = [] ∧ t.threadOf i = some x.h.retireOp) ∧
  (∀ (s u : State) (c : Cid) (e : Entry), (s.part c.p).stalls = [.command c] → u.entry c = some e →
    u = s.modPart c.p (fun P => { P with stalls := [] }) → e.phase = .running → cmdKind e.cmd = 0x02 → e.sweep = none → e.owed ≠ [] →
    (u.modEntry c (fun y => { y with owed := [] })).dueRoom (e.writer c) e.xlats e.owed = true →
    ∃ t x, exec (.shadowBlockFreed c.p) s = .next t ∧ (t.part c.p).stalls = [] ∧ t.entry c = some x ∧ x.phase = .executed ∧
      x.owed = [] ∧ x.status = e.status ∧ (∀ r k, (t.part r).counter k = (s.part r).counter k))

/-! ### Partitions, groups and queues (14 R408 to R421; 02 R33, R69, R76, R77) -/

/-- PARTITION_ENABLE and PARTITION_DISABLE (14 R408, R421), by the function that serves the partition. A DISABLED
partition with a core becomes ENABLED and its watchdog and polls count from now; one without is refused and says so. An
ENABLED partition drains: no queue of it is ENABLED or STOPPED afterwards, and every admitted command that has not
started is cancelled. Another function changes nothing, and no other partition changes. That the watchdog and the polls count
from the enable is the model's reading (log entry 46). -/
def Obligations.PartitionControl : Prop :=
  ∀ (s : State) (fn : Fn) (p : Fin 4),
    (s.mayWritePart fn p = false → exec (.partitionEnable fn p) s = .next s ∧ exec (.partitionDisable fn p) s = .next s) ∧
    (s.mayWritePart fn p = true → (s.part p).state = .disabled →
      ((s.part p).cores = 0 →
        ∃ t, exec (.partitionEnable fn p) s = .next t ∧ t.part p = { s.part p with enableRefused := true } ∧
          ∀ r, r ≠ p → t.part r = s.part r) ∧
      ((s.part p).cores ≠ 0 →
        ∃ t, exec (.partitionEnable fn p) s = .next t ∧ (t.part p).state = .enabled ∧ (t.part p).openedAt = s.tick ∧
          (t.part p).pollInterval = fld (s.part p).pollCfg.toNat 8 10 * 1000 ∧
          (t.part p).pollAt = s.tick + fld (s.part p).pollCfg.toNat 8 10 * 1000 ∧ (t.part p).cores = (s.part p).cores ∧
          (t.part p).counters = (s.part p).counters ∧ ∀ r, r ≠ p → t.part r = s.part r)) ∧
    (s.mayWritePart fn p = true → (s.part p).state = .enabled →
      ∃ t, exec (.partitionDisable fn p) s = .next t ∧ ((t.part p).state = .draining ∨ (t.part p).state = .disabled) ∧
        (∀ q, ((t.part p).queue q).state ≠ .enabled ∧ ((t.part p).queue q).state ≠ .stopped) ∧
        (∀ q e, (((s.part p).queue q).state = .enabled ∨ ((s.part p).queue q).state = .stopped) →
          s.entry { p := p, q := q, n := e.n } = some e → e.phase = .waiting → e.replayed = false →
          ∃ x, t.entry { p := p, q := q, n := e.n } = some x ∧ x.phase = .finished ∧ x.status = .cancelled) ∧
        (∀ k, (t.part p).counter k = (s.part p).counter k) ∧ (∀ r, r ≠ p → t.part r = s.part r) ∧ t.mem = s.mem ∧ t.host = s.host)

/-- QUEUE_ENABLE, QUEUE_DISABLE and QUEUE_RESUME (14 R410, R413, R419; 02 R77), by the function that serves the
partition. A DISABLED queue of an ENABLED partition whose group is created and whose rings have bases becomes ENABLED
with its counts 0; any other ENABLE is refused and says so. DISABLE drains the queue. RESUME applies the held signals in
order and enables the queue, whose commands take their own signals from then on; after a doorbell error it reads the
word again. GROUP_CREATE and GROUP_DESTROY (14 R409; 02 R33, R69), by the function that serves the partition. CREATE
fixes the group's seed, class and row-engine right with its banks FREE, or gives the first of the errors 4 (the
partition is not ENABLED), 5, 3 and 1 in that order and creates nothing. DESTROY of a group all of whose queues are
DISABLED undoes it and frees its banks; otherwise error 2. No other group changes. That commands of a resumed queue take their
own signals is the model's reading (log entry 41); that CREATE of a group that exists and DESTROY of none change nothing is its
choice (log entries 45 and 1). -/
def Obligations.QueueAndGroupControl : Prop :=
  (∀ (s : State) (fn : Fn) (p : Fin 4) (q : Nat) (Q : Queue), Q = (s.part p).queue q → s.mayWritePart fn p = true →
    queueExists q = true →
    (Q.state = .disabled → (s.part p).state = .enabled → (((s.part p).group (groupOf q)).created = true ∨ q = 0) → Q.sqBase ≠ 0 →
      Q.cqBase ≠ 0 →
      ∃ t, exec (.queueEnable fn p q) s = .next t ∧ ((t.part p).queue q).state = .enabled ∧ ((t.part p).queue q).head = 0 ∧
        ((t.part p).queue q).tail = 0 ∧ ((t.part p).queue q).sqTail = 0 ∧ ((t.part p).queue q).cqHead = 0 ∧
        ((t.part p).queue q).entries = [] ∧ ((t.part p).queue q).cfg = Q.cfg ∧ (∀ j, j ≠ q → (t.part p).queue j = (s.part p).queue j)) ∧
    ((Q.state ≠ .disabled ∨ (s.part p).state ≠ .enabled ∨ (((s.part p).group (groupOf q)).created = false ∧ q ≠ 0) ∨ Q.sqBase = 0 ∨
        Q.cqBase = 0) →
      ∃ t, exec (.queueEnable fn p q) s = .next t ∧ (t.part p).queue q = { Q with enableRefused := true }) ∧
    ((Q.state = .enabled ∨ Q.state = .stopped) →
      ∃ t, exec (.queueDisable fn p q) s = .next t ∧
        (((t.part p).queue q).state = .draining ∨ ((t.part p).queue q).state = .disabled) ∧ ((t.part p).queue q).held = [] ∧
        (((t.part p).queue q).state = .draining → ((t.part p).queue q).drainDue = some (s.tick + 100000)) ∧
        (∀ e, s.entry { p := p, q := q, n := e.n } = some e → e.phase = .waiting → e.replayed = false →
          ∃ x, t.entry { p := p, q := q, n := e.n } = some x ∧ x.phase = .finished ∧ x.status = .cancelled) ∧
        (∀ k, (t.part p).counter k = (s.part p).counter k)) ∧
    (Q.state = .stopped → Q.reread = false →
      ∃ t, exec (.queueResume fn p q) s = .next t ∧ ((t.part p).queue q).state = .enabled ∧ ((t.part p).queue q).held = [] ∧
        (∀ k, (t.part p).counter k = (Q.held.foldl (fun (P : Part) h => (P.signal h.2).1) (s.part p)).counter k) ∧
        (∀ e ∈ ((t.part p).queue q).entries, e.queueStopped = true → e.resumed = true)) ∧
    (Q.state = .stopped → Q.reread = true → Q.held = [] →
      ∃ t, exec (.queueResume fn p q) s = .next t ∧ (t.part p).queue q = Queue.ring { Q with
        state := .enabled, reread := false, entries := Q.entries.map (fun e => { e with resumed := e.resumed || e.queueStopped }) }
          (s.doorbell p q)) ∧
    (Q.state ≠ .stopped → exec (.queueResume fn p q) s = .next s))
  ∧ (∀ (s : State) (fn : Fn) (p : Fin 4) (g : Nat) (G : Group), G = (s.part p).group g → s.mayWritePart fn p = true → 1 ≤ g → g ≤ 31 →
    (G.created = false → ∃ t, exec (.groupCreate fn p g) s = .next t ∧ (∀ j, j ≠ g → (t.part p).group j = (s.part p).group j) ∧
      ((s.part p).state ≠ .enabled → (t.part p).group g = { G with error := 4 }) ∧
      ((s.part p).state = .enabled → bit G.cfgReg.toNat 6 = false → (t.part p).group g = { G with error := 5 }) ∧
      ((s.part p).state = .enabled → bit G.cfgReg.toNat 6 = true → fld G.cfgReg.toNat 2 4 ≠ 1 →
        (t.part p).group g = { G with error := 3 }) ∧
      ((s.part p).state = .enabled → bit G.cfgReg.toNat 6 = true → fld G.cfgReg.toNat 2 4 = 1 →
        (bit G.cfgReg.toNat 1 && (s.part p).groups.any (fun x => x.2.created && x.2.owner)) = true →
        (t.part p).group g = { G with error := 1 }) ∧
      ((s.part p).state = .enabled → bit G.cfgReg.toNat 6 = true → fld G.cfgReg.toNat 2 4 = 1 →
        (bit G.cfgReg.toNat 1 && (s.part p).groups.any (fun x => x.2.created && x.2.owner)) = false →
        (t.part p).group g = { G with
          created := true, error := 0, seed := G.seedReg, overlapped := bit G.cfgReg.toNat 0, owner := bit G.cfgReg.toNat 1,
          bankZero := .free, bankOne := .free, phaseB := false })) ∧
    (G.created = true → exec (.groupCreate fn p g) s = .next s) ∧
    (G.created = true → ∃ t, exec (.groupDestroy fn p g) s = .next t ∧ (∀ j, j ≠ g → (t.part p).group j = (s.part p).group j) ∧
      ((groupQueues g).all (fun q => decide (((s.part p).queue q).state = .disabled)) = true →
        (t.part p).group g = { G with created := false, error := 0, bankZero := .free, bankOne := .free, phaseB := false }) ∧
      ((groupQueues g).all (fun q => decide (((s.part p).queue q).state = .disabled)) = false →
        (t.part p).group g = { G with error := 2 })) ∧
    (G.created = false → exec (.groupDestroy fn p g) s = .next s))

/-- PT_STREAM_SHARE and PT_STREAM_SHARE_HIGH (02 R65): a write is checked against the values that would result. In any
of the cases of the rule it leaves every share field of both registers as it was; otherwise the register written takes
it. -/
def Obligations.ShareWritesAreChecked : Prop :=
  ∀ (s : State) (fn : Fn) (p : Fin 4) (high : Bool) (v : W32) (l h : W32), s.mayWritePart fn p = true →
    l = (if high then (s.part p).streamShare else v &&& 0x7FEFFFFF) →
    h = (if high then v &&& 0x3FF else (s.part p).streamShareHigh) →
    ((∃ k, k < 4 ∧ (16 < shareMin l.toNat k ∨ shareMax l.toNat h.toNat k = 0 ∨ 16 < shareMax l.toNat h.toNat k ∨
        shareMax l.toNat h.toNat k < shareMin l.toNat k)) ∨
      16 < shareMin l.toNat 0 + shareMin l.toNat 1 + shareMin l.toNat 2 + shareMin l.toNat 3 →
      exec (.streamShareWrite fn p high v) s = .next s) ∧
    ((∀ k, k < 4 → shareMin l.toNat k ≤ 16 ∧ 1 ≤ shareMax l.toNat h.toNat k ∧ shareMax l.toNat h.toNat k ≤ 16 ∧
        shareMin l.toNat k ≤ shareMax l.toNat h.toNat k) →
      shareMin l.toNat 0 + shareMin l.toNat 1 + shareMin l.toNat 2 + shareMin l.toNat 3 ≤ 16 →
      ∃ t, exec (.streamShareWrite fn p high v) s = .next t ∧
        t.part p = { s.part p with streamShare := l, streamShareHigh := h } ∧ (∀ r, r ≠ p → t.part r = s.part r) ∧ t.mem = s.mem)

/-- PT_STREAM_PRIORITY and PT_TLB_INVALIDATE (02 R64, Table 2.13; 08 R223). A priority that is a permutation of the four
streams takes effect, and any other value changes nothing. An invalidation leaves the partition no cached translation,
and DONE reads 1. -/
def Obligations.PriorityAndInvalidation : Prop :=
  ∀ (s : State) (fn : Fn) (p : Fin 4) (v : W32), s.mayWritePart fn p = true →
    ((∃ f : Fin 4 → Fin 4, (∀ a b, f a = f b → a = b) ∧ ∀ a : Fin 4, fld v.toNat (2 * a.val) 2 = (f a).val) →
      ∃ t, exec (.streamPriorityWrite fn p v) s = .next t ∧ t.part p = { s.part p with streamPriority := v &&& 0xFF } ∧
        (∀ r, r ≠ p → t.part r = s.part r) ∧ t.mem = s.mem) ∧
    ((∃ a b : Fin 4, a ≠ b ∧ fld v.toNat (2 * a.val) 2 = fld v.toNat (2 * b.val) 2) →
      exec (.streamPriorityWrite fn p v) s = .next s) ∧
    (∃ t, exec (.tlbInvalidate fn p) s = .next t ∧ t.part p = { s.part p with tlb := [], tlbDone := true } ∧
      (∀ r, r ≠ p → t.part r = s.part r) ∧ t.mem = s.mem)

/-! ### Requests to Selvage (14 R400 to R402; 16 R469) -/

/-- The refusals of a request to Selvage (14 R400, R401): before DEVICE_READY it is NOT_READY; a record of an unlisted
kind, of a partition above 3 or with a reserved field set is INVALID_COMMAND; a well-formed SET_ENDPOINTS or
ASSIGN_CORES for a partition that is not DISABLED is an ISOLATION_FAULT. Each ends the request and changes no partition
and no device memory. What a granted request does (14 R401, R402; 16 R469), for a DISABLED partition. ASSIGN_CORES: it
owns exactly the cores set, and they leave any other. ASSIGN_FRAMES: it owns the frames, and one that was not its own
reads 0; one that was its own keeps its bytes, the model's reading (log entry 98). RELEASE_FRAMES: they are not that partition's
any more, its cached translations are discarded (08 R223) and no byte changes; one that it did not own stays as it was, the
model's reading (log entry 98). SET_ENDPOINTS: its endpoint and permissions are those of the record. MEMORY_ENCRYPTION: turning
it on or off zero-fills its frames. Each ends with RESULT OK. -/
def Obligations.SelvageRequests : Prop :=
  (∀ (s u : State) (c : Instr) (kind : Nat) (host : HostStores),
    (c = .assignCores host ∧ kind = 1 ∨ c = .assignFrames host ∧ kind = 2 ∨ c = .releaseFrames host ∧ kind = 3 ∨
      c = .setEndpoints host ∧ kind = 4 ∨ c = .memoryEncryption host ∧ kind = 5) →
    u = { s with host := sstores s.host host } →
    (s.life.deviceReady = false →
      ∃ t, exec c s = .next t ∧ t.hi.selvageResult = .notReady ∧ t.hi.selvageBusy = none ∧ t.parts = s.parts ∧ t.mem = s.mem ∧
        t.host = sstores s.host host) ∧
    (s.life.deviceReady = true → (u.request.kind = 0 ∨ 5 < u.request.kind ∨ (u.request.kind = kind ∧ (3 < u.request.part ∨ u.request.clean = false))) →
      ∃ t, exec c s = .next t ∧ t.hi.selvageResult = .invalid ∧ t.hi.selvageBusy = none ∧ t.parts = s.parts ∧ t.mem = s.mem) ∧
    (s.life.deviceReady = true → u.request.kind = kind → u.request.part ≤ 3 → u.request.clean = true →
      (s.part (partOf u.request.part)).state ≠ .disabled →
      (kind = 1 ∧ u.request.payload.length = 160 ∨ kind = 4 ∧ u.request.payload.length = 4098 ∧ at_ u.request.payload 0 2 < 2 ^ 14) →
      ∃ t, exec c s = .next t ∧ t.hi.selvageResult = .isolation ∧ t.hi.selvageBusy = none ∧ t.parts = s.parts ∧ t.mem = s.mem))
  ∧ (∀ (s u : State) (host : HostStores) (r : Request) (p : Fin 4), u = { s with host := sstores s.host host } → r = u.request →
    s.life.deviceReady = true → r.part ≤ 3 → r.clean = true → p = partOf r.part → (s.part p).state = .disabled →
    (r.kind = 1 → r.payload.length = 160 →
      (∀ l, l < 1280 → (coreMap r.payload).getLsbD l = true → u.foreign p (u.coreOwner l) = false) →
      ∃ t, exec (.assignCores host) s = .next t ∧ t.hi.selvageResult = .ok ∧ (t.part p).cores = coreMap r.payload ∧
        (∀ o, o ≠ p → (t.part o).cores = (s.part o).cores &&& ~~~(coreMap r.payload)) ∧ t.mem = s.mem) ∧
    (r.kind = 2 → u.frameForm true r = none → u.frameReach p r = none →
      ∃ t, exec (.assignFrames host) s = .next t ∧ t.hi.selvageResult = .ok ∧
        (∀ k ∈ requestFrames r, t.mem.frameOwner k = some p) ∧
        (∀ k, k ∉ requestFrames r → t.mem.frameOwner k = s.mem.frameOwner k) ∧
        (∀ a, a / 2 ^ 21 ∈ requestFrames r → s.mem.frameOwner (a / 2 ^ 21) ≠ some p → t.mem.byte a = 0) ∧
        (∀ a, a / 2 ^ 21 ∉ requestFrames r ∨ s.mem.frameOwner (a / 2 ^ 21) = some p → t.mem.byte a = s.mem.byte a)) ∧
    (r.kind = 3 → u.frameForm false r = none → u.frameReach p r = none →
      ∃ t, exec (.releaseFrames host) s = .next t ∧ t.hi.selvageResult = .ok ∧
        (∀ k ∈ requestFrames r, t.mem.frameOwner k ≠ some p) ∧
        (∀ k, k ∉ requestFrames r → t.mem.frameOwner k = s.mem.frameOwner k) ∧ (t.part p).tlb = [] ∧ t.mem.bytes = s.mem.bytes) ∧
    (r.kind = 4 → r.payload.length = 4098 → at_ r.payload 0 2 < 2 ^ 14 →
      (∀ o, o ≠ p → (s.part o).endpoint ≠ some (at_ r.payload 0 2)) →
      ∃ t, exec (.setEndpoints host) s = .next t ∧ t.hi.selvageResult = .ok ∧
        t.part p = { s.part p with
          endpoint := some (at_ r.payload 0 2), sendPerm := BitVec.ofNat 16384 (le ((r.payload.drop 2).take 2048)),
          recvPerm := BitVec.ofNat 16384 (le (r.payload.drop 2050)) } ∧
        (∀ o, o ≠ p → t.part o = s.part o) ∧ t.mem = s.mem) ∧
    (r.kind = 5 → r.payload.length = 8 → at_ r.payload 0 8 < 4 →
      ∃ t, exec (.memoryEncryption host) s = .next t ∧ t.hi.selvageResult = .ok ∧
        (t.part p).memKey.isSome = bit (at_ r.payload 0 1) 0 ∧
        (bit (at_ r.payload 0 1) 0 ≠ (s.part p).memKey.isSome ∨ bit (at_ r.payload 0 1) 1 = true →
          ∀ a, sget 0 s.mem.owner (a / 2 ^ 21) = p.val + 1 → t.mem.byte a = 0) ∧
        (bit (at_ r.payload 0 1) 0 = (s.part p).memKey.isSome → bit (at_ r.payload 0 1) 1 = false → t.mem = s.mem)))

/-! ### Resets of a part of the package (14 R422 to R424) -/

/-- PARTITION_RESET, PARTITION_RESET_DONE and PF_FUNCTION_LEVEL_RESET (14 R422, R423). A partition that resets loses its
commands, counters and registers and keeps its cores, endpoint and permissions and the base of its flow table, whose
generation goes up by one; no other partition changes. The end of its reset leaves it DISABLED. A function-level reset
of the PF resets every partition and the registers of the package block and of the fabric. The partial resets (14 R424;
13 R378, R379), not while another is in progress. A Velac reset drops every UP port of its die, and while no Peg match
is armed no other, and loses no table. A Seam adapter's reset stops a Seam that is not down for retraining, its pending
proposals discarded. A core's needs two unused spares of its die (16 R464): at the next epoch boundary its logical id
moves to a spare; at a later one, 2 ms on, the physical core returns when it passed its test, and retires when it failed, its
logical id on the spare. With fewer spares for 10 ms, or for an absent core, the result is DEFERRED and no core moves. An INDEX
out of range is INVALID_COMMAND. The model's readings (log entry 102): a core that no partition in use owns has no boundary to
wait for, an absent core is DEFERRED, and the reset and its test take 2 ms. -/
def Obligations.ResetsOfParts : Prop :=
  ((∀ (s : State) (fn : Fn) (p : Fin 4), (s.mayWritePart fn p = true ∨ s.mayWritePkg fn = true) → (s.part p).state ≠ .resetting →
    ∃ t, exec (.partitionReset fn p) s = .next t ∧ (t.part p).state = .resetting ∧ (∀ k, (t.part p).counter k = 0) ∧
      (∀ q, (t.part p).queue q = Queue.reset) ∧ (∀ g, (t.part p).group g = Group.reset) ∧ (t.part p).shadows = [] ∧
      (t.part p).cores = (s.part p).cores ∧ (t.part p).endpoint = (s.part p).endpoint ∧
      (t.part p).sendPerm = (s.part p).sendPerm ∧ (t.part p).recvPerm = (s.part p).recvPerm ∧
      (t.part p).flowEnable = false ∧ (t.part p).flowBase = (s.part p).flowBase ∧
      (t.part p).generation = ((s.part p).generation + 1) % 65536 ∧
      (∀ n, n < 16 → s.fab.owner n = p.val → t.fab.plan n ≠ .active) ∧
      (∀ r, r ≠ p → t.part r = s.part r) ∧ t.host = s.host ∧ t.tick = s.tick) ∧
  (∀ (s : State) (p : Fin 4), (s.part p).state = .resetting →
    ∃ t, exec (.partitionResetDone p) s = .next t ∧ t.part p = { s.part p with state := .disabled } ∧
      (∀ r, r ≠ p → t.part r = s.part r) ∧ t.mem = s.mem) ∧
  (∀ s : State, ∃ t, exec .pfFunctionLevelReset s = .next t ∧
    (∀ p, (t.part p).state = .resetting ∧ (t.part p).cores = (s.part p).cores) ∧
    (∀ p q, (s.part p).state ≠ .resetting → (t.part p).queue q = Queue.reset) ∧
    t.fab.cfg = 0x140000 ∧ (∀ d v, t.fab.route d v = none) ∧ t.fab.endpoint = s.fab.endpoint ∧
    t.hi.vfEnable = false ∧ t.hi.selvageBusy = none ∧ t.hi.linkUp = s.hi.linkUp ∧
    (∀ i : Fin 32, (t.port i).quota = 0 ∧ bit (t.port i).ctrl.toNat 0 = true ∧ (t.port i).state ≠ .disabled) ∧ t.host = s.host))
  ∧ (∀ s : State, s.life.deviceReady = true → s.hi.partialBusy = none →
    (∀ index, index ≤ 3 → ∃ t, exec (.partialResetVelac index) s = .next t ∧ t.hi.partialResult = .ok ∧ t.hi.partialBusy = none ∧
      (∀ i : Fin 32, i.val / 8 = index → (t.port i).state ≠ .up ∧ ((s.port i).state = .up → (t.port i).state = .down)) ∧
      (s.unarmed → ∀ i : Fin 32, i.val / 8 ≠ index → t.port i = s.port i) ∧ t.fab = s.fab ∧ t.parts = s.parts ∧ t.mem = s.mem) ∧
    (∀ (i : Fin 12) (atB : Bool), ∃ t, exec (.partialResetSeamAdapter i.val atB) s = .next t ∧ t.hi.partialResult = .ok ∧
      ((s.seams[i]).down = false → (t.seams[i]).retraining = true ∧ (t.seams[i]).linkUp = false) ∧
      (if atB then (t.seams[i]).pendingB = none else (t.seams[i]).pendingA = none) ∧
      (t.seams[i]).committed = (s.seams[i]).committed ∧ (∀ j, j ≠ i → t.seams[j] = s.seams[j]) ∧ t.mem = s.mem) ∧
    (∀ index passed sp sp' r, index < 1280 → s.cores.absent.getLsbD index = false → s.coreReset index = none →
      s.cores.freeSpares (index / 320) = sp :: sp' :: r → (∀ p, (s.part p).ownsCore index = true → (s.part p).state = .disabled) →
      ∃ t u, exec (.partialResetCore index passed) s = .next t ∧ t.cores.phys index = sp ∧ t.hi.partialBusy ≠ none ∧
        exec (.partialResetCore index passed) t = .next u ∧ u.hi.partialResult = .ok ∧ u.hi.partialBusy = none ∧
        s.tick + 2000000 ≤ u.tick ∧ u.cores.absent = s.cores.absent ∧
        (passed = true → u.cores.phys index = s.cores.phys index ∧ u.cores.retired = s.cores.retired) ∧
        (passed = false → u.cores.phys index = sp ∧ s.cores.phys index ∈ u.cores.retired)) ∧
    (∀ index passed, index < 1280 → s.coreReset index = none →
      (s.cores.absent.getLsbD index = true ∨ (s.cores.freeSpares (index / 320)).length < 2) →
      ∃ t, exec (.partialResetCore index passed) s = .next t ∧ t.hi.partialResult = .deferred ∧ t.hi.partialBusy = none ∧
        t.tick = s.tick + 10000000 ∧ t.cores = s.cores) ∧
    (∀ index atB passed, (3 < index → ∃ t, exec (.partialResetVelac index) s = .next t ∧ t.hi.partialResult = .invalid ∧ t.ports = s.ports) ∧
      (12 ≤ index → ∃ t, exec (.partialResetSeamAdapter index atB) s = .next t ∧ t.hi.partialResult = .invalid ∧ t.seams = s.seams) ∧
      (1280 ≤ index → ∃ t, exec (.partialResetCore index passed) s = .next t ∧ t.hi.partialResult = .invalid ∧ t.cores = s.cores)))

/-! ### Seams (10) -/

/-- SEAM_FLIT_RECEIVE (10 R275 to R277). On a Seam whose link is up, a flit that its transmitter can have sent arrives.
A good one with the expected number is delivered once and the number advances; the 64th since the last acknowledgement
is acknowledged at once, an earlier one starts the timer. A good one with another number delivers nothing. A bad one
asks for a resend and delivers nothing; a further one, until that resend begins, asks for nothing. No other Seam, no
partition and no memory changes. -/
def Obligations.SeamReceivesFlits : Prop :=
  ∀ (s : State) (i : Fin 12) (d : Dir) (f : Flit) (v : SeamDir), v = (s.seams[i]).dir d → f.payload.length = 248 →
    (s.seams[i]).linkUp = true → v.mayArrive (seamDepth i.val s.packageLevel.toNat) f (flitOk f) = true →
    (flitOk f = true → f.seq.toNat = v.rxExpected % 65536 →
      ∃ t, exec (.seamFlitReceive i d f) s = .next t ∧ ((t.seams[i]).dir d).rxExpected = v.rxExpected + 1 ∧
        ((t.seams[i]).dir d).nacked = false ∧
        (f.stream.toNat ≤ 6 → ((t.seams[i]).dir d).delivered = (f.stream.toNat, f.payload) :: v.delivered) ∧
        (6 < f.stream.toNat → ((t.seams[i]).dir d).delivered = v.delivered) ∧
        (63 ≤ v.sinceAck → ((t.seams[i]).dir d).ackDue = none ∧ ((t.seams[i]).dir d).sinceAck = 0 ∧
          t.out = .seamAck i.val d ((v.rxExpected + 1) % 65536) :: s.out) ∧
        (v.sinceAck < 63 → ((t.seams[i]).dir d).ackDue = some (s.tick + 100) ∧
          ((t.seams[i]).dir d).sinceAck = v.sinceAck + 1 ∧ t.out = s.out) ∧
        (∀ j, j ≠ i → t.seams[j] = s.seams[j]) ∧ t.parts = s.parts ∧ t.mem = s.mem ∧ t.host = s.host) ∧
    (flitOk f = true → f.seq.toNat ≠ v.rxExpected % 65536 →
      ∃ t, exec (.seamFlitReceive i d f) s = .next t ∧ ((t.seams[i]).dir d).rxExpected = v.rxExpected ∧
        ((t.seams[i]).dir d).delivered = v.delivered ∧ (∀ j, j ≠ i → t.seams[j] = s.seams[j]) ∧ t.out = s.out ∧
        t.parts = s.parts ∧ t.mem = s.mem ∧ t.host = s.host) ∧
    (flitOk f = false →
      ∃ t, exec (.seamFlitReceive i d f) s = .next t ∧ ((t.seams[i]).dir d).rxExpected = v.rxExpected ∧
        ((t.seams[i]).dir d).nacked = true ∧ ((t.seams[i]).dir d).delivered = v.delivered ∧
        sget 0 t.obs.count (ctrKey 5 i.val (seamCtr d + 1)) = (sget 0 s.obs.count (ctrKey 5 i.val (seamCtr d + 1)) + 1) % 2 ^ 64 ∧
        (v.nacked = false → t.out = .seamNack i.val d (v.rxExpected % 65536) :: s.out) ∧ (v.nacked = true → t.out = s.out) ∧
        (∀ j, j ≠ i → t.seams[j] = s.seams[j]) ∧ t.parts = s.parts ∧ t.mem = s.mem ∧ t.host = s.host)

/-- The retry of a Seam's transmitter (10 R275, R276): the receiver's timer acknowledges what it expects; an
acknowledgement removes exactly the flits before its number; a NACK resends, in order and each on the module of its
number, every flit from its number on; a flit resent four times stops the Seam for a retraining, as does no progress for
2 µs while flits are outstanding. SEAM_RETRAINING (10 R281, R285, R286): the ends reconcile their maps and mark the
lanes that fail; the link comes up when a usable module and two control lanes remain in each direction, and otherwise
the Seam is down; every partition in force that has had fewer than two faults goes back to its cut; the retraining takes
12 µs. A link that comes up has the lowest two good control lanes active. That the retraining takes all of its 12 µs (log entry
65) and that the restored counters keep the remote signals received since the cut (log entry 77) are the model's readings. -/
def Obligations.SeamRetryAndRetraining : Prop :=
  (∀ (s : State) (i : Fin 12) (d : Dir) (v : SeamDir), v = (s.seams[i]).dir d →
    (∀ due, v.ackDue = some due → ∃ t, exec (.seamAckTimer i d) s = .next t ∧ t.tick = max s.tick due ∧
      ((t.seams[i]).dir d).ackDue = none ∧ ((t.seams[i]).dir d).sinceAck = 0 ∧ ((t.seams[i]).dir d).retry = v.retry ∧
      t.out = .seamAck i.val d (v.rxExpected % 65536) :: s.out) ∧
    (∀ seq, ∃ t, exec (.seamAckReceive i d seq) s = .next t ∧
      (∀ r, r ∈ ((t.seams[i]).dir d).retry ↔ r ∈ v.retry ∧ seqBefore (r.seq % 65536) (seq % 65536) = false) ∧
      ((t.seams[i]).dir d).rxExpected = v.rxExpected ∧ t.parts = s.parts ∧ t.mem = s.mem ∧ t.out = s.out) ∧
    (∀ seq, (s.seams[i]).linkUp = true → (∀ r ∈ v.retry, seqBefore (r.seq % 65536) (seq % 65536) = false → r.resends < 4) →
      ∃ t, exec (.seamNackReceive i d seq) s = .next t ∧ ((t.seams[i]).dir d).nacked = false ∧
        ((t.seams[i]).dir d).retry =
          v.retry.map (fun r => if seqBefore (r.seq % 65536) (seq % 65536) then r else { r with resends := r.resends + 1 }) ∧
        t.out = ((v.retry.filter (fun r => !seqBefore (r.seq % 65536) (seq % 65536))).map
          (fun r => Out.seamFlit i.val d (v.moduleOf r.seq) (r.seq % 65536) r.flit)).reverse ++ s.out ∧
        t.parts = s.parts ∧ t.mem = s.mem) ∧
    ((s.seams[i]).linkUp = true → (s.seams[i]).down = false → v.retry ≠ [] →
      ∃ t, exec (.seamRetryExhausted i d) s = .next t ∧ (t.seams[i]).retraining = true ∧ (t.seams[i]).linkUp = false ∧
        ((t.seams[i]).dir d).retry = [] ∧ (t.seams[i]).pendingA = none ∧ (t.seams[i]).pendingB = none ∧
        ((∀ r ∈ v.retry, r.resends < 4) → t.tick = max s.tick (v.progressAt + 2000)) ∧ (∀ j, j ≠ i → t.seams[j] = s.seams[j]) ∧
        t.parts = s.parts ∧ t.mem = s.mem))
  ∧ (∀ (s : State) (i : Fin 12) (failing : List LaneResult) (y : Seam), (s.seams[i]).retraining = true →
    y = failing.foldl Seam.localMark (s.seams[i]).reconcile →
    ∃ t, exec (.seamRetraining i failing) s = .next t ∧ (t.seams[i]).retraining = false ∧ s.tick + 12000 ≤ t.tick ∧
      (t.seams[i]).mapA = y.mapA ∧ (t.seams[i]).mapB = y.mapB ∧ (t.seams[i]).disputed = y.disputed ∧
      (y.canRun i.val = true → (t.seams[i]).linkUp = true ∧ ∀ d, ((t.seams[i]).dir d).active = (y.controls d).take 2) ∧
      (y.canRun i.val = false → (t.seams[i]).linkUp = false ∧ (t.seams[i]).down = true) ∧
      (∀ j, j ≠ i → t.seams[j] = s.seams[j]) ∧
      (∀ p, (s.part p).live = true → (s.part p).faultsFromCut < 2 → (t.part p).openEpoch = (s.part p).base.epoch ∧
        ∀ k, (t.part p).counter k = (s.part p).counterAtCut k))

/-- CONTROL_WORD_RECEIVE and the changes of a lane map (10 R279, R280, R283, R288). A word on two active lanes is
delivered; one with one wrong bit is corrected and counted, one with more stops the Seam. A map is proposed only when it
says something new of a lane and no proposal is out; both ends hold it pending until the commit, which makes it the
working map of both and the committed one. The end of a background test commits its map and leaves no lane disputed; a
flit already numbered keeps its module. -/
def Obligations.LaneMapsChange : Prop :=
  ∀ (s : State) (i : Fin 12),
    (∀ d w, (s.seams[i]).down = false → 2 ≤ ((s.seams[i]).dir d).active.length →
      (Config.codeErrors w.toNat ≤ 1 → ∃ t, exec (.controlWordReceive i d w) s = .next t ∧
        ((t.seams[i]).dir d).words = Config.codeData w.toNat :: ((s.seams[i]).dir d).words ∧
        (t.seams[i]).linkUp = (s.seams[i]).linkUp ∧ (∀ j, j ≠ i → t.seams[j] = s.seams[j]) ∧
        sget 0 t.obs.count (ctrKey 5 i.val 7) =
          (if Config.codeErrors w.toNat = 1 then (sget 0 s.obs.count (ctrKey 5 i.val 7) + 1) % 2 ^ 64
           else sget 0 s.obs.count (ctrKey 5 i.val 7))) ∧
      (2 ≤ Config.codeErrors w.toNat → ∃ t, exec (.controlWordReceive i d w) s = .next t ∧ (t.seams[i]).retraining = true ∧
        (t.seams[i]).linkUp = false ∧ (∀ j, j ≠ i → t.seams[j] = s.seams[j]))) ∧
    ((s.seams[i]).linkUp = true → (s.seams[i]).pendingB = none → (s.seams[i]).proposal.same (s.seams[i]).committed = false →
      ∃ t, exec (.laneMapProposal i) s = .next t ∧ (t.seams[i]).pendingA = some (s.seams[i]).proposal ∧
        (t.seams[i]).pendingB = some (s.seams[i]).proposal ∧ (t.seams[i]).mapA = (s.seams[i]).mapA ∧
        (t.seams[i]).committed = (s.seams[i]).committed ∧
        t.out = .mapProposal i.val ((s.seams[i]).proposal.bytes i.val) :: s.out) ∧
    ((s.seams[i]).pendingB ≠ none → exec (.laneMapProposal i) s = .next s) ∧
    (∀ m m', (s.seams[i]).pendingA = some m → (s.seams[i]).pendingB = some m' →
      ∃ t, exec (.laneMapCommit i) s = .next t ∧ (t.seams[i]).mapA = m ∧ (t.seams[i]).mapB = m ∧ (t.seams[i]).committed = m ∧
        (t.seams[i]).pendingA = none ∧ (t.seams[i]).pendingB = none ∧ t.parts = s.parts ∧ t.mem = s.mem) ∧
    (∀ failing, (s.seams[i]).linkUp = true → (s.seams[i]).disputed ≠ [] →
      ∃ t, exec (.backgroundLaneTestEnd i failing) s = .next t ∧ (t.seams[i]).disputed = [] ∧
        (t.seams[i]).mapA = (t.seams[i]).committed ∧ (t.seams[i]).mapB = (t.seams[i]).committed ∧
        (t.seams[i]).committed.generation = ((s.seams[i]).mapA.union (s.seams[i]).mapB).next ∧ (t.seams[i]).linkUp = true ∧
        (∀ d n, n < ((s.seams[i]).dir d).txNext → ((t.seams[i]).dir d).moduleOf n = ((s.seams[i]).dir d).moduleOf n) ∧
        t.parts = s.parts ∧ t.mem = s.mem)

/-! ### Links of the fabric (11 R299 to R304, R325, R331, R336) -/

/-- LINK_FRAME_RECEIVE (11 R300 to R302) at a port that is UP. A good frame with the expected number is delivered once:
its body joins its stream's bytes and the number advances; the 32nd since the last acknowledgement is acknowledged in
the next frame, an earlier one starts the timer. A good frame with another number changes nothing. A bad frame asks for
a resend in the next frame, unless one is out and its number is not the one asked for. No other port changes. -/
def Obligations.LinkReceivesFrames : Prop :=
  ∀ (s : State) (i : Fin 32) (f : Frame) (P : Port), P = s.port i → f.body.length = 244 → s.portUp i = true →
    (frameOk f = true → fld f.header.toNat 0 16 = P.rxExpected.toNat →
      ∃ t, exec (.linkFrameReceive i f) s = .next t ∧ (t.port i).rxExpected = P.rxExpected + 1 ∧ (t.port i).nacked = false ∧
        (P.sinceAck < 31 → (t.port i).ackDue = some (s.tick + 200) ∧ (t.port i).sinceAck = P.sinceAck + 1) ∧
        (31 ≤ P.sinceAck → (t.port i).ackDue = none ∧ (t.port i).sinceAck = 0 ∧
          (P.retry.length < 1024 → Acknowledges s t i (P.rxExpected + 1).toNat false)) ∧
        (fld f.header.toNat 16 4 ≤ 8 →
          sget [] (t.port i).rxStreams (creditKey (fld f.header.toNat 16 4) (bit f.header.toNat 20)) =
            sget [] P.rxStreams (creditKey (fld f.header.toNat 16 4) (bit f.header.toNat 20)) ++ f.body.take (fld f.header.toNat 24 8)) ∧
        (∀ j : Fin 32, j ≠ i → t.port j = s.port j) ∧ t.parts = s.parts ∧ t.mem = s.mem) ∧
    (frameOk f = true → fld f.header.toNat 0 16 ≠ P.rxExpected.toNat → exec (.linkFrameReceive i f) s = .next s) ∧
    (frameOk f = false →
      ∃ t, exec (.linkFrameReceive i f) s = .next t ∧ (t.port i).nacked = true ∧ (t.port i).rxExpected = P.rxExpected ∧
        (t.port i).rxStreams = P.rxStreams ∧ sget 0 (t.port i).telemetry 3 = (sget 0 P.telemetry 3 + 1) % 2 ^ 64 ∧
        (P.nacked = false ∨ fld f.header.toNat 0 16 = P.rxExpected.toNat → P.retry.length < 1024 →
          Acknowledges s t i P.rxExpected.toNat true) ∧
        (P.nacked = true → fld f.header.toNat 0 16 ≠ P.rxExpected.toNat → t.out = s.out) ∧
        (∀ j : Fin 32, j ≠ i → t.port j = s.port j) ∧ t.parts = s.parts ∧ t.mem = s.mem)

/-- A frame slot of a port that is UP and has room to keep a frame (11 R300 to R302, R306). It goes to VC 7 when that
can send and has had fewer than two of the last 63 slots, else on the same terms to VC 6; when no stream can send, only
what the header carries back makes a frame, of STREAM 15 and no bytes. The frame takes the next number and a good CRC,
is kept for a resend, and carries the acknowledgement that was due; one of a stream spends a credit, a dedicated one
before a shared one. -/
def Obligations.FrameSlots : Prop :=
  ∀ (P : Port) (tick stamp : Nat) (cut : Bool) (shares : List (Nat × Nat)), P.state = .up → P.retry.length < 1024 →
    (∀ Q f l, P.slot tick stamp cut shares = some (Q, f, l) →
      fld f.header.toNat 0 16 = P.txNext.toNat ∧ frameOk f = true ∧ f.body.length = 244 ∧ Q.txNext = P.txNext + 1 ∧
        Q.retry = P.retry ++ [(f, 0)] ∧ Q.ackOut = false ∧ Q.nackOut = false ∧
        bit f.header.toNat 48 = (P.ackOut || P.nackOut) ∧ bit f.header.toNat 49 = P.nackOut ∧
        (P.ackOut = true ∨ P.nackOut = true → fld f.header.toNat 32 16 = P.rxExpected.toNat)) ∧
    (∀ k, P.used 1 < 2 → P.sendable 7 none = some k → ∃ Q f l, P.slot tick stamp cut shares = some (Q, f, l) ∧
      fld f.header.toNat 16 4 = 7 ∧ Q.used 1 ≤ P.used 1 + 1 ∧
      (sget 0 P.credits k ≠ 0 → Q.credits = sset 0 P.credits k (sget 0 P.credits k - 1)) ∧
      (sget 0 P.credits k = 0 → Q.credits = sset 0 P.credits sharedKey (sget 0 P.credits sharedKey - 1))) ∧
    (∀ k, (2 ≤ P.used 1 ∨ P.sendable 7 none = none) → P.used 2 < 2 → P.sendable 6 none = some k →
      ∃ Q f l, P.slot tick stamp cut shares = some (Q, f, l) ∧ fld f.header.toNat 16 4 = 6) ∧
    ((∀ stream, stream ≤ 8 → P.sendable stream none = none) → (∀ x ∈ shares, P.sendable 8 (some x.1) = none) →
      (P.ackOut = false → P.nackOut = false → P.creditsOut = [] → P.slot tick stamp cut shares = none) ∧
      (P.ackOut = true ∨ P.nackOut = true ∨ P.creditsOut ≠ [] → ∃ Q f, P.slot tick stamp cut shares = some (Q, f, []) ∧
        fld f.header.toNat 16 4 = 15 ∧ fld f.header.toNat 24 8 = 0 ∧ Q.credits = P.credits))

/-- LINK_ACK_TIMER, LINK_NACK_RECEIVE, LINK_DROP and PORT_LOST (11 R302, R304, R329). The receiver's timer acknowledges
what it expects in the next frame; a NACK resends every frame from its number on, in order; a frame resent eight times,
or no progress for 10 µs while frames are outstanding, drops the link, which retrains with nothing in flight; a port
that is not UP 1 s after its drop, or dropped 16 times in 24 hours, is LOST, and no plan that uses it stays ACTIVE. -/
def Obligations.LinkRetryAndLoss : Prop :=
  ∀ (s : State) (i : Fin 32) (P : Port), P = s.port i →
    (∀ due, P.ackDue = some due → ∃ t, exec (.linkAckTimer i) s = .next t ∧ t.tick = max s.tick due ∧
      (t.port i).ackDue = none ∧ (t.port i).sinceAck = 0 ∧ (t.port i).rxExpected = P.rxExpected ∧
      (s.portUp i = true → P.retry.length < 1024 → Acknowledges s t i P.rxExpected.toNat false) ∧
      (∀ j : Fin 32, j ≠ i → t.port j = s.port j) ∧ t.fab = s.fab ∧ t.parts = s.parts ∧ t.mem = s.mem ∧ t.host = s.host) ∧
    (∀ seq, s.portUp i = true → (∀ r ∈ P.retry, seqBefore (fld r.1.header.toNat 0 16) (seq % 65536) = false → r.2 < 8) →
      ∃ t, exec (.linkNackReceive i seq) s = .next t ∧
        (t.port i).retry = P.retry.map (fun r => if seqBefore (fld r.1.header.toNat 0 16) (seq % 65536) then r else (r.1, r.2 + 1)) ∧
        t.out = ((P.retry.filter (fun r => !seqBefore (fld r.1.header.toNat 0 16) (seq % 65536))).map (fun r => Out.frame i.val r.1)).reverse ++ s.out ∧
        (t.port i).rxExpected = P.rxExpected ∧ (∀ j : Fin 32, j ≠ i → t.port j = s.port j) ∧ t.fab = s.fab ∧ t.parts = s.parts ∧
        t.mem = s.mem ∧ t.host = s.host ∧ t.tick = s.tick) ∧
    (P.state = .up → P.retry ≠ [] →
      ∃ t, exec (.linkDrop i) s = .next t ∧ (t.port i).state = .down ∧ (t.port i).retry = [] ∧ (t.port i).credits = [] ∧
        (t.port i).trained = false ∧ (t.port i).lostDue = some (t.tick + 1000000000) ∧ t.tick ∈ (t.port i).drops ∧
        ((∀ r ∈ P.retry, r.2 < 8) → t.tick = max s.tick (P.progressAt + 10000)) ∧
        (s.unarmed → ∀ j : Fin 32, j ≠ i → t.port j = s.port j) ∧ t.fab = s.fab ∧ t.parts = s.parts ∧ t.mem = s.mem ∧
        t.host = s.host) ∧
    (P.state ≠ .lost → P.state ≠ .disabled →
      (16 ≤ (P.drops.filter (fun t => decide (s.tick < t + 86400000000000))).length ∨ (P.state ≠ .up ∧ P.lostDue ≠ none)) →
      ∃ t, exec (.portLost i) s = .next t ∧ (t.port i).state = .lost ∧
        ((P.drops.filter (fun t => decide (s.tick < t + 86400000000000))).length < 16 →
          ∀ due, P.lostDue = some due → max s.tick due ≤ t.tick) ∧
        (∀ n, n < 16 → (s.fab.planCircuits n).any (fun x => ceUses x.2 i.val) = true →
          t.fab.plan n ≠ .active ∧ (s.fab.plan n = .active → t.fab.plan n = .fault)) ∧
        ((∀ n, n < 16 → s.fab.plan n = .active → (s.fab.planCircuits n).any (fun x => ceUses x.2 i.val) = false) →
          t.fab = s.fab ∧ t.parts = s.parts ∧ t.mem = s.mem)) ∧
    ((P.state = .lost ∨ P.state = .disabled) → exec (.portLost i) s = .next s)

/-- PORT_TRAINED and HELLO_RECEIVE (11 R303, R333). A port that trains takes its MEDIUM and ENCRYPT and sends its hello.
The partner's identity shows from its hello on; hellos that agree on ENCRYPT bring the port UP, those that do not leave
it in MISMATCH; one for a port whose training is not done changes nothing. The registers of a port (11 R304, R325, R331,
R336; Tables 11.14, 11.16), by the PF after DEVICE_READY. ENABLE 1 to 0 turns the port off, 0 to 1 trains it. A quota
whose shares sum to more than 60 leaves all four unchanged. A key switch takes the other slot of a direction of an
encrypted port, whose key is new and whose packet counter is 0, and leaves the other direction alone. CLEAR_MAX clears
every DEPTH_MAX and no other telemetry. A stream that has waited 1 ms at an UP port without a credit is recorded and
stays queued. -/
def Obligations.LinkTrainingAndRegisters : Prop :=
  (∀ (s : State) (i : Fin 32) (P : Port), P = s.port i →
    ((P.state = .training ∨ P.state = .down) →
      ∃ t h, exec (.portTrained i) s = .next t ∧ (t.port i).trained = true ∧ (t.port i).medium = fld P.ctrl.toNat 1 2 ∧
        (t.port i).encryptTrained = bit P.ctrl.toNat 3 ∧ (t.port i).state = P.state ∧ t.out = .hello i.val h :: s.out ∧
        h.encrypt = bit P.ctrl.toNat 3 ∧ h.endpoint.toNat = s.fab.endpoint % 2 ^ 14 ∧ h.port.toNat = i.val) ∧
    (∀ h, P.trained = true → (P.state = .training ∨ P.state = .down) →
      (h.encrypt = P.encryptTrained →
        ∃ t, exec (.helloReceive i h) s = .next t ∧ (t.port i).state = .up ∧ (t.port i).partnerPort = h.port.toNat ∧
          (t.port i).partnerEndpoint = h.endpoint.toNat ∧ (t.port i).encrypted = h.encrypt ∧ (t.port i).lostDue = none ∧
          (s.fab.held = [] → t.parts = s.parts ∧ t.mem = s.mem)) ∧
      (h.encrypt ≠ P.encryptTrained →
        ∃ t, exec (.helloReceive i h) s = .next t ∧ (t.port i).state = .mismatch ∧ (t.port i).partnerPort = h.port.toNat ∧
          (t.port i).partnerEndpoint = h.endpoint.toNat ∧ t.out = s.out ∧
          (∀ j : Fin 32, j ≠ i → t.port j = s.port j))) ∧
    (∀ h, P.trained = false → exec (.helloReceive i h) s = .next s))
  ∧ (∀ (s : State) (fn : Fn) (i : Fin 32) (P : Port), P = s.port i →
    (∀ v, s.mayWritePkg fn = true →
      ∃ t, exec (.portEnableWrite fn i v) s = .next t ∧ (t.port i).ctrl = portCtrl P.ctrl v ∧
        (bit P.ctrl.toNat 0 = true → bit (portCtrl P.ctrl v).toNat 0 = false → (t.port i).state = .disabled ∧ (t.port i).trained = false) ∧
        (bit P.ctrl.toNat 0 = false → bit (portCtrl P.ctrl v).toNat 0 = true → (t.port i).state = .training ∧ (t.port i).drops = []) ∧
        (bit P.ctrl.toNat 0 = bit (portCtrl P.ctrl v).toNat 0 → (t.port i).state = P.state) ∧
        (s.unarmed → ∀ j : Fin 32, j ≠ i → t.port j = s.port j) ∧ t.fab = s.fab ∧ t.parts = s.parts) ∧
    (∀ v, s.mayWritePkg fn = true →
      (quotaOf v.toNat 0 + quotaOf v.toNat 1 + quotaOf v.toNat 2 + quotaOf v.toNat 3 ≤ 60 →
        ∃ t, exec (.portQuotaWrite fn i v) s = .next t ∧ (∀ p, p < 4 → quotaOf (t.port i).quota.toNat p = quotaOf v.toNat p) ∧
          (∀ j : Fin 32, j ≠ i → t.port j = s.port j)) ∧
      (60 < quotaOf v.toNat 0 + quotaOf v.toNat 1 + quotaOf v.toNat 2 + quotaOf v.toNat 3 →
        exec (.portQuotaWrite fn i v) s = .next s)) ∧
    (∀ tx, P.encrypted = true → ∃ t, exec (.keySlotSwitch i tx) s = .next t ∧
      (tx = true → (t.port i).txSlot = !P.txSlot ∧ (t.port i).txKey.installed = true ∧ (t.port i).txKey.counter = 0 ∧
        (t.port i).rxSlot = P.rxSlot ∧ (t.port i).rxKeys = P.rxKeys) ∧
      (tx = false → (t.port i).rxSlot = !P.rxSlot ∧
        (if (t.port i).rxSlot then (t.port i).rxKeys[1] else (t.port i).rxKeys[0]).counter = 0 ∧
        (t.port i).txSlot = P.txSlot ∧ (t.port i).txKeys = P.txKeys)) ∧
    (s.mayWritePkg fn = true → ∃ t, exec (.telemetryClearMax fn) s = .next t ∧
      (∀ (j : Fin 32) k, sget 0 (t.port j).telemetry k = if 96 ≤ k ∧ k < 105 then 0 else sget 0 (s.port j).telemetry k)) ∧
    (∀ stream cls k, s.portUp i = true → stream ≤ 8 → cls ≤ 1 → k = 2 * stream + cls → P.spend k = none →
      ((sget Sending.none P.sending k).bytes ≠ [] ∨ P.egress.any (fun x => packetKey x == k) = true) →
      ∃ t, exec (.fabricStall i stream cls) s = .next t ∧ t.tick = max s.tick (sget 0 P.waitSince k + 1000000) ∧
        (t.port i).stall = some (stream, cls) ∧ (s.unarmed → (t.port i).egress = P.egress ∧ (t.port i).sending = P.sending) ∧
        t.hi.pkgHealthWritten + t.hi.pkgHealthDrops = s.hi.pkgHealthWritten + s.hi.pkgHealthDrops + 1))

/-! ### Packets of the fabric (11 R307 to R330; 12 R346) -/

/-- PACKET_RECEIVE (11 R313, Table 11.8; 02 R61) of a packet that comes in by a port. The signal its flow expects sets
its counter to the larger of the two values and no other counter, and the receive entry goes up by one; the bytes its
flow expects are in the window and have arrived. The acknowledgement waits, or leaves with the 32nd. A packet of an
older generation is counted STALE and changes nothing else. One on a VC that does not carry its kind, or that no routing
entry delivers here, is counted MISROUTED: the model's reading (log entry 72), for Table 11.8 has no such row. -/
def Obligations.PacketsArrive : Prop :=
  ∀ (s : State) (i : Fin 32) (pkt : Packet), ComesIn s i pkt → pkt.circuit = false →
    (kindOnVc pkt = false ∨ (pkt.vc ≠ 6 ∧ s.delivers pkt = false) →
      ∃ t, exec (.packetReceive i pkt) s = .next t ∧
        sget 0 (t.port i).telemetry 9 = (sget 0 (s.port i).telemetry 9 + 1) % 2 ^ 64 ∧ t.parts = s.parts ∧ t.mem = s.mem ∧
        t.host = s.host ∧ OnlyQueued s t i) ∧
    (∀ (p : Fin 4) (a : Arrival) (r : RecvEntry), kindOnVc pkt = true → pkt.vc ≤ 5 → s.delivers pkt = true →
      s.endpointPart pkt.dest = some p →
      a = { p := p, flow := flowOf pkt.src pkt.vc, src := pkt.src, window := pkt.window, offset := pkt.offset } →
      (r = RecvEntry.of (s.flowEntry p (recvOffset a.flow)) → (s.taken i pkt).trailerOk = true → r.used = true →
        genOlder pkt.gen r.gen = true →
        ∃ t, exec (.packetReceive i pkt) s = .next t ∧
          sget 0 (t.port i).telemetry 11 = (sget 0 (s.port i).telemetry 11 + 1) % 2 ^ 64 ∧ t.parts = s.parts ∧ t.mem = s.mem ∧
          t.host = s.host ∧ OnlyQueued s t i) ∧
      (Expected s a (s.taken i pkt) r → pkt.kind = 0x02 →
        ∃ t, exec (.packetReceive i pkt) s = .next t ∧
          (t.part p).counter (fld pkt.aux 0 16) =
            maxW ((s.part p).counter (fld pkt.aux 0 16)) (BitVec.ofNat 32 (fld pkt.aux 16 32)) ∧
          (∀ q k, q ≠ p ∨ k ≠ fld pkt.aux 0 16 → (t.part q).counter k = (s.part q).counter k) ∧
          (∀ b, s.flowAddr p (recvOffset a.flow) = some b → le (t.mem.read b 8) =
            (r.expected + 1) % 2 ^ 32 + r.gen * 2 ^ 32 + 2 ^ 48) ∧
          t.host = s.host ∧
          ((sget (0, 0) (s.part p).ackDue a.flow).1 < 31 → OnlyQueued s t i ∧
            sget (0, 0) (t.part p).ackDue a.flow = ((sget (0, 0) (s.part p).ackDue a.flow).1 + 1, s.tick + 1000)) ∧
          (31 ≤ (sget (0, 0) (s.part p).ackDue a.flow).1 → sget (0, 0) (t.part p).ackDue a.flow = (0, 0))) ∧
      (∀ w x, Expected s a (s.taken i pkt) r → pkt.kind ≠ 0x02 → (s.part p).window pkt.window = some w →
        (∀ q ∈ (s.part p).queues, ∀ e ∈ q.2.entries, e.coll = none ∨ coWindow e.cmd ≠ pkt.window) →
        locate w.xlats (w.base + pkt.offset) = some (false, x) → (w.base + pkt.offset) % 65536 + pkt.payload.length ≤ 65536 →
        ∃ t, exec (.packetReceive i pkt) s = .next t ∧ t.mem.read x pkt.payload.length = pkt.payload ∧
          (t.part p).hasArrived pkt.window pkt.offset pkt.payload.length = true ∧ t.host = s.host ∧
          (∀ q k, (t.part q).counter k = (s.part q).counter k)))

/-- PACKET_FORWARD and CIRCUIT_PACKET (11 R320, R321, R326). A packet goes out whole by the first UP port of its route,
or by the OUT_PORT of its transit entry, as soon as a frame slot is its own; without a route it is counted MISROUTED,
without an UP port NO_ROUTE, and with an entry unused, of a source, or of another port it is counted MISROUTED; nothing
else changes then. No partition, no memory and no table changes. -/
def Obligations.PacketsAreForwarded : Prop :=
  ∀ (s : State) (i : Fin 32) (pkt : Packet), ComesIn s i pkt → kindOnVc pkt = true →
    (pkt.circuit = false →
      (s.fab.route pkt.dest pkt.vc = none → ∃ t, exec (.packetForward i pkt) s = .next t ∧
        sget 0 (t.port i).telemetry 9 = (sget 0 (s.port i).telemetry 9 + 1) % 2 ^ 64 ∧ t.parts = s.parts ∧ t.mem = s.mem ∧
        t.fab = s.fab ∧ OnlyQueued s t i) ∧
      (∀ r, s.fab.route pkt.dest pkt.vc = some r →
        (s.egress r = none → ∃ t, exec (.packetForward i pkt) s = .next t ∧
          sget 0 (t.port i).telemetry 10 = (sget 0 (s.port i).telemetry 10 + 1) % 2 ^ 64 ∧ t.parts = s.parts ∧ t.mem = s.mem ∧
          t.fab = s.fab ∧ OnlyQueued s t i) ∧
        (∀ o d, s.egress r = some (o, d) → o ≠ 32 →
          ∃ t, exec (.packetForward i pkt) s = .next t ∧ Leaves s t o pkt ∧ t.parts = s.parts ∧ t.mem = s.mem ∧
            t.fab = s.fab ∧ t.tick = s.tick))) ∧
    (∀ e, pkt.circuit = true → e = s.fab.circuit pkt.circuitId →
      (ceRole e = 0 ∨ ceRole e = 1 ∨ ceIn e ≠ i.val → ∃ t, exec (.circuitPacket i pkt) s = .next t ∧
        sget 0 (t.port i).telemetry 9 = (sget 0 (s.port i).telemetry 9 + 1) % 2 ^ 64 ∧ t.parts = s.parts ∧ t.mem = s.mem ∧
        t.fab = s.fab ∧ OnlyQueued s t i) ∧
      (ceRole e = 2 → ceIn e = i.val → s.portUp (ceOut e) = true →
        ∃ t, exec (.circuitPacket i pkt) s = .next t ∧ Leaves s t (ceOut e) pkt ∧ t.parts = s.parts ∧ t.mem = s.mem ∧
          t.fab = s.fab ∧ t.tick = s.tick) ∧
      (ceRole e = 2 → ceIn e = i.val → s.portUp (ceOut e) = false → ∃ t, exec (.circuitPacket i pkt) s = .next t ∧
        sget 0 (t.port i).telemetry 10 = (sget 0 (s.port i).telemetry 10 + 1) % 2 ^ 64 ∧ t.parts = s.parts ∧ t.mem = s.mem ∧
        t.fab = s.fab ∧ OnlyQueued s t i) ∧
      (∀ a w x r, ceRole e = 3 → ceIn e = i.val →
        a = { p := partOf (cePartition e), flow := circuitFlow pkt.circuitId, src := ceEndpoint e, window := ceWindow e,
              offset := pkt.offset : Arrival } →
        Expected s a (s.taken i pkt) r → (s.part a.p).window a.window = some w →
        (∀ q ∈ (s.part a.p).queues, ∀ e ∈ q.2.entries, e.coll = none ∨ coWindow e.cmd ≠ a.window) →
        locate w.xlats (w.base + pkt.offset) = some (false, x) → (w.base + pkt.offset) % 65536 + pkt.payload.length ≤ 65536 →
        ∃ t, exec (.circuitPacket i pkt) s = .next t ∧ t.mem.read x pkt.payload.length = pkt.payload ∧
          (t.part a.p).hasArrived a.window pkt.offset pkt.payload.length = true ∧ t.host = s.host ∧
          (∀ q k, (t.part q).counter k = (s.part q).counter k)))

/-- The acknowledgements of a flow (11 R315, R316; 13 Table 13.6). E2E_ACK_TIMER: the cumulative acknowledgement leaves
1 µs after the flow's last accepted packet. ACK_RECEIVE: exactly the flow's sends before the number are done with; a
NACK takes the partition back to its cut; a refusal ends the refused command as ISOLATION_FAULT. ACK_TIMEOUT: the first
of a flow takes the partition back to its cut at the packet's due time, the second ends the command as UNRECOVERABLE. The
model's readings (log entry 73): the acknowledgement covers exactly the sends before its number, the refused send is the one
before it, and the second time-out drops the sends of that command; and (log entry 77) the restored counters keep the remote
signals received since the cut. -/
def Obligations.FlowsAreAcknowledged : Prop :=
  (∀ (s : State) (p : Fin 4) (flow : Nat), (sget (0, 0) (s.part p).ackDue flow).1 ≠ 0 →
    ∃ t, exec (.e2eAckTimer p flow) s = .next t ∧ t.tick = max s.tick (sget (0, 0) (s.part p).ackDue flow).2 ∧
      sget (0, 0) (t.part p).ackDue flow = (0, 0) ∧ t.mem = s.mem ∧ (∀ q k, (t.part q).counter k = (s.part q).counter k) ∧
      (∀ r o d, s.fab.route (s.flowPeer flow) 7 = some r → s.egress r = some (o, d) → o ≠ 32 →
        s.flowPeer flow < 2 ^ 14 → Sends s t o 0x04)) ∧
  (∀ (s : State) (pkt : Packet) (p : Fin 4) (chan flow upTo status : Nat), pkt.wf = true → s.endpointPart pkt.dest = some p →
    pkt.circuit = false → pkt.kind = 0x04 → pkt.vc = 7 → s.life.deviceReady = true → pkt.authentic = true →
    pkt.trailerOk = true → s.delivers pkt = true →
    chan = fld pkt.aux 40 4 → flow = (if chan = 8 then circuitFlow (fld pkt.aux 44 12) else flowOf pkt.src chan) →
    upTo = fld pkt.aux 0 32 → status = fld pkt.aux 32 8 →
    (status = 0 → ∃ t, exec (.ackReceive pkt) s = .next t ∧
      (∀ x, x ∈ (t.part p).sends ↔ x ∈ (s.part p).sends ∧ ¬(x.flow = flow ∧ seqBelow x.seq upTo = true)) ∧
      (∀ q, q ≠ p → t.part q = s.part q) ∧ (∀ k, (t.part p).counter k = (s.part p).counter k) ∧ t.mem = s.mem ∧
      t.host = s.host ∧ t.out = s.out ∧ t.tick = s.tick) ∧
    (status = 1 ∨ status = 2 → (s.part p).live = true → (s.part p).faultsFromCut < 2 →
      ∃ t, exec (.ackReceive pkt) s = .next t ∧ (t.part p).openEpoch = (s.part p).base.epoch ∧
        (∀ k, (t.part p).counter k = (s.part p).counterAtCut k)) ∧
    (∀ x c e, status = 3 ∨ status = 4 →
      (s.part p).sends.find? (fun x => decide (x.flow = flow ∧ (x.seq + 1) % 2 ^ 32 = upTo)) = some x → x.cmd = some c →
      s.entry c = some e → e.phase ≠ .waiting → e.status = .ok →
      ∃ t e', exec (.ackReceive pkt) s = .next t ∧ t.entry c = some e' ∧ e'.status = .isolation ∧
        (e'.phase = .executed ∨ e'.phase = .finished) ∧ t.mem = s.mem ∧ t.tick = s.tick)) ∧
  (∀ (s : State) (p : Fin 4) (flow : Nat) (x : Send), (s.part p).sends.find? (fun x => x.flow == flow) = some x →
    (flow ∉ (s.part p).timedOut → (s.part p).live = true → (s.part p).faultsFromCut < 2 →
      ∃ t, exec (.ackTimeout p flow) s = .next t ∧ max s.tick x.due ≤ t.tick ∧
        (t.part p).openEpoch = (s.part p).base.epoch ∧ (∀ k, (t.part p).counter k = (s.part p).counterAtCut k)) ∧
    (∀ c e, flow ∈ (s.part p).timedOut → x.cmd = some c → s.entry c = some e → e.phase ≠ .waiting → e.status = .ok →
      ∃ t e', exec (.ackTimeout p flow) s = .next t ∧ t.tick = max s.tick x.due ∧ t.entry c = some e' ∧
        e'.status = .unrecoverable ∧ (∀ y, y ∈ (t.part p).sends ↔ y ∈ (s.part p).sends ∧ ¬(y.flow = flow ∧ y.cmd = x.cmd)) ∧
        t.mem = s.mem))

/-- The tables of the fabric and the plans (11 R314, R323, R327, R330), written by the PF after DEVICE_READY. The high
word is staged; a commit writes exactly the entry at INDEX, a circuit entry only when no READY or ACTIVE plan holds the
old or the new one, else REFUSED is set, no entry changes and INDEX stays (log entry 79: the model's reading). A plan is READY
when its circuits pass the checks and FAULT when one names a partition that is not its owner; an ACTIVE plan is left alone. A
CIRCUIT_SETUP from the manager writes as a commit does and is answered by its route (log entry 80: the model's reading); one
from another endpoint is counted MISROUTED. A window table is read whole. -/
def Obligations.FabricTables : Prop :=
  ∀ (s : State) (fn : Fn),
    (∀ v, s.mayWritePkg fn = true →
      exec (.fabTableDataHighWrite fn v) s = .next { s with fab := { s.fab with dataHigh := v } }) ∧
    (∀ v, s.mayWritePkg fn = true → s.fab.onCircuits = false →
      ∃ t, exec (.fabTableCommit fn v) s = .next t ∧
        (∀ k, sget 0 t.fab.routes k = if k = s.fab.index then v &&& 0x800000FF7F7F7F7F else sget 0 s.fab.routes k) ∧
        t.fab.circuits = s.fab.circuits ∧
        t.fab.index = (if bit s.fab.tableIndex.toNat 17 then (s.fab.index + 1) % 2 ^ 14 else s.fab.index) ∧
        (s.fab.held = [] → t.parts = s.parts ∧ t.mem = s.mem)) ∧
    (∀ v e, s.mayWritePkg fn = true → s.fab.onCircuits = true → e = v.toNat + s.fab.dataHigh.toNat * 2 ^ 64 →
      ∃ t, exec (.fabTableCommit fn v) s = .next t ∧ t.fab.routes = s.fab.routes ∧
        (s.fab.held = [] → t.parts = s.parts ∧ t.mem = s.mem) ∧
        (s.fab.index < 4096 → s.fab.lockedMask (cePlans (s.fab.circuit s.fab.index)) = false → s.fab.lockedMask (cePlans e) = false →
          ∀ k, t.fab.circuit k = if k = s.fab.index then (BitVec.ofNat 128 e &&& circuitMask).toNat else s.fab.circuit k) ∧
        (4096 ≤ s.fab.index ∨ s.fab.lockedMask (cePlans (s.fab.circuit s.fab.index)) = true ∨ s.fab.lockedMask (cePlans e) = true →
          t.fab.circuits = s.fab.circuits ∧ bit t.fab.tableIndex.toNat 30 = true ∧ t.fab.index = s.fab.index)) ∧
    (∀ (n : Fin 16), s.mayWritePkg fn = true → s.fab.plan n ≠ .active →
      (∃ t, exec (.planLoad fn n) s = .next t ∧ (∀ k, k ≠ n.val → t.fab.plan k = s.fab.plan k) ∧ t.fab.circuits = s.fab.circuits ∧
        t.parts = s.parts ∧ t.mem = s.mem ∧
        ((∀ x ∈ s.fab.planCircuits n,
            (ceRole x.2 = 1 ∨ ceRole x.2 = 3 → cePartition x.2 = s.fab.owner n) ∧
            (ceRole x.2 = 1 ∨ ceRole x.2 = 2 → s.portGone (ceOut x.2) = false ∧
              (((s.fab.planCircuits n).filter (fun y => decide ((ceRole y.2 = 1 ∨ ceRole y.2 = 2) ∧ ceOut y.2 = ceOut x.2))).map
                (fun y => ceShare y.2)).sum ≤ quotaOf (s.port (ceOut x.2)).quota.toNat (s.fab.owner n)) ∧
            (ceRole x.2 = 2 ∨ ceRole x.2 = 3 → s.portGone (ceIn x.2) = false) ∧
            (ceRole x.2 = 1 → (s.part (partOf (s.fab.owner n))).maySend (ceEndpoint x.2) = true) ∧
            (ceRole x.2 = 3 → (s.part (partOf (s.fab.owner n))).recvPerm.getLsbD (ceEndpoint x.2) = true)) →
          t.fab.plan n = .ready) ∧
        ((∃ x ∈ s.fab.planCircuits n, (ceRole x.2 = 1 ∨ ceRole x.2 = 3) ∧ cePartition x.2 ≠ s.fab.owner n) →
          t.fab.plan n = .fault)) ∧
      (∃ t, exec (.planClear fn n) s = .next t ∧ t.fab.plan n = .empty ∧ (∀ k, k ≠ n.val → t.fab.plan k = s.fab.plan k) ∧
        t.fab.circuits = s.fab.circuits ∧ t.parts = s.parts ∧ t.mem = s.mem)) ∧
    (∀ (n : Fin 16), s.fab.plan n = .active → exec (.planLoad fn n) s = .next s ∧ exec (.planClear fn n) s = .next s) ∧
    (∀ (i : Fin 32) pkt n, ComesIn s i pkt → pkt.circuit = false → pkt.kind = 0x12 → pkt.vc = 6 → pkt.authentic = true →
      pkt.trailerOk = true → s.life.deviceReady = true → pkt.payload.length = 18 * n → 1 ≤ n → n ≤ 14 →
      (bit s.fab.cfg.toNat 14 = true → fld s.fab.cfg.toNat 0 14 = pkt.src →
        ∃ t, exec (.circuitSetup i pkt) s = .next t ∧ t.fab.circuits = (s.fab.setupRecords n pkt.payload).1.circuits ∧
          t.fab.routes = s.fab.routes ∧ t.parts = s.parts ∧ t.mem = s.mem ∧
          (∀ r o d, s.fab.route pkt.src 6 = some r → s.egress r = some (o, d) → o ≠ 32 →
            Sends s t o 0x13) ∧
          (n = 1 → at_ pkt.payload 0 2 < 4096 → s.fab.lockedMask (cePlans (s.fab.circuit (at_ pkt.payload 0 2))) = false →
            s.fab.lockedMask (cePlans (at_ pkt.payload 2 16)) = false →
            t.fab.circuit (at_ pkt.payload 0 2) = (BitVec.ofNat 128 (at_ pkt.payload 2 16) &&& circuitMask).toNat)) ∧
      (bit s.fab.cfg.toNat 14 = false ∨ fld s.fab.cfg.toNat 0 14 ≠ pkt.src →
        ∃ t, exec (.circuitSetup i pkt) s = .next t ∧ t.fab = s.fab ∧ t.out = s.out ∧
          sget 0 (t.port i).telemetry 9 = (sget 0 (s.port i).telemetry 9 + 1) % 2 ^ 64 ∧ t.parts = s.parts ∧ t.mem = s.mem)) ∧
    (∀ (p : Fin 4) v, s.mayWritePart fn p = true →
      ∃ t, exec (.windowTableReload fn p v) s = .next t ∧ (t.part p).windows.length = fld v.toNat 52 12 + 1 ∧
        (∀ k xs w, k < fld v.toNat 52 12 + 1 → (t.part p).windows[k]? = some w →
          s.translate p [{ va := (fld v.toNat 6 46 * 64 + 32 * k : Nat), len := 32, write := false }] = some xs →
          w.entry = s.readVa xs (fld v.toNat 6 46 * 64 + 32 * k) 32) ∧
        (∀ q, q ≠ p → t.part q = s.part q) ∧ (∀ k, (t.part p).counter k = (s.part p).counter k) ∧ t.mem = s.mem ∧
        t.host = s.host)

/-- The packets of the management cores (16 R454, R461; 15 R446, R447). While Basket takes and sends TIME_SYNC, one
leaves by every UP port, and one that arrives is kept with the tick of its arrival; the time base never goes back, and
steps at most before a partition was enabled. A probe before which no DISCOVERY packet waits is answered on its port. An SPDM
message to an encrypted port without keys joins its exchange, with the answer that leaves; the keys are installed once the peer's
block 2 version shows and is no lower than the minimum (16 R468, R470; the exchange itself is log entry 71's free choice). While
Basket restarts, DISCOVERY and TIME_SYNC packets wait in their port's queue of 64, and one more is dropped and counted (R467). A PEG packet is taken only where the
package accepts them and once for each Peg: it opens the window at its T, or 256 ticks from now when that is sooner, or
is noted as ignored; a RESUME ends the halts of its own Peg. That a packet of a Peg already taken, and a RESUME already taken, are
not taken again is the model's reading (log entry 109). -/
def Obligations.ManagementPackets : Prop :=
  ∀ (s : State),
    (s.syncing = true → s.life.syncEnable = true → s.life.bootAt + 600000000 ≤ s.tick →
      ∃ t, exec .timeSyncSend s = .next t ∧ t.parts = s.parts ∧ t.mem = s.mem ∧ t.tick = s.tick ∧ t.life = s.life ∧
        ∀ o, s.portUp o = true → Sends s t o 0x11) ∧
    (∀ (i : Fin 32) b, s.syncing = true → b.length = 48 → (∀ x ∈ (s.port i).controlQueue, x.kind ≠ 0x11) →
      ∃ t, exec (.timeSyncReceive i b) s = .next t ∧
        (t.port i).syncEcho = some (at_ b 0 8, s.portTick i % 2 ^ 64, b.take 8 ++ toLe 8 (s.portTick i) ++ b.drop 16) ∧ t.parts = s.parts ∧
        t.mem = s.mem ∧ t.out = s.out ∧ s.tick ≤ t.tick ∧ (s.life.mayStep = false → t.tick = s.tick) ∧
        (bit s.life.timeCfg.toNat 0 = true → t.life.distance = 0 ∧ t.life.master = s.fab.endpoint ∧ t.tick = s.tick)) ∧
    (∀ (i : Fin 32) b, s.basketUp = true → 4 ≤ s.life.bootPhase.toNat → 16 ≤ b.length → at_ b 0 1 = 0 →
      (s.port i).state = .up → (∀ x ∈ (s.port i).controlQueue, x.kind ≠ 0x10) →
      ∃ t, exec (.discoveryReceive i b) s = .next t ∧
        Leaves s t i (controlPacket 0x10 (s.port i).partnerEndpoint s.fab.endpoint (s.discoveryHeader 1 i)) ∧ t.parts = s.parts ∧
        t.mem = s.mem ∧ t.life = s.life) ∧
    (∀ (i : Fin 32) b l, s.basketUp = true → 4 ≤ s.life.bootPhase.toNat → 16 ≤ b.length → at_ b 0 1 = 2 →
      (s.port i).state = .up → (s.port i).encrypted = true → (s.port i).keyed = false →
      (∀ x ∈ (s.port i).controlQueue, x.kind ≠ 0x10) →
      l = (s.port i).spdm ++ [(false, b.drop 16)] ++
        ((Config.spdmNext s.fab.endpoint i ((s.port i).spdm ++ [(false, b.drop 16)])).map (fun m => (true, m))).toList →
      ∃ t, exec (.discoveryReceive i b) s = .next t ∧ (t.port i).spdm = l ∧
        ((t.port i).keyed = true ↔ ∃ v, Config.spdmPeer l = some v ∧ s.life.minPeer ≤ v) ∧ t.parts = s.parts ∧ t.mem = s.mem) ∧
    (∀ (i : Fin 32) b c kind pkt, s.restarting = true → s.life.deviceReady = true →
      (c = Instr.discoveryReceive i b ∧ kind = 0x10 ∧ 16 ≤ b.length ∧ pkt = controlPacket kind s.fab.endpoint (s.port i).partnerEndpoint b ∨
        c = Instr.timeSyncReceive i b ∧ kind = 0x11 ∧ b.length = 48 ∧
          pkt = (controlPacket kind s.fab.endpoint (s.port i).partnerEndpoint b).stamped (s.portTick i)) →
      ((s.port i).controlQueue.length < 64 → ∃ t, exec c s = .next t ∧ (t.port i).controlQueue = (s.port i).controlQueue ++ [pkt] ∧
        t.out = s.out ∧ t.parts = s.parts ∧ t.mem = s.mem ∧ t.life = s.life) ∧
      (64 ≤ (s.port i).controlQueue.length → ∃ t, exec c s = .next t ∧ (t.port i).controlQueue = (s.port i).controlQueue ∧
        sget 0 (t.port i).telemetry 12 = (sget 0 (s.port i).telemetry 12 + 1) % 2 ^ 64 ∧ t.out = s.out ∧ t.parts = s.parts ∧
        t.mem = s.mem ∧ t.life = s.life)) ∧
    (∀ (i : Fin 32) b, s.life.deviceReady = true → b.length = 32 →
      (bit s.obs.cfg.toNat 5 = false → ∃ t, exec (.pegPacketReceive i b) s = .next t ∧ t.obs = s.obs ∧ t.out = s.out ∧
        t.parts = s.parts) ∧
      (bit s.obs.cfg.toNat 5 = true → bit (at_ b 0x0C 1) 1 = false →
        ((fld (at_ b 8 2) 0 14, at_ b 0x0A 2) ∈ s.obs.peg.accepted →
          ∃ t, exec (.pegPacketReceive i b) s = .next t ∧ t.obs = s.obs ∧ t.out = s.out ∧ t.parts = s.parts) ∧
        ((fld (at_ b 8 2) 0 14, at_ b 0x0A 2) ∉ s.obs.peg.accepted →
          (s.obs.peg.open_ = true → ∃ t, exec (.pegPacketReceive i b) s = .next t ∧
            t.obs.peg = { s.obs.peg with ignored := true } ∧ t.out = s.out ∧ t.parts = s.parts) ∧
          (s.obs.peg.open_ = false → ∃ t, exec (.pegPacketReceive i b) s = .next t ∧ t.obs.peg.open_ = true ∧
            t.obs.peg.id = BitVec.ofNat 16 (at_ b 0x0A 2) ∧ t.obs.peg.origin = fld (at_ b 8 2) 0 14 ∧
            t.obs.peg.t = max (at_ b 0 8) (s.tick + 256) ∧ t.obs.peg.closeAt = t.obs.peg.t + 1000000 ∧
            t.obs.peg.halt = bit (at_ b 0x0C 1) 0 ∧ t.obs.peg.captured = false ∧
            (at_ b 0x0D 1 < 31 → ∀ o, s.portUp o = true → o ≠ i.val → Sends s t o 0x14) ∧
            t.parts = s.parts ∧ t.mem = s.mem))) ∧
      (bit s.obs.cfg.toNat 5 = true → bit (at_ b 0x0C 1) 1 = true →
        (fld (at_ b 8 2) 0 14, at_ b 0x0A 2) ∈ s.obs.peg.accepted →
        (fld (at_ b 8 2) 0 14, at_ b 0x0A 2 + 65536) ∉ s.obs.peg.accepted →
        ∃ t, exec (.pegPacketReceive i b) s = .next t ∧ t.parts = s.parts ∧ t.mem = s.mem ∧
          ∀ p, p < 4 → t.obs.peg.halted.getLsbD p = (s.obs.peg.halted.getLsbD p &&
            decide ((sget (0, 0, 0) s.obs.peg.haltedBy p).2 ≠ (fld (at_ b 8 2) 0 14, at_ b 0x0A 2)))))

/-! ### Peg, snapshots and streaming (15 R432 to R448) -/

/-- Peg at the package (15 R441 to R444, R447, R448). PEG_TRIGGER by the PF opens a window with the next id of the
package, its T 2,048 ticks on, 8,192 for fabric scope, and its close 1 ms after T; while a window is open it is only
noted as ignored. PEG_CAPTURE takes the counters at T once and halts whom the mode and the registers say;
PEG_WINDOW_CLOSE ends the window and writes the image where an address is set. PEG_RESUME ends every halt. That a Peg of package
scope too takes the next id of the package, with the package as its ORIGIN, is the model's reading (log entry 109); that time is
carried to T by the capture and to the close by PEG_WINDOW_CLOSE is its choice (log entry 110). -/
def Obligations.PegsAtThePackage : Prop :=
  ∀ (s : State) (g : Peg), g = s.obs.peg →
    (∀ fn halt fabric, s.mayWritePkg fn = true →
      (g.open_ = true → ∃ t, exec (.pegTrigger fn halt fabric) s = .next t ∧ t.obs.peg = { g with ignored := true } ∧
        t.out = s.out ∧ t.parts = s.parts ∧ t.mem = s.mem) ∧
      (g.open_ = false → ∃ t, exec (.pegTrigger fn halt fabric) s = .next t ∧ t.obs.peg.open_ = true ∧
        t.obs.peg.id = g.lastId + 1 ∧ t.obs.peg.lastId = g.lastId + 1 ∧ t.obs.peg.origin = s.fab.endpoint ∧
        t.obs.peg.t = s.tick + (if fabric then 8192 else 2048) ∧ t.obs.peg.closeAt = t.obs.peg.t + 1000000 ∧
        t.obs.peg.halt = halt ∧ t.obs.peg.captured = false ∧ t.obs.peg.source = 2 ∧ t.obs.peg.halted = g.halted ∧
        (fabric = true → ∀ o, s.portUp o = true → Sends s t o 0x14) ∧
        (fabric = false → t.out = s.out) ∧ t.tick = s.tick ∧ t.parts = s.parts ∧ t.mem = s.mem ∧ t.host = s.host)) ∧
    (∀ fn fabric, s.mayWritePkg fn = true → ∃ t, exec (.pegResume fn fabric) s = .next t ∧ t.obs.peg.halted = 0 ∧
      t.obs.peg.open_ = g.open_ ∧ t.parts = s.parts ∧ t.mem = s.mem ∧ t.host = s.host) ∧
    (g.open_ = true → g.captured = false → ∃ t, exec .pegCapture s = .next t ∧ t.tick = max s.tick g.t ∧
      t.obs.peg.captured = true ∧ t.obs.peg.image = s.pegImage ∧ t.obs.peg.open_ = true ∧
      (g.halt = false → t.obs.peg.halted = g.halted) ∧
      (g.halt = true → g.source = 1 → t.obs.peg.halted = g.halted ||| g.issuer) ∧
      (g.halt = true → g.source ≠ 1 → t.obs.peg.halted = g.halted ||| BitVec.ofNat 4 (fld s.obs.cfg.toNat 8 4)) ∧
      (∀ p k, (t.part p).counter k = (s.part p).counter k)) ∧
    (g.open_ = false ∨ g.captured = true → exec .pegCapture s = .next s) ∧
    (g.open_ = true → g.captured = true → ∃ t, exec .pegWindowClose s = .next t ∧ t.tick = max s.tick g.closeAt ∧
      t.obs.peg.open_ = false ∧ t.obs.peg.halted = g.halted ∧ t.parts = s.parts ∧ t.mem = s.mem ∧
      (s.obs.imageAddr = 0 → t.host = s.host) ∧
      (s.obs.imageAddr ≠ 0 → t.hostWord s.obs.imageAddr.toNat = g.t % 2 ^ 64 ∧ t.obs.written = s.obs.written + 1)) ∧
    (g.open_ = false → exec .pegWindowClose s = .next s)

/-- Snapshots and the streamer (15 R432, R434, R440). A package snapshot is captured 2,048 ticks after its request and
its image starts with that tick. A periodic snapshot that falls due while the one before it is being written is counted
as skipped and writes nothing; any other is captured and counted. The streamer takes its next record to its slot of the
host ring, or to a window that the partition may send to, and waits while the ring is full. -/
def Obligations.SnapshotsAndStreams : Prop :=
  (∀ (s : State) (fn : Fn), s.mayWritePkg fn = true → ∃ t, exec (.packageSnapshot fn) s = .next t ∧ t.tick = s.tick + 2048 ∧
    t.obs.count = s.obs.count ∧ t.parts = s.parts ∧ t.mem = s.mem ∧ (s.obs.imageAddr = 0 → t.host = s.host) ∧
    (s.obs.imageAddr ≠ 0 → t.hostWord s.obs.imageAddr.toNat = (s.tick + 2048) % 2 ^ 64 ∧ t.obs.written = s.obs.written + 1)) ∧
  (∀ (s : State) (p : Fin 4),
    ((s.part p).snapshotDue = none → exec (.periodicSnapshot p) s = .next s) ∧
    (∀ due, (s.part p).snapshotDue = some due →
      (due < (s.part p).snapshotBusy → ∃ t, exec (.periodicSnapshot p) s = .next t ∧ t.tick = max s.tick due ∧
        sget 0 t.obs.count (ctrKey 1 p.val 4) = (sget 0 s.obs.count (ctrKey 1 p.val 4) + 1) % 2 ^ 64 ∧
        (t.part p).snapshotDue = (s.part p).firstSnapshot due ∧ (t.part p).snapshotCount = (s.part p).snapshotCount ∧
        t.mem = s.mem ∧ t.host = s.host) ∧
      ((s.part p).snapshotBusy ≤ due → ∃ t, exec (.periodicSnapshot p) s = .next t ∧ t.tick = max s.tick (due + 2048) ∧
        (t.part p).snapshotDue = (s.part p).firstSnapshot due ∧ (t.part p).snapshotCount = (s.part p).snapshotCount + 1 ∧
        t.tick ≤ (t.part p).snapshotBusy ∧ t.host = s.host ∧ (∀ q k, (t.part q).counter k = (s.part q).counter k)))) ∧
  (∀ (s : State) (p : Fin 4) (k : Nat), k = (s.part p).traceStreamed →
    ((s.part p).streamIdle = true → exec (.traceStream p) s = .next s) ∧
    (∀ a size, (s.part p).streamIdle = false → size = 2 ^ (10 + fld (s.part p).obsStreamCfg.toNat 2 4) →
      s.obsAddr p ((s.part p).obsTraceBase.toNat + 32 * (k % 2 ^ (15 + fld (s.part p).obsCfg.toNat 8 4))) = some a →
      (fld (s.part p).obsStreamCfg.toNat 0 2 = 1 →
        (s.hostWord (s.part p).obsStreamHeadAddr.toNat + size ≤ k → exec (.traceStream p) s = .next s) ∧
        (k < s.hostWord (s.part p).obsStreamHeadAddr.toNat + size → ∃ t, exec (.traceStream p) s = .next t ∧
          (t.part p).traceStreamed = k + 1 ∧
          sread t.host ((s.part p).obsStreamAddr.toNat + 32 * (k % size)) 32 = s.mem.read a 32 ∧
          (∀ b, b < (s.part p).obsStreamAddr.toNat + 32 * (k % size) ∨ (s.part p).obsStreamAddr.toNat + 32 * (k % size) + 32 ≤ b →
            sget 0 t.host b = sget 0 s.host b) ∧ t.mem = s.mem ∧ t.out = s.out)) ∧
      (fld (s.part p).obsStreamCfg.toNat 0 2 ≠ 1 →
        ((s.part p).flowEnable = false ∨ (s.part p).maySend (fld (s.part p).obsStreamAddr.toNat 0 14) = false →
          exec (.traceStream p) s = .next s) ∧
        (∀ dest r, dest = fld (s.part p).obsStreamAddr.toNat 0 14 → (s.part p).flowEnable = true → (s.part p).maySend dest = true →
          s.fab.route dest 3 = some r → s.egress r ≠ none → s.fab.holds p (flowOf dest 3) = false →
          ∃ t x, exec (.traceStream p) s = .next t ∧ (t.part p).traceStreamed = k + 1 ∧
            (t.part p).sends = (s.part p).sends ++ [x] ∧ x.flow = flowOf dest 3 ∧ x.cmd = none ∧
            x.pkt.payload = s.mem.read a 32 ∧ t.host = s.host))))

/-! ### Registers and accesses of the host (00 R11; 14 R397 to R407; 15 R430, R431; 16 R470; 17 R483; 08 R218) -/

/-- Registers with rows of their own, written by a function that may. LIFE_EXPORT puts the count and the records of a
region into host memory, and nothing before DEVICE_READY. CALENDAR_SET sets the calendar and writes a record.
POWER_MODE_REQUEST takes the mode unless it is the reserved one, and the effective mode follows unless a state is
forced. MEM_PROTECT_REQUEST is kept for the next cold reset. A counter selection is in the register at once and in force
2,048 ticks on. A MODE written is not yet in force. -/
def Obligations.RegistersOfTheirOwn : Prop :=
  (∀ (s : State) (region : Nat) (b : Bytes), region ≤ 5 → s.life.exportBusy = none →
    (s.life.deviceReady = true → b = s.lifeRegion region →
      ∃ t, exec (.lifeExport .pf region) s = .next t ∧
        sread t.host s.life.exportAddr.toNat (8 + b.length) = toLe 8 b.length ++ b ∧
        (∀ a, a < s.life.exportAddr.toNat ∨ s.life.exportAddr.toNat + 8 + b.length ≤ a → sget 0 t.host a = sget 0 s.host a) ∧
        t.life.exportResult = .ok ∧ t.life.exportBusy = none ∧ t.life.exportRegion = BitVec.ofNat 3 region ∧ t.parts = s.parts ∧
        t.mem = s.mem) ∧
    (s.life.deviceReady = false → ∃ t, exec (.lifeExport .pf region) s = .next t ∧ t.life.exportResult = .notReady ∧
      t.host = s.host ∧ t.parts = s.parts ∧ t.mem = s.mem)) ∧
  (∀ (s : State) (fn : Fn), s.mayWritePkg fn = true →
    (∀ v, ∃ t, exec (.calendarSet fn v) s = .next t ∧ t.calendar = v.toNat % 2 ^ 63 + 2 ^ 63 ∧ t.life.records ≠ [] ∧
      t.tick = s.tick ∧ t.parts = s.parts ∧ t.mem = s.mem ∧ t.host = s.host) ∧
    (∀ v, v.toNat % 4 ≠ 3 → ∃ t, exec (.powerModeRequest fn v) s = .next t ∧ t.power.request = BitVec.ofNat 2 (v.toNat % 4) ∧
      t.power.effective = (if s.power.forcedBrake || s.power.forcedFlow || s.power.forcedSensor || s.power.forcedDie then 2
        else BitVec.ofNat 2 (v.toNat % 4)) ∧ t.host = s.host ∧ (∀ p k, (t.part p).counter k = (s.part p).counter k)) ∧
    (∀ v, v.toNat % 4 = 3 → exec (.powerModeRequest fn v) s = .next s) ∧
    (∀ v, exec (.memProtectRequest fn v) s = .next { s with mem := { s.mem with strongRequest := bit v.toNat 0 } })) ∧
  (∀ (s : State) (fn : Fn) (p : Fin 4), s.mayWritePart fn p = true →
    (∀ n v, n < 16 → fld v.toNat 0 8 < 19 → ∃ t, exec (.counterSelectWrite fn p n v) s = .next t ∧
      sget 0 (t.part p).obsSel n = v &&& 0x3FFF ∧ (t.part p).obsSelInForce = (s.part p).obsSelInForce ∧
      (t.part p).selDue = (s.part p).selDue ++ [{ index := n, value := v &&& 0x3FFF, due := s.tick + 2048 }] ∧
      (∀ k, k ≠ n → sget 0 (t.part p).obsSel k = sget 0 (s.part p).obsSel k) ∧ (∀ q, q ≠ p → t.part q = s.part q) ∧
      t.mem = s.mem ∧ t.obs = s.obs) ∧
    (∀ v, ∃ t, exec (.obsModeWrite fn p v) s = .next t ∧ (t.part p).obsMode = (s.part p).obsMode ∧
      (fld v.toNat 0 2 ≠ 3 → fld (t.part p).obsCfg.toNat 0 2 = fld v.toNat 0 2) ∧
      (fld v.toNat 0 2 = 3 → fld (t.part p).obsCfg.toNat 0 2 = fld (s.part p).obsCfg.toNat 0 2) ∧
      (∀ q, q ≠ p → t.part q = s.part q) ∧ t.mem = s.mem ∧ t.obs = s.obs)) ∧
  (∀ (s : State) (p : Fin 4),
    ((s.part p).selDue = [] → exec (.counterSelectApply p) s = .next s) ∧
    (∀ n v due, (s.part p).selDue = [{ index := n, value := v, due := due }] → n < 16 →
      ∃ t, exec (.counterSelectApply p) s = .next t ∧ t.tick = max s.tick due ∧ sget 0 (t.part p).obsSelInForce n = v ∧
        (∀ k, k ≠ n → sget 0 (t.part p).obsSelInForce k = sget 0 (s.part p).obsSelInForce k) ∧ (t.part p).selDue = [] ∧
        (∀ q, q ≠ p → t.part q = s.part q) ∧ t.mem = s.mem ∧ t.obs.count = s.obs.count))

/-- The accesses of the host to the block (00 R11; 14 R397, R398, R405 to R407; 16 R468). A write of a queue's ring
address changes that register alone, and only while the queue is DISABLED; the low half of a 64-bit register by itself
changes no register; a write of another size (log entry 22: the model's choice), outside every register, or by a function that
does not exist changes nothing. BAR2 reads and writes exactly the bytes where the tables put them, or ends in a Completer Abort; an access
beyond it is none. A configuration request is answered once the link is up, and a function offers the features of Table
14.1 alone. -/
def Obligations.HostAccesses : Prop :=
  (∀ (s : State) (fn : Fn) (off : Nat) (v : W64),
    (∀ p q, Reg.locate fn off = some (.part p (.sqBase q)) → off % 8 = 0 → s.mayWritePart fn p = true →
      (((s.part p).queue q).state = .disabled → ∃ t, exec (.registerWrite fn off 8 v) s = .next t ∧
        (t.part p).queue q = { (s.part p).queue q with sqBase := addrBits 12 64 v.toNat } ∧
        (∀ q', q' ≠ q → (t.part p).queue q' = (s.part p).queue q') ∧ (∀ p', p' ≠ p → t.part p' = s.part p') ∧ t.mem = s.mem ∧
        t.host = s.host ∧ t.out = s.out) ∧
      (((s.part p).queue q).state ≠ .disabled → ∃ t, exec (.registerWrite fn off 8 v) s = .next t ∧
        (∀ q', (t.part p).queue q' = (s.part p).queue q') ∧ (∀ p', p' ≠ p → t.part p' = s.part p') ∧ t.mem = s.mem)) ∧
    (∀ r, Reg.locate fn off = some r → r.wide = true → off % 4 = 0 → ∃ t, exec (.registerWrite fn off 4 v) s = .next t ∧
      t.parts = s.parts ∧ t.mem = s.mem ∧ t.fab = s.fab ∧ t.obs = s.obs ∧ t.life = s.life ∧ t.power = s.power ∧ t.out = s.out) ∧
    (∀ size, size ≠ 4 → size ≠ 8 → exec (.registerWrite fn off size v) s = .next s) ∧
    (∀ size, s.fnExists fn = false → exec (.registerWrite fn off size v) s = .next s) ∧
    (∀ p, Reg.locate fn off = some (.part p .status) → s.life.deviceReady = false →
      exec (.registerWrite fn off 4 v) s = .next s)) ∧
  (∀ (s : State) (fn : Fn) (off n : Nat), s.fnExists fn = true → s.hi.inBar2 fn off n = true →
    (s.bar2Part fn = none → exec (.bar2Read fn off n) s = .next { s with out := .completerAbort fn :: s.out }) ∧
    (∀ p, s.bar2Part fn = some p →
      (∀ l, s.bar2Addrs p false ((s.part p).bar2Base.toNat + off) n = some l →
        exec (.bar2Read fn off n) s = .next { s with out := .readData fn (l.map s.mem.byte) :: s.out }) ∧
      (s.bar2Addrs p false ((s.part p).bar2Base.toNat + off) n = none → ∃ t, exec (.bar2Read fn off n) s = .next t ∧
        Out.completerAbort fn ∈ t.out ∧ Out.aer (s.servingFn p) p.val ∈ t.out ∧ t.parts = s.parts ∧ t.mem = s.mem))) ∧
  (∀ (s : State) (fn : Fn) (off : Nat) (d : Bytes), s.hi.inBar2 fn off d.length = false → exec (.bar2Write fn off d) s = .next s) ∧
  (∀ (s : State) (fn : Fn) (off : Nat) (d : Bytes) (p : Fin 4), s.fnExists fn = true → s.bar2Part fn = some p →
    s.hi.inBar2 fn off d.length = true →
    (∀ a l, s.bar2Addrs p true ((s.part p).bar2Base.toNat + off) d.length = some l →
      s.bar2Addr p true ((s.part p).bar2Base.toNat + off) = some a →
      ((s.part p).bar2Base.toNat + off) % 65536 + d.length ≤ 65536 →
      ∃ t, exec (.bar2Write fn off d) s = .next t ∧ t.mem.read a d.length = d ∧
        (∀ b, b < a ∨ a + d.length ≤ b → t.mem.byte b = s.mem.byte b) ∧ t.host = s.host ∧ t.out = s.out ∧
        (∀ q k, (t.part q).counter k = (s.part q).counter k)) ∧
    (s.bar2Addrs p true ((s.part p).bar2Base.toNat + off) d.length = none →
      exec (.bar2Write fn off d) s = .next { s with out := .aer (s.servingFn p) p.val :: s.out })) ∧
  (∀ (s : State) (fn : Fn),
    (∀ req, s.hi.linkUp = false → exec (.configRequest fn req) s = .next s) ∧
    (s.hi.linkUp = true → s.life.deviceReady = true →
      (∀ on n, fn = .pf → n ≤ 4 → ∃ t, exec (.configRequest fn (.vfEnable on n)) s = .next t ∧ t.hi.vfEnable = on ∧
        (s.hi.vfEnable = false → t.hi.numVfs = n) ∧ (s.hi.vfEnable = true → t.hi.numVfs = s.hi.numVfs) ∧ t.parts = s.parts ∧
        t.mem = s.mem ∧ t.out = s.out) ∧
      (∀ c, s.fnExists fn = true → ∃ t, exec (.configRequest fn (.capability c)) s = .next t ∧
        t.out = .configReply (if offers fn c then 1 else 0) :: s.out ∧ t.parts = s.parts ∧ t.mem = s.mem) ∧
      (∀ b, s.fnExists fn = true → mayMeasure fn b = true → ∃ t d, exec (.configRequest fn (.measure b)) s = .next t ∧
        t.out = .measurement b d :: s.out ∧ d.length = 48 ∧ (b = 2 → s.life.patchVersion = 0 → d = zeros 48) ∧ t.parts = s.parts ∧ t.mem = s.mem) ∧
      (∀ b, mayMeasure fn b = false → ∃ t, exec (.configRequest fn (.measure b)) s = .next t ∧ t.out = s.out ∧
        t.parts = s.parts ∧ t.mem = s.mem)))

/-! ### Power and sensors (01 R29; 17 R477 to R483) -/

/-- The effective mode on the dies, the brake and the throttle (17 R480, R483; 01 R29). A die that has not applied the
effective mode does so once every enabled partition with cores on it has closed an epoch since the change, and not
before. BRAKE_N low forces Silk while the package runs, and its release ends that. At or above 100 °C a compute die goes
down by 100 MHz to no less than 800 MHz; below 97 °C a throttled one goes up by 100 MHz to no more than its mode's
clock; in between nothing changes. No counter of a partition moves, and host memory does not change. -/
def Obligations.PowerModesAndThrottle : Prop :=
  ∀ (s : State) (die : Fin 4) (w : Power), w = s.power →
    (w.pendingDie die = true → s.dieReady die = true → w.throttled.getLsbD die = false →
      ∃ t, exec (.powerModeChangeover die) s = .next t ∧ t.power.applied[die] = modeClock w.effective ∧
        t.power.clocks[die] = modeClock w.effective ∧ t.power.effective = w.effective ∧ t.power.pendingDie die = false ∧
        (∀ d, d ≠ die → t.power.clocks[d] = w.clocks[d] ∧ t.power.applied[d] = w.applied[d]) ∧ s.tick ≤ t.tick ∧
        t.tick ≤ s.tick + 2000 ∧ t.host = s.host ∧ (∀ p k, (t.part p).counter k = (s.part p).counter k)) ∧
    (w.pendingDie die = false ∨ s.dieReady die = false → exec (.powerModeChangeover die) s = .next s) ∧
    (s.powered = true → ∃ t, exec .brakeAssert s = .next t ∧ t.power.brakeN = false ∧ t.power.forcedBrake = true ∧
      t.power.effective = 2 ∧ t.power.request = w.request ∧ t.host = s.host ∧
      (∀ p k, (t.part p).counter k = (s.part p).counter k)) ∧
    (∃ t, exec .brakeRelease s = .next t ∧ t.power.brakeN = true ∧ t.power.forcedBrake = false ∧
      t.power.effective = (if w.forcedFlow || w.forcedSensor || w.forcedDie then 2 else w.request) ∧ t.host = s.host ∧
      (∀ p k, (t.part p).counter k = (s.part p).counter k)) ∧
    (s.powered = true → junctionValid (w.dieReading die) = true →
      (800 ≤ junctionTemp (w.dieReading die) → 800 < w.clocks[die] →
        ∃ t, exec (.thermalThrottleStep die) s = .next t ∧ t.power.clocks[die] = max 800 (w.clocks[die] - 100) ∧
          t.power.throttled.getLsbD die = true ∧ t.power.throttleAt[die] = max s.tick w.throttleAt[die] + 1000000 ∧
          t.power.effective = w.effective ∧ t.power.applied = w.applied ∧ t.tick ≤ max s.tick w.throttleAt[die] + 2000 ∧
          t.host = s.host ∧ (∀ p k, (t.part p).counter k = (s.part p).counter k)) ∧
      (junctionTemp (w.dieReading die) < 776 → w.throttled.getLsbD die = true →
        ∃ t, exec (.thermalThrottleStep die) s = .next t ∧ t.power.clocks[die] = min (w.clocks[die] + 100) w.applied[die] ∧
          t.power.throttleAt[die] = max s.tick w.throttleAt[die] + 10000000 ∧ t.power.applied = w.applied ∧
          t.power.throttled.getLsbD die = decide (w.clocks[die] + 100 < w.applied[die]) ∧ t.host = s.host ∧
          (∀ p k, (t.part p).counter k = (s.part p).counter k)) ∧
      (776 ≤ junctionTemp (w.dieReading die) → junctionTemp (w.dieReading die) < 800 →
        exec (.thermalThrottleStep die) s = .next s))

/-- The readings of the sensors (17 R479 to R482, Tables 17.5, 17.6; 16 R459). A reading at a die's or a stack's
shutdown limit shuts the package down: THERMTRIP_N is asserted, memory and every partition are lost, host memory stays.
One below it is kept in the sensor's word; one that is not valid clears VALID alone, the model's reading (log entry 122). A Velac
or Colxis die from 100 °C, a missing inlet reading while the package runs, or an outlet above 60 °C forces Silk. A boot that waits for an inlet reading goes on to the
core self-test with one of at most 50 °C, and waits on a hotter one. -/
def Obligations.SensorsProtect : Prop :=
  (∀ (s : State) (i : Fin 25) (temp : Nat), s.power.vaux = true →
    (∃ t, exec (.thermalSensorRead i temp false) s = .next t ∧
      t.power.junction[i].toNat = setFld s.power.junction[i].toNat 11 1 0 ∧
      (∀ j, j ≠ i → t.power.junction[j] = s.power.junction[j]) ∧ t.parts = s.parts ∧ t.mem = s.mem ∧ t.life = s.life ∧
      t.out = s.out) ∧
    (s.powered = true → tripLimit i.val ≤ min temp 2047 →
      ∃ t, exec (.thermalSensorRead i temp true) s = .next t ∧ t.power.thermtripN = false ∧ t.power.trip = some i.val ∧
        t.life.deviceReady = false ∧ t.life.bootPhase = 0 ∧ t.hi.linkUp = false ∧ t.mem.bytes = [] ∧ t.life.records ≠ [] ∧
        (∀ p, t.part p = Part.reset) ∧ t.host = s.host ∧ junctionTemp t.power.junction[i] = min temp 2047) ∧
    (s.powered = true → min temp 2047 < tripLimit i.val →
      ∃ t, exec (.thermalSensorRead i temp true) s = .next t ∧ junctionTemp t.power.junction[i] = min temp 2047 ∧
        junctionValid t.power.junction[i] = true ∧ bit t.power.junction[i].toNat 12 = decide (firstLimit i.val ≤ min temp 2047) ∧
        (∀ j, j ≠ i → t.power.junction[j] = s.power.junction[j]) ∧ t.life = s.life ∧ t.host = s.host ∧
        (i.val = 0 ∨ 5 ≤ i.val → i.val < 9 → 800 ≤ min temp 2047 → t.power.effective = 2) ∧
        (9 ≤ i.val → 760 ≤ min temp 2047 → t.mem.doubleRefresh.getLsbD (i.val - 9) = true) ∧
        (∀ p k, (t.part p).counter k = (s.part p).counter k))) ∧
  (∀ (s : State) (inlet outlet : Option Nat), s.power.vaux = true → s.powered = true →
    (s.life.bootPhase ≠ 0x80 → s.life.bootPhase ≠ 0x81 →
      (∀ b, inlet = none → outlet = some b → ∃ t, exec (.coolantSensorRead inlet outlet) s = .next t ∧
        t.power.forcedSensor = true ∧ t.power.effective = 2 ∧ t.life = s.life ∧ t.host = s.host) ∧
      (∀ a b, inlet = some a → outlet = some b → 480 < b → s.power.forcedFlow = false →
        ∃ t, exec (.coolantSensorRead inlet outlet) s = .next t ∧ t.power.forcedFlow = true ∧ t.power.effective = 2 ∧
          bit t.power.flow.toNat 16 = true ∧ t.life = s.life ∧ t.host = s.host)) ∧
    (∀ t0, inlet = none → outlet = none → s.power.bothSince = some t0 → t0 + 1000000000 ≤ s.tick →
      s.power.forcedFlow = false → ∃ t, exec (.coolantSensorRead inlet outlet) s = .next t ∧ t.power.thermtripN = false ∧
        t.power.trip = some 26 ∧ t.life.deviceReady = false ∧ t.mem.bytes = [] ∧ (∀ p, t.part p = Part.reset) ∧
        t.host = s.host) ∧
    (∀ a, s.life.bootPhase = 0x80 → inlet = some a → s.power.forcedFlow = false →
      ∃ t, exec (.coolantSensorRead inlet outlet) s = .next t ∧ t.life.bootPhase = (if a ≤ 400 then 4 else 0x80) ∧
        (∀ b, outlet = some b → 480 < b → t.power.forcedFlow = true ∧ t.power.effective = 2) ∧ t.host = s.host ∧
        (∀ p k, (t.part p).counter k = (s.part p).counter k)))

/-! ### Supplies, boot and what outlives them (10 R291; 14 R422; 16 R452, R456 to R473) -/

/-- The supplies and PERST_N (14 R422; 16 R452, R456, R457). VAUX starts the time base at 0 and its loss takes it to 0; at VAUX good
the straps give the SMBus address, an open one read as 1 (17 R488), and it stays until VAUX is lost (log entry 154: the model's reading).
A cold reset puts every partition, device memory and the readiness of the device back to reset, and keeps host memory,
the lifetime records, the rollback counter and the replacement request; a loss of VIN_MAIN while the package runs does
so after a POWER_LOSS record. DEVICE_READY follows a boot whose lines are reached or still ahead (log entry 139: the model's
choice), and no other: one that waits for an inlet reading is not ready. Which values a cold reset keeps, with the BOOT_PHASE it
leaves, is the model's reading (log entry 114). -/
def Obligations.SuppliesAndReset : Prop :=
  ∀ (s : State),
    (s.power.vaux = false → ∃ t, exec .vauxGood s = .next t ∧ t.tick = 0 ∧ t.power.vaux = true ∧
      t.life.bootPhase = 1 ∧ t.life.calendarKnown = false ∧
      t.power.address = 0x4C + 2 * (s.power.balls.strap1.getD true).toNat + (s.power.balls.strap0.getD true).toNat ∧ t.power.balls = s.power.balls ∧
      (∀ p, t.part p = Part.reset) ∧ t.life.records = s.life.records ∧ t.host = s.host) ∧
    (s.power.vaux = true → exec .vauxGood s = .next s ∧
      ∃ t, exec .vauxLoss s = .next t ∧ t.tick = 0 ∧ t.power.vaux = false ∧ t.life.deviceReady = false ∧
        t.life.calendarKnown = false ∧ t.life.wearNow = s.life.wearSaved ∧ (∀ p, t.part p = Part.reset) ∧
        t.life.records = s.life.records ∧ t.life.rollbackCounter = s.life.rollbackCounter ∧ t.host = s.host) ∧
    (∃ t, exec .perstNAssert s = .next t ∧ (∀ p, t.part p = Part.reset) ∧ t.mem.bytes = [] ∧ t.life.deviceReady = false ∧
      t.life.bootPhase = 0 ∧ t.power.perstN = false ∧ t.power.address = s.power.address ∧ t.power.balls = s.power.balls ∧ t.hi = HostIf.reset ∧ t.obs = { ObsPkg.reset with driftAt := s.tick } ∧
      t.mem.strongActive = s.mem.strongRequest ∧ t.cores.replaceRequest = s.cores.replaceRequest ∧
      t.life.wearSaved = s.life.wearNow ∧ t.life.records = s.life.records ∧
      t.life.rollbackCounter = s.life.rollbackCounter ∧ t.tick = s.tick ∧ t.host = s.host) ∧
    (s.power.vinMain = true → s.power.perstN = true → s.power.vaux = true → s.powered = true →
      ∃ t, exec .vinMainLoss s = .next t ∧ t.power.vinMain = false ∧ (∀ p, t.part p = Part.reset) ∧ t.mem.bytes = [] ∧
        t.life.deviceReady = false ∧ t.life.wearSaved = s.life.wearNow ∧ t.tick = s.tick ∧ t.host = s.host ∧
        ∃ x ∈ t.life.records, x.1 = 4 ∧ at_ x.2 0x0C 1 = 10) ∧
    (s.power.vinMain = true → s.power.perstN = false → exec .vinMainLoss s =
      .next { s with power := { s.power with vinMain := false } }) ∧
    (s.life.deviceReady = false → (s.life.bootPhase = 6 ∨ s.life.bootPhase = 0x82) →
      ∃ t, exec .deviceReady s = .next t ∧ t.life.deviceReady = true ∧ t.life.bootPhase = 7 ∧ t.parts = s.parts ∧ t.mem = s.mem ∧
        t.host = s.host ∧ (∀ i : Fin 32, (t.port i).held = false)) ∧
    (∀ found, s.life.deviceReady = false → s.life.found = some found → (s.life.bootPhase = 2 ∨ s.life.bootPhase = 3) →
      (inletPresent (inletOf s.power.coolant) = true →
        ∃ t, exec .deviceReady s = .next t ∧ t.life.deviceReady = true ∧ t.life.bootPhase = 7) ∧
      (inletPresent (inletOf s.power.coolant) = false →
        ∃ t, exec .deviceReady s = .next t ∧ t.life.deviceReady = false ∧ t.life.bootPhase = 0x80)) ∧
    (s.life.found = none → s.life.deviceReady = true ∨ (s.life.bootPhase ≠ 6 ∧ s.life.bootPhase ≠ 0x82) →
      exec .deviceReady s = .next s)

/-- COLD_BOOT and the lines of a boot (10 R291 to R295; 16 R458, R459, R467; 17 R479, R482). PERST_N released with VAUX
good starts a boot unless the readings that shut the package down are not inside their limits; the dies' levels are what
it finds and the package level is the lowest of nine; without a Basket image it waits at 0x81. Its lines come in turn.
At the first, a port whose ENABLE is 1 trains, a Seam found down is down, and a stack with more failed wires in a
channel than redundant lanes is failed; at the second a stack that failed training is, and without an inlet reading of
at most 50 °C the boot waits at 0x80; after the last it is ready for DEVICE_READY. The device is not ready yet.
That the lines come one after the other is the model's choice (log entries 113 and 139). -/
def Obligations.ColdBoot : Prop :=
  (∀ (s : State) (found : BootFindings),
    (s.power.vaux = false ∨ s.power.perstN = true → exec (.coldBoot found) s = .next s) ∧
    (s.power.vaux = true → s.power.perstN = false → s.power.tripClear = false → ∃ t, exec (.coldBoot found) s = .next t ∧
      t.power.perstN = true ∧ t.life = s.life ∧ t.parts = s.parts ∧ t.mem = s.mem ∧ t.ports = s.ports) ∧
    (s.power.vaux = true → s.power.perstN = false → s.power.tripClear = true →
      (found.basketValid = false ∨ s.life.pickSlot = none →
        ∃ t, exec (.coldBoot found) s = .next t ∧ t.life.bootPhase = 0x81 ∧ t.life.found = none ∧ t.power.trip = none ∧
          t.power.thermtripN = true ∧ (s.power.brakeN = false → t.power.effective = 2) ∧ t.host = s.host ∧
          (∀ p k, (t.part p).counter k = (s.part p).counter k)) ∧
      (found.basketValid = true → s.life.pickSlot ≠ none →
        ∃ t, exec (.coldBoot found) s = .next t ∧ t.power.perstN = true ∧ t.life.bootAt = s.tick ∧ t.life.bootPhase = 2 ∧
          t.life.found = some found ∧ t.life.deviceReady = s.life.deviceReady ∧ t.hi.linkUp = true ∧
          (∀ k : Fin 9, dieLevel t.dieInfo[k] = found.dieLevels.getD k.val 0 % 256) ∧ t.levelsAgree ∧
          (∀ p k, (t.part p).counter k = (s.part p).counter k)))) ∧
  (∀ (s t : State) (found : BootFindings), s.life.found = some found → t = s.bootLine →
    (s.life.bootPhase = 2 → t.life.bootPhase = 3 ∧ t.life.found = some found ∧
      (∀ i : Fin 32, (t.port i).state = if bit (s.port i).ctrl.toNat 0 then .training else .disabled) ∧
      (∀ i : Fin 12, i.val ∈ found.downSeams → (t.seams[i]).down = true ∧ (t.seams[i]).linkUp = false) ∧
      (∀ x ∈ found.wireFailures, x.1 < 16 → x.2.1 < 32 → Config.redundantLanes < x.2.2.eraseDups.length →
        t.mem.failed.getLsbD x.1 = true)) ∧
    (s.life.bootPhase = 3 → (∀ k : Fin 16, k.val ∈ found.failedStacks → t.mem.failed.getLsbD k.val = true) ∧
      t.life.found = some found ∧ t.life.bootPhase = (if inletPresent (inletOf s.power.coolant) then 4 else 0x80)) ∧
    (s.life.bootPhase = 4 → t.life.bootPhase = 5 ∧ t.life.found = some found ∧ (found.failedCores = [] → t.cores = s.cores)) ∧
    (s.life.bootPhase = 5 → t.life.found = none ∧ t.life.bootPhase = (if s.life.patchRejected then 0x82 else 6)) ∧
    t.life.deviceReady = s.life.deviceReady ∧ ∀ p k, (t.part p).counter k = (s.part p).counter k)

/-- The rows of time and wear and the ends of background work (16 R453, R462 to R464, R472, R473). A die other than
Colxis that is off the time base slews by what it found. Each second one sample is added to each die's accumulators and
to the minutes; the accumulators are saved when they are written. A self-test or calibration whose target is not ready when its
window ends is DEFERRED with nothing done; one whose target is ready then starts. One that has started ends no earlier than its time: a core passes back to its place or is
retired. -/
def Obligations.TimeWearAndTests : Prop :=
  (∀ (s : State) (die : Fin 9) (d : Int), s.powered = true → die ≠ 0 → ∃ t, exec (.timeBaseCompare die d) s = .next t ∧
    t.life.dieOffsets[die] = d ∧ (∀ k, k ≠ die → t.life.dieOffsets[k] = s.life.dieOffsets[k]) ∧ t.tick = s.tick ∧
    t.parts = s.parts ∧ t.mem = s.mem) ∧
  (∀ (s : State), s.power.vaux = true → s.power.vinMain = true →
    ∃ t, exec .wearSample s = .next t ∧ sget 0 t.life.wearNow 4096 = sget 0 s.life.wearNow 4096 + 1 ∧
      (∀ die, die < 9 → sget 0 t.life.wearNow
          (die * 64 + 4 * junctionBin (junctionTemp (s.power.junction.toList.getD die 0)) + s.voltBin die) =
        sget 0 s.life.wearNow
          (die * 64 + 4 * junctionBin (junctionTemp (s.power.junction.toList.getD die 0)) + s.voltBin die) + 1) ∧
      t.life.wearSaved = s.life.wearSaved ∧ t.mem = s.mem ∧ t.tick = s.tick ∧
      (∀ p k, (t.part p).counter k = (s.part p).counter k) ∧
      ((∃ d, d < 9 ∧ 900 ≤ t.life.wearIndex d) → t.cores.replaceRequest.getLsbD 1 = true)) ∧
  (∀ (s : State), s.power.vaux = true → exec .wearAccumulatorWrite s = .next { s with life := s.life.saveWear }) ∧
  (∀ (s : State) (p : Fin 4) (e : Entry) (b : Background), ((s.part p).queue 0).headEntry = some e →
    s.entry { p := p, q := 0, n := e.n } = some e → e.phase = .waiting → e.accepted = true →
    s.cores.background.find? (fun b => decide (b.cid = some { p := p, q := 0, n := e.n }) && !b.started) = some b →
    (b.due < s.tick ∨ (s.advance b.due).workReady b = false →
      ∃ t e', exec (.selfTestWindowExpiry p) s = .next t ∧ t.tick = max s.tick b.due ∧
      t.entry { p := p, q := 0, n := e.n } = some e' ∧ e'.status = .deferred ∧ e'.phase = .finished ∧
      t.cores.background = s.cores.background.erase b ∧ t.cores.moved = s.cores.moved ∧ t.cores.retired = s.cores.retired ∧
      t.mem = s.mem) ∧
    (s.tick ≤ b.due → (s.advance b.due).workReady b = true →
      ∃ t e' b', exec (.selfTestWindowExpiry p) s = .next t ∧ t.tick = b.due ∧
      t.entry { p := p, q := 0, n := e.n } = some e' ∧ e'.phase = .executed ∧ e'.startTick = b.due ∧
      b' ∈ t.cores.background ∧ b'.cid = b.cid ∧ b'.started = true ∧ b'.start = b.due)) ∧
  (∀ (s : State) (n outcome : Nat) (b : Background), s.cores.background[n]? = some b → b.started = true →
    (b.target ≤ 1 → s.atBoundary b = true →
      ∃ t, exec (.backgroundWorkDone n outcome) s = .next t ∧ t.tick = max s.tick (b.start + workTime b.target) ∧
        t.cores.background = s.cores.background.eraseIdx n ∧
        (outcome = 1 → t.cores.retired = s.cores.retired ++ [b.phys] ∧ t.cores.moved = s.cores.moved) ∧
        (outcome ≠ 1 → t.cores.retired = s.cores.retired ∧
          (s.cores.absent.getLsbD b.index = false → b.phys = 324 * (b.index / 320) + b.index % 320 →
            ∀ x ∈ t.cores.moved, x.1 ≠ b.index)) ∧
        (∀ p k, (t.part p).counter k = (s.part p).counter k)) ∧
    (b.target = 3 → ∃ t, exec (.backgroundWorkDone n outcome) s = .next t ∧ t.tick = max s.tick b.start ∧
      t.cores.background = s.cores.background.eraseIdx n ∧ t.cores.retired = s.cores.retired ∧
      (∀ p k, (t.part p).counter k = (s.part p).counter k)) ∧
    (b.target ≤ 1 → s.atBoundary b = false → exec (.backgroundWorkDone n outcome) s = .next s))

/-- Basket (16 R465 to R467, R471, Table 16.10). Its third missed heartbeat, or a fault of a management core, restarts
it from the slot that Selvage takes, within 500 ms; an image that has run for ten minutes raises the rollback counter to
its version. An access that its firewall allows reads the register named; any other reads 0, is counted and leaves
partitions and memory as they are; of Peg it has the trigger alone. A firmware update over PCIe, or to the package's own SMBus
address, writes the slot that is not running, and takes effect at the next start; an unsigned image empties it (log entry 119: the
model's reading). The calendar is set as by the host. Any other message changes nothing (log entry 106: the model's choice), nor
does one to another address. A message that comes while Basket restarts waits (R467). -/
def Obligations.BasketAndItsFirewall : Prop :=
  (∀ (s : State) (a : Option Nat) (msg : MgmtMsg), s.restarting = true → a.getD s.power.address = s.power.address →
    exec (.mctpMessage { address := a, body := msg }) s = .next { s with life := { s.life with waiting := s.life.waiting ++ [msg] } })
  ∧ (∀ (s : State) (a : Nat) (msg : MgmtMsg), a ≠ s.power.address → exec (.mctpMessage { address := some a, body := msg }) s = .next s)
  ∧ ∀ (s : State), s.basketUp = true →
    (∃ t, exec (.basketHeartbeatCheck true) s = .next t ∧ t.life.basketMisses = 0 ∧ t.life.waiting = [] ∧
      t.life.basketRestarts = s.life.basketRestarts ∧ t.parts = s.parts ∧ t.mem = s.mem) ∧
    (s.life.basketMisses < 2 → ∃ t, exec (.basketHeartbeatCheck false) s = .next t ∧
      t.life.basketMisses = s.life.basketMisses + 1 ∧ t.life.basketRestarts = s.life.basketRestarts ∧ t.parts = s.parts ∧
      t.mem = s.mem) ∧
    (∀ c, c = Instr.managementCoreFault ∨ (c = Instr.basketHeartbeatCheck false ∧ 2 ≤ s.life.basketMisses) →
      ∃ t, exec c s = .next t ∧ t.life.basketMisses = 0 ∧ t.life.basketStartedAt = s.tick ∧
        t.life.basketSlot = (s.life.pickSlot == some 1) ∧ t.life.newSlot = none ∧ t.life.basketRestarts = min (s.life.basketRestarts + 1) 65535 ∧
        t.life.basketUpAt ≤ s.tick + 500000000 ∧
        t.hi.pkgHealthWritten + t.hi.pkgHealthDrops = s.hi.pkgHealthWritten + s.hi.pkgHealthDrops + 1 ∧ t.tick = s.tick ∧
        t.mem = s.mem ∧ ∀ p k, (t.part p).counter k = (s.part p).counter k) ∧
    (∀ v, v = s.life.slotVersion.getD s.life.basketSlot.toNat 0 - 1 →
      (s.life.rollbackCounter < v → ∃ t, exec .basketRollbackRaise s = .next t ∧ t.life.rollbackCounter = v ∧
        t.tick = max s.tick (s.life.basketStartedAt + 600000000000) ∧ t.parts = s.parts ∧ t.mem = s.mem) ∧
      (v ≤ s.life.rollbackCounter → exec .basketRollbackRaise s = .next s)) ∧
    (∀ req, (req = .frames ∨ req = .hostMemory ∨ req = .selvageData ∨ (∃ p o, req = .readPartition p o ∧ basketReads o = false) ∨
        (∃ o, req = .readPackage o ∧ basketMay o = false)) →
      ∃ t, exec (.basketAccess req) s = .next t ∧ t.out = .basketData 0 :: s.out ∧
        t.life.firewallBlocks = s.life.firewallBlocks + 1 ∧ t.parts = s.parts ∧ t.mem = s.mem ∧ t.host = s.host) ∧
    (∀ p o, exec (.basketAccess (.writePartition p o)) s = .next s.blocked) ∧
    (∀ o v, basketMay o = false → o ≠ 0x630004 → exec (.basketAccess (.writePackage o v)) s = .next s.blocked) ∧
    (∀ o r, basketMay o = true → PkgReg.locate o = some r → exec (.basketAccess (.readPackage o)) s =
      .next { s with out := .basketData (BitVec.ofNat 64 (s.readPkg r)) :: s.out }) ∧
    (∀ o v, basketMay o = true → PkgReg.locate o = some .flow → ∃ t, exec (.basketAccess (.writePackage o v)) s = .next t ∧
      fld t.power.flow.toNat 0 16 = v.toNat % 65536 ∧ fld t.power.flow.toNat 16 1 = fld s.power.flow.toNat 16 1 ∧
      t.parts = s.parts ∧ t.mem = s.mem) ∧
    (∀ a v signed, a.getD s.power.address = s.power.address → s.life.waiting = [] → s.life.slotVersion.length = 2 →
      ∃ t, exec (.mctpMessage { address := a, body := .firmware v signed }) s = .next t ∧
      t.life.newSlot = some (if s.life.basketSlot then 0 else 1) ∧
      t.life.slotVersion.getD (if s.life.basketSlot then 0 else 1) 0 = (if signed then v + 1 else 0) ∧
      t.life.slotVersion.getD s.life.basketSlot.toNat 0 = s.life.slotVersion.getD s.life.basketSlot.toNat 0 ∧
      t.life.basketSlot = s.life.basketSlot ∧ t.parts = s.parts ∧ t.mem = s.mem) ∧
    (∀ a n, a.getD s.power.address = s.power.address → s.life.waiting = [] → ∃ t, exec (.mctpMessage { address := a, body := .calendar n }) s = .next t ∧ t.calendar = n % 2 ^ 63 + 2 ^ 63 ∧ t.parts = s.parts ∧
      t.mem = s.mem ∧ t.tick = s.tick) ∧
    (∀ a b, s.life.waiting = [] → exec (.mctpMessage { address := a, body := .other b }) s = .next s)

/-- An operand that is no flit, frame or packet (10 Table 10.4; 11 Tables 11.2, 11.5, 11.6) is no event of the hardware:
the row faults and has no effect (log entry 4). Every other command completes, in every state, one that its rule gives no effect
there changing nothing (log entry 1). Both are the model's choice. -/
def Obligations.OnlyMalformedOperandsFault : Prop :=
  ∀ (c : Instr) (s : State),
    (c.malformed = true → exec c s = .fault .malformedOperand) ∧ (c.malformed = false → Completes (exec c s))
end

