-- ==== Sys2Proof/Laws/Sparse.lean ====
section
/-! SUPPORT. The laws of sparse maps: every operation keeps the canonical form, a read after a write to the same key
gives the value written, and a write leaves every other key alone. -/

namespace Sys2Proof.Machine

variable {α : Type}

/-- A list of writes in order, each keeping the canonical form. -/
theorem foldl_inv {β γ : Type} (P : β → Prop) (f : β → γ → β) (hf : ∀ b c, P b → P (f b c)) :
    ∀ (l : List γ) (b : β), P b → P (l.foldl f b)
  | [], _, h => h
  | c :: r, b, h => foldl_inv P f hf r (f b c) (hf b c h)

section
variable [DecidableEq α]

theorem swfFrom_mono (d : α) {a b : Nat} (hab : a ≤ b) : ∀ {m : SMap α}, swfFrom d b m = true → swfFrom d a m = true
  | [], _ => rfl
  | (k, v) :: r, h => by
    simp only [swfFrom, Bool.and_eq_true, decide_eq_true_eq] at h ⊢
    exact ⟨⟨by omega, h.1.2⟩, h.2⟩

theorem swfFrom_serase (d : α) (k : Nat) : ∀ {m : SMap α} {b : Nat}, swfFrom d b m = true → swfFrom d b (serase m k) = true
  | [], _, _ => rfl
  | (k', v) :: r, b, h => by
    simp only [swfFrom, Bool.and_eq_true, decide_eq_true_eq] at h
    simp only [serase]
    split
    · exact swfFrom_serase d k (swfFrom_mono d (by omega) h.2)
    · simp only [swfFrom, Bool.and_eq_true, decide_eq_true_eq]
      exact ⟨h.1, swfFrom_serase d k h.2⟩

theorem swfFrom_sinsert (d : α) (k : Nat) (v : α) (hv : v ≠ d) :
    ∀ {m : SMap α} {b : Nat}, b ≤ k → swfFrom d b m = true → swfFrom d b (sinsert m k v) = true
  | [], b, hb, _ => by simp [sinsert, swfFrom, hb, hv]
  | (k', v') :: r, b, hb, h => by
    have h' := h
    simp only [swfFrom, Bool.and_eq_true, decide_eq_true_eq] at h
    simp only [sinsert]
    split
    · subst_vars
      simp [swfFrom, hb, hv, h.2]
    · split
      · simp only [swfFrom, Bool.and_eq_true, decide_eq_true_eq]
        exact ⟨⟨hb, hv⟩, ⟨⟨by omega, h.1.2⟩, h.2⟩⟩
      · simp only [swfFrom, Bool.and_eq_true, decide_eq_true_eq]
        exact ⟨h.1, swfFrom_sinsert d k v hv (by omega) h.2⟩

/-- A write keeps the canonical form. -/
theorem swf_sset (d : α) (m : SMap α) (k : Nat) (v : α) (h : swf d m = true) : swf d (sset d m k v) = true := by
  unfold sset
  split
  · exact swfFrom_serase d k h
  · exact swfFrom_sinsert d k v (by assumption) (Nat.zero_le k) h

theorem swfFrom_filter (d : α) (p : Nat × α → Bool) :
    ∀ {m : SMap α} {b : Nat}, swfFrom d b m = true → swfFrom d b (m.filter p) = true
  | [], _, _ => rfl
  | (k, v) :: r, b, h => by
    simp only [swfFrom, Bool.and_eq_true, decide_eq_true_eq] at h
    simp only [List.filter_cons]
    split
    · simp only [swfFrom, Bool.and_eq_true, decide_eq_true_eq]
      exact ⟨h.1, swfFrom_filter d p h.2⟩
    · exact swfFrom_mono d (by omega) (swfFrom_filter d p h.2)

/-- Taking entries out keeps the canonical form. -/
theorem swf_filter (d : α) (p : Nat × α → Bool) (m : SMap α) (h : swf d m = true) : swf d (m.filter p) = true :=
  swfFrom_filter d p h

omit [DecidableEq α] in
theorem sget_serase_same (d : α) (k : Nat) : ∀ m : SMap α, sget d (serase m k) k = d
  | [] => rfl
  | (k', v) :: r => by
    simp only [serase]
    split
    · exact sget_serase_same d k r
    · simp only [sget]
      rw [if_neg (by omega), sget_serase_same d k r]

omit [DecidableEq α] in
theorem sget_serase_other (d : α) {j k : Nat} (hj : j ≠ k) : ∀ m : SMap α, sget d (serase m k) j = sget d m j
  | [] => rfl
  | (k', v) :: r => by
    simp only [serase]
    split
    · simp only [sget]
      rw [if_neg (by omega), sget_serase_other d hj r]
    · simp only [sget, sget_serase_other d hj r]

omit [DecidableEq α] in
theorem sget_sinsert_same (d : α) (k : Nat) (v : α) : ∀ m : SMap α, sget d (sinsert m k v) k = v
  | [] => by simp [sinsert, sget]
  | (k', v') :: r => by
    simp only [sinsert]
    split
    · simp [sget]
    · split
      · simp [sget]
      · simp only [sget]
        rw [if_neg (by omega)]
        exact sget_sinsert_same d k v r

omit [DecidableEq α] in
theorem sget_sinsert_other (d : α) {j k : Nat} (hj : j ≠ k) (v : α) : ∀ m : SMap α, sget d (sinsert m k v) j = sget d m j
  | [] => by simp only [sinsert, sget]; rw [if_neg (by omega)]
  | (k', v') :: r => by
    simp only [sinsert]
    split
    · subst_vars
      simp only [sget, if_neg (Ne.symm hj)]
    · split
      · simp only [sget]
        rw [if_neg (by omega)]
      · simp only [sget, sget_sinsert_other d hj v r]

/-- A read after a write to the same key gives the value written. -/
@[simp] theorem sget_sset_same (d : α) (m : SMap α) (k : Nat) (v : α) : sget d (sset d m k v) k = v := by
  unfold sset
  split
  · subst_vars; exact sget_serase_same _ k m
  · exact sget_sinsert_same d k v m

/-- A write leaves every other key alone. -/
theorem sget_sset_other (d : α) (m : SMap α) {j k : Nat} (v : α) (hj : j ≠ k) : sget d (sset d m k v) j = sget d m j := by
  unfold sset
  split
  · exact sget_serase_other d hj m
  · exact sget_sinsert_other d hj v m

end

/-! ### Memories -/

/-- A store keeps the canonical form. -/
theorem swf_swrite : ∀ (b : Bytes) (m : SMap Byte) (a : Nat), swf 0 m = true → swf 0 (swrite m a b) = true
  | [], _, _, h => h
  | v :: r, m, a, h => swf_swrite r _ (a + 1) (swf_sset 0 m a v h)

/-- Stores in order keep the canonical form. -/
theorem swf_sstores : ∀ (l : List (Nat × Byte)) (m : SMap Byte), swf 0 m = true → swf 0 (sstores m l) = true
  | [], _, h => h
  | (a, v) :: r, m, h => swf_sstores r _ (swf_sset 0 m a v h)

/-- A store leaves every byte outside it alone. -/
theorem sget_swrite_outside : ∀ (b : Bytes) (m : SMap Byte) (a j : Nat), (j < a ∨ a + b.length ≤ j) →
    sget 0 (swrite m a b) j = sget 0 m j
  | [], _, _, _, _ => rfl
  | v :: r, m, a, j, hj => by
    simp only [List.length_cons] at hj
    rw [swrite, sget_swrite_outside r _ (a + 1) j (by omega), sget_sset_other 0 m v (by omega)]

/-- Every byte of a store reads as stored. -/
theorem sget_swrite_inside : ∀ (b : Bytes) (m : SMap Byte) (a i : Nat) (hi : i < b.length),
    sget 0 (swrite m a b) (a + i) = b[i]
  | v :: r, m, a, 0, _ => by
    show sget 0 (swrite (sset 0 m a v) (a + 1) r) a = v
    rw [sget_swrite_outside r _ (a + 1) a (by omega), sget_sset_same 0 m a v]
  | v :: r, m, a, i + 1, hi => by
    have hi' : i < r.length := by simpa using hi
    have := sget_swrite_inside r (sset 0 m a v) (a + 1) i hi'
    rw [swrite, show a + (i + 1) = a + 1 + i by omega, this]
    rfl

/-- A read of n bytes is the byte reads. -/
theorem sread_length (m : SMap Byte) : ∀ (n a : Nat), (sread m a n).length = n
  | 0, _ => rfl
  | n + 1, a => by simp [sread, sread_length m n (a + 1)]

/-- A read that misses every stored byte is what it was. -/
theorem sread_swrite_outside (b : Bytes) (m : SMap Byte) (a : Nat) :
    ∀ (n j : Nat), (j + n ≤ a ∨ a + b.length ≤ j) → sread (swrite m a b) j n = sread m j n
  | 0, _, _ => rfl
  | n + 1, j, hj => by
    rw [sread, sread, sget_swrite_outside b m a j (by omega), sread_swrite_outside b m a n (j + 1) (by omega)]

/-- Reading what was stored gives it back. -/
theorem sread_swrite_same : ∀ (b : Bytes) (m : SMap Byte) (a : Nat), sread (swrite m a b) a b.length = b
  | [], _, _ => rfl
  | v :: r, m, a => by
    simp only [List.length_cons, swrite, sread]
    rw [sread_swrite_same r _ (a + 1), sget_swrite_outside r _ (a + 1) a (by omega), sget_sset_same 0 m a v]

end Sys2Proof.Machine
end

