-- ==== Sys2Proof/Laws/State.lean ====
section
/-! SUPPORT. The small laws of the state: what each accessor reads after each update. -/

namespace Sys2Proof.Machine

/-! ### Updates of the state, field by field -/

@[simp] theorem State.setPart_pending (s : State) (p : Fin 4) (P : Part) : (s.setPart p P).pending = s.pending := rfl
@[simp] theorem State.setPart_tick (s : State) (p : Fin 4) (P : Part) : (s.setPart p P).tick = s.tick := rfl
@[simp] theorem State.setPart_free (s : State) (p : Fin 4) (P : Part) : (s.setPart p P).free = s.free := rfl
@[simp] theorem State.setPart_mem (s : State) (p : Fin 4) (P : Part) : (s.setPart p P).mem = s.mem := rfl
@[simp] theorem State.setPart_host (s : State) (p : Fin 4) (P : Part) : (s.setPart p P).host = s.host := rfl
@[simp] theorem State.setPart_cores (s : State) (p : Fin 4) (P : Part) : (s.setPart p P).cores = s.cores := rfl
@[simp] theorem State.setPart_seams (s : State) (p : Fin 4) (P : Part) : (s.setPart p P).seams = s.seams := rfl
@[simp] theorem State.setPart_dieInfo (s : State) (p : Fin 4) (P : Part) : (s.setPart p P).dieInfo = s.dieInfo := rfl
@[simp] theorem State.setPart_packageLevel (s : State) (p : Fin 4) (P : Part) : (s.setPart p P).packageLevel = s.packageLevel := rfl
@[simp] theorem State.setPart_ports (s : State) (p : Fin 4) (P : Part) : (s.setPart p P).ports = s.ports := rfl
@[simp] theorem State.setPart_fab (s : State) (p : Fin 4) (P : Part) : (s.setPart p P).fab = s.fab := rfl
@[simp] theorem State.setPart_obs (s : State) (p : Fin 4) (P : Part) : (s.setPart p P).obs = s.obs := rfl
@[simp] theorem State.setPart_power (s : State) (p : Fin 4) (P : Part) : (s.setPart p P).power = s.power := rfl
@[simp] theorem State.setPart_life (s : State) (p : Fin 4) (P : Part) : (s.setPart p P).life = s.life := rfl
@[simp] theorem State.setPart_hi (s : State) (p : Fin 4) (P : Part) : (s.setPart p P).hi = s.hi := rfl
@[simp] theorem State.setPart_out (s : State) (p : Fin 4) (P : Part) : (s.setPart p P).out = s.out := rfl
@[simp] theorem State.modPart_pending (s : State) (p : Fin 4) (f : Part → Part) : (s.modPart p f).pending = s.pending := rfl
@[simp] theorem State.modPart_tick (s : State) (p : Fin 4) (f : Part → Part) : (s.modPart p f).tick = s.tick := rfl
@[simp] theorem State.modPart_free (s : State) (p : Fin 4) (f : Part → Part) : (s.modPart p f).free = s.free := rfl
@[simp] theorem State.modPart_mem (s : State) (p : Fin 4) (f : Part → Part) : (s.modPart p f).mem = s.mem := rfl
@[simp] theorem State.modPart_host (s : State) (p : Fin 4) (f : Part → Part) : (s.modPart p f).host = s.host := rfl
@[simp] theorem State.modPart_cores (s : State) (p : Fin 4) (f : Part → Part) : (s.modPart p f).cores = s.cores := rfl
@[simp] theorem State.modPart_seams (s : State) (p : Fin 4) (f : Part → Part) : (s.modPart p f).seams = s.seams := rfl
@[simp] theorem State.modPart_dieInfo (s : State) (p : Fin 4) (f : Part → Part) : (s.modPart p f).dieInfo = s.dieInfo := rfl
@[simp] theorem State.modPart_packageLevel (s : State) (p : Fin 4) (f : Part → Part) : (s.modPart p f).packageLevel = s.packageLevel := rfl
@[simp] theorem State.modPart_ports (s : State) (p : Fin 4) (f : Part → Part) : (s.modPart p f).ports = s.ports := rfl
@[simp] theorem State.modPart_fab (s : State) (p : Fin 4) (f : Part → Part) : (s.modPart p f).fab = s.fab := rfl
@[simp] theorem State.modPart_obs (s : State) (p : Fin 4) (f : Part → Part) : (s.modPart p f).obs = s.obs := rfl
@[simp] theorem State.modPart_power (s : State) (p : Fin 4) (f : Part → Part) : (s.modPart p f).power = s.power := rfl
@[simp] theorem State.modPart_life (s : State) (p : Fin 4) (f : Part → Part) : (s.modPart p f).life = s.life := rfl
@[simp] theorem State.modPart_hi (s : State) (p : Fin 4) (f : Part → Part) : (s.modPart p f).hi = s.hi := rfl
@[simp] theorem State.modPart_out (s : State) (p : Fin 4) (f : Part → Part) : (s.modPart p f).out = s.out := rfl
@[simp] theorem State.modEntry_pending (s : State) (c : Cid) (f : Entry → Entry) : (s.modEntry c f).pending = s.pending := rfl
@[simp] theorem State.modEntry_tick (s : State) (c : Cid) (f : Entry → Entry) : (s.modEntry c f).tick = s.tick := rfl
@[simp] theorem State.modEntry_free (s : State) (c : Cid) (f : Entry → Entry) : (s.modEntry c f).free = s.free := rfl
@[simp] theorem State.modEntry_mem (s : State) (c : Cid) (f : Entry → Entry) : (s.modEntry c f).mem = s.mem := rfl
@[simp] theorem State.modEntry_host (s : State) (c : Cid) (f : Entry → Entry) : (s.modEntry c f).host = s.host := rfl
@[simp] theorem State.modEntry_cores (s : State) (c : Cid) (f : Entry → Entry) : (s.modEntry c f).cores = s.cores := rfl
@[simp] theorem State.modEntry_seams (s : State) (c : Cid) (f : Entry → Entry) : (s.modEntry c f).seams = s.seams := rfl
@[simp] theorem State.modEntry_dieInfo (s : State) (c : Cid) (f : Entry → Entry) : (s.modEntry c f).dieInfo = s.dieInfo := rfl
@[simp] theorem State.modEntry_packageLevel (s : State) (c : Cid) (f : Entry → Entry) : (s.modEntry c f).packageLevel = s.packageLevel := rfl
@[simp] theorem State.modEntry_ports (s : State) (c : Cid) (f : Entry → Entry) : (s.modEntry c f).ports = s.ports := rfl
@[simp] theorem State.modEntry_fab (s : State) (c : Cid) (f : Entry → Entry) : (s.modEntry c f).fab = s.fab := rfl
@[simp] theorem State.modEntry_obs (s : State) (c : Cid) (f : Entry → Entry) : (s.modEntry c f).obs = s.obs := rfl
@[simp] theorem State.modEntry_power (s : State) (c : Cid) (f : Entry → Entry) : (s.modEntry c f).power = s.power := rfl
@[simp] theorem State.modEntry_life (s : State) (c : Cid) (f : Entry → Entry) : (s.modEntry c f).life = s.life := rfl
@[simp] theorem State.modEntry_hi (s : State) (c : Cid) (f : Entry → Entry) : (s.modEntry c f).hi = s.hi := rfl
@[simp] theorem State.modEntry_out (s : State) (c : Cid) (f : Entry → Entry) : (s.modEntry c f).out = s.out := rfl
@[simp] theorem State.modQueue_pending (s : State) (p : Fin 4) (q : Nat) (f : Queue → Queue) : (s.modQueue p q f).pending = s.pending := rfl
@[simp] theorem State.modQueue_tick (s : State) (p : Fin 4) (q : Nat) (f : Queue → Queue) : (s.modQueue p q f).tick = s.tick := rfl
@[simp] theorem State.modQueue_free (s : State) (p : Fin 4) (q : Nat) (f : Queue → Queue) : (s.modQueue p q f).free = s.free := rfl
@[simp] theorem State.modQueue_mem (s : State) (p : Fin 4) (q : Nat) (f : Queue → Queue) : (s.modQueue p q f).mem = s.mem := rfl
@[simp] theorem State.modQueue_host (s : State) (p : Fin 4) (q : Nat) (f : Queue → Queue) : (s.modQueue p q f).host = s.host := rfl
@[simp] theorem State.modQueue_cores (s : State) (p : Fin 4) (q : Nat) (f : Queue → Queue) : (s.modQueue p q f).cores = s.cores := rfl
@[simp] theorem State.modQueue_seams (s : State) (p : Fin 4) (q : Nat) (f : Queue → Queue) : (s.modQueue p q f).seams = s.seams := rfl
@[simp] theorem State.modQueue_dieInfo (s : State) (p : Fin 4) (q : Nat) (f : Queue → Queue) : (s.modQueue p q f).dieInfo = s.dieInfo := rfl
@[simp] theorem State.modQueue_packageLevel (s : State) (p : Fin 4) (q : Nat) (f : Queue → Queue) : (s.modQueue p q f).packageLevel = s.packageLevel := rfl
@[simp] theorem State.modQueue_ports (s : State) (p : Fin 4) (q : Nat) (f : Queue → Queue) : (s.modQueue p q f).ports = s.ports := rfl
@[simp] theorem State.modQueue_fab (s : State) (p : Fin 4) (q : Nat) (f : Queue → Queue) : (s.modQueue p q f).fab = s.fab := rfl
@[simp] theorem State.modQueue_obs (s : State) (p : Fin 4) (q : Nat) (f : Queue → Queue) : (s.modQueue p q f).obs = s.obs := rfl
@[simp] theorem State.modQueue_power (s : State) (p : Fin 4) (q : Nat) (f : Queue → Queue) : (s.modQueue p q f).power = s.power := rfl
@[simp] theorem State.modQueue_life (s : State) (p : Fin 4) (q : Nat) (f : Queue → Queue) : (s.modQueue p q f).life = s.life := rfl
@[simp] theorem State.modQueue_hi (s : State) (p : Fin 4) (q : Nat) (f : Queue → Queue) : (s.modQueue p q f).hi = s.hi := rfl
@[simp] theorem State.modQueue_out (s : State) (p : Fin 4) (q : Nat) (f : Queue → Queue) : (s.modQueue p q f).out = s.out := rfl
@[simp] theorem State.modThread_pending (s : State) (i : Tid) (f : Thread → Thread) : (s.modThread i f).pending = s.pending := rfl
@[simp] theorem State.modThread_tick (s : State) (i : Tid) (f : Thread → Thread) : (s.modThread i f).tick = s.tick := rfl
@[simp] theorem State.modThread_free (s : State) (i : Tid) (f : Thread → Thread) : (s.modThread i f).free = s.free := rfl
@[simp] theorem State.modThread_mem (s : State) (i : Tid) (f : Thread → Thread) : (s.modThread i f).mem = s.mem := rfl
@[simp] theorem State.modThread_host (s : State) (i : Tid) (f : Thread → Thread) : (s.modThread i f).host = s.host := rfl
@[simp] theorem State.modThread_cores (s : State) (i : Tid) (f : Thread → Thread) : (s.modThread i f).cores = s.cores := rfl
@[simp] theorem State.modThread_seams (s : State) (i : Tid) (f : Thread → Thread) : (s.modThread i f).seams = s.seams := rfl
@[simp] theorem State.modThread_dieInfo (s : State) (i : Tid) (f : Thread → Thread) : (s.modThread i f).dieInfo = s.dieInfo := rfl
@[simp] theorem State.modThread_packageLevel (s : State) (i : Tid) (f : Thread → Thread) : (s.modThread i f).packageLevel = s.packageLevel := rfl
@[simp] theorem State.modThread_ports (s : State) (i : Tid) (f : Thread → Thread) : (s.modThread i f).ports = s.ports := rfl
@[simp] theorem State.modThread_fab (s : State) (i : Tid) (f : Thread → Thread) : (s.modThread i f).fab = s.fab := rfl
@[simp] theorem State.modThread_obs (s : State) (i : Tid) (f : Thread → Thread) : (s.modThread i f).obs = s.obs := rfl
@[simp] theorem State.modThread_power (s : State) (i : Tid) (f : Thread → Thread) : (s.modThread i f).power = s.power := rfl
@[simp] theorem State.modThread_life (s : State) (i : Tid) (f : Thread → Thread) : (s.modThread i f).life = s.life := rfl
@[simp] theorem State.modThread_hi (s : State) (i : Tid) (f : Thread → Thread) : (s.modThread i f).hi = s.hi := rfl
@[simp] theorem State.modThread_out (s : State) (i : Tid) (f : Thread → Thread) : (s.modThread i f).out = s.out := rfl
@[simp] theorem State.emit_pending (s : State) (o : Out) : (s.emit o).pending = s.pending := rfl
@[simp] theorem State.emit_tick (s : State) (o : Out) : (s.emit o).tick = s.tick := rfl
@[simp] theorem State.emit_free (s : State) (o : Out) : (s.emit o).free = s.free := rfl
@[simp] theorem State.emit_parts (s : State) (o : Out) : (s.emit o).parts = s.parts := rfl
@[simp] theorem State.emit_mem (s : State) (o : Out) : (s.emit o).mem = s.mem := rfl
@[simp] theorem State.emit_host (s : State) (o : Out) : (s.emit o).host = s.host := rfl
@[simp] theorem State.emit_cores (s : State) (o : Out) : (s.emit o).cores = s.cores := rfl
@[simp] theorem State.emit_seams (s : State) (o : Out) : (s.emit o).seams = s.seams := rfl
@[simp] theorem State.emit_dieInfo (s : State) (o : Out) : (s.emit o).dieInfo = s.dieInfo := rfl
@[simp] theorem State.emit_packageLevel (s : State) (o : Out) : (s.emit o).packageLevel = s.packageLevel := rfl
@[simp] theorem State.emit_ports (s : State) (o : Out) : (s.emit o).ports = s.ports := rfl
@[simp] theorem State.emit_fab (s : State) (o : Out) : (s.emit o).fab = s.fab := rfl
@[simp] theorem State.emit_obs (s : State) (o : Out) : (s.emit o).obs = s.obs := rfl
@[simp] theorem State.emit_power (s : State) (o : Out) : (s.emit o).power = s.power := rfl
@[simp] theorem State.emit_life (s : State) (o : Out) : (s.emit o).life = s.life := rfl
@[simp] theorem State.emit_hi (s : State) (o : Out) : (s.emit o).hi = s.hi := rfl
@[simp] theorem State.tally_pending (s : State) (cls unit idx k : Nat) : (s.tally cls unit idx k).pending = s.pending := rfl
@[simp] theorem State.tally_tick (s : State) (cls unit idx k : Nat) : (s.tally cls unit idx k).tick = s.tick := rfl
@[simp] theorem State.tally_free (s : State) (cls unit idx k : Nat) : (s.tally cls unit idx k).free = s.free := rfl
@[simp] theorem State.tally_parts (s : State) (cls unit idx k : Nat) : (s.tally cls unit idx k).parts = s.parts := rfl
@[simp] theorem State.tally_mem (s : State) (cls unit idx k : Nat) : (s.tally cls unit idx k).mem = s.mem := rfl
@[simp] theorem State.tally_host (s : State) (cls unit idx k : Nat) : (s.tally cls unit idx k).host = s.host := rfl
@[simp] theorem State.tally_cores (s : State) (cls unit idx k : Nat) : (s.tally cls unit idx k).cores = s.cores := rfl
@[simp] theorem State.tally_seams (s : State) (cls unit idx k : Nat) : (s.tally cls unit idx k).seams = s.seams := rfl
@[simp] theorem State.tally_dieInfo (s : State) (cls unit idx k : Nat) : (s.tally cls unit idx k).dieInfo = s.dieInfo := rfl
@[simp] theorem State.tally_packageLevel (s : State) (cls unit idx k : Nat) : (s.tally cls unit idx k).packageLevel = s.packageLevel := rfl
@[simp] theorem State.tally_ports (s : State) (cls unit idx k : Nat) : (s.tally cls unit idx k).ports = s.ports := rfl
@[simp] theorem State.tally_fab (s : State) (cls unit idx k : Nat) : (s.tally cls unit idx k).fab = s.fab := rfl
@[simp] theorem State.tally_power (s : State) (cls unit idx k : Nat) : (s.tally cls unit idx k).power = s.power := rfl
@[simp] theorem State.tally_life (s : State) (cls unit idx k : Nat) : (s.tally cls unit idx k).life = s.life := rfl
@[simp] theorem State.tally_hi (s : State) (cls unit idx k : Nat) : (s.tally cls unit idx k).hi = s.hi := rfl
@[simp] theorem State.tally_out (s : State) (cls unit idx k : Nat) : (s.tally cls unit idx k).out = s.out := rfl
@[simp] theorem State.advance_pending (s : State) (t : Nat) : (s.advance t).pending = s.pending := rfl
@[simp] theorem State.advance_free (s : State) (t : Nat) : (s.advance t).free = s.free := rfl
@[simp] theorem State.advance_parts (s : State) (t : Nat) : (s.advance t).parts = s.parts := rfl
@[simp] theorem State.advance_mem (s : State) (t : Nat) : (s.advance t).mem = s.mem := rfl
@[simp] theorem State.advance_host (s : State) (t : Nat) : (s.advance t).host = s.host := rfl
@[simp] theorem State.advance_cores (s : State) (t : Nat) : (s.advance t).cores = s.cores := rfl
@[simp] theorem State.advance_seams (s : State) (t : Nat) : (s.advance t).seams = s.seams := rfl
@[simp] theorem State.advance_dieInfo (s : State) (t : Nat) : (s.advance t).dieInfo = s.dieInfo := rfl
@[simp] theorem State.advance_packageLevel (s : State) (t : Nat) : (s.advance t).packageLevel = s.packageLevel := rfl
@[simp] theorem State.advance_ports (s : State) (t : Nat) : (s.advance t).ports = s.ports := rfl
@[simp] theorem State.advance_fab (s : State) (t : Nat) : (s.advance t).fab = s.fab := rfl
@[simp] theorem State.advance_obs (s : State) (t : Nat) : (s.advance t).obs = s.obs := rfl
@[simp] theorem State.advance_power (s : State) (t : Nat) : (s.advance t).power = s.power := rfl
@[simp] theorem State.advance_life (s : State) (t : Nat) : (s.advance t).life = s.life := rfl
@[simp] theorem State.advance_hi (s : State) (t : Nat) : (s.advance t).hi = s.hi := rfl
@[simp] theorem State.advance_out (s : State) (t : Nat) : (s.advance t).out = s.out := rfl
@[simp] theorem State.hostWrite_pending (s : State) (a : Nat) (b : Bytes) : (s.hostWrite a b).pending = s.pending := rfl
@[simp] theorem State.hostWrite_tick (s : State) (a : Nat) (b : Bytes) : (s.hostWrite a b).tick = s.tick := rfl
@[simp] theorem State.hostWrite_free (s : State) (a : Nat) (b : Bytes) : (s.hostWrite a b).free = s.free := rfl
@[simp] theorem State.hostWrite_parts (s : State) (a : Nat) (b : Bytes) : (s.hostWrite a b).parts = s.parts := rfl
@[simp] theorem State.hostWrite_mem (s : State) (a : Nat) (b : Bytes) : (s.hostWrite a b).mem = s.mem := rfl
@[simp] theorem State.hostWrite_cores (s : State) (a : Nat) (b : Bytes) : (s.hostWrite a b).cores = s.cores := rfl
@[simp] theorem State.hostWrite_seams (s : State) (a : Nat) (b : Bytes) : (s.hostWrite a b).seams = s.seams := rfl
@[simp] theorem State.hostWrite_dieInfo (s : State) (a : Nat) (b : Bytes) : (s.hostWrite a b).dieInfo = s.dieInfo := rfl
@[simp] theorem State.hostWrite_packageLevel (s : State) (a : Nat) (b : Bytes) : (s.hostWrite a b).packageLevel = s.packageLevel := rfl
@[simp] theorem State.hostWrite_ports (s : State) (a : Nat) (b : Bytes) : (s.hostWrite a b).ports = s.ports := rfl
@[simp] theorem State.hostWrite_fab (s : State) (a : Nat) (b : Bytes) : (s.hostWrite a b).fab = s.fab := rfl
@[simp] theorem State.hostWrite_obs (s : State) (a : Nat) (b : Bytes) : (s.hostWrite a b).obs = s.obs := rfl
@[simp] theorem State.hostWrite_power (s : State) (a : Nat) (b : Bytes) : (s.hostWrite a b).power = s.power := rfl
@[simp] theorem State.hostWrite_life (s : State) (a : Nat) (b : Bytes) : (s.hostWrite a b).life = s.life := rfl
@[simp] theorem State.hostWrite_hi (s : State) (a : Nat) (b : Bytes) : (s.hostWrite a b).hi = s.hi := rfl
@[simp] theorem State.hostWrite_out (s : State) (a : Nat) (b : Bytes) : (s.hostWrite a b).out = s.out := rfl
@[simp] theorem State.executed_pending (s : State) (c : Cid) (f : Entry → Entry) : (s.executed c f).pending = s.pending := rfl
@[simp] theorem State.executed_tick (s : State) (c : Cid) (f : Entry → Entry) : (s.executed c f).tick = s.tick := rfl
@[simp] theorem State.executed_free (s : State) (c : Cid) (f : Entry → Entry) : (s.executed c f).free = s.free := rfl
@[simp] theorem State.executed_mem (s : State) (c : Cid) (f : Entry → Entry) : (s.executed c f).mem = s.mem := rfl
@[simp] theorem State.executed_host (s : State) (c : Cid) (f : Entry → Entry) : (s.executed c f).host = s.host := rfl
@[simp] theorem State.executed_cores (s : State) (c : Cid) (f : Entry → Entry) : (s.executed c f).cores = s.cores := rfl
@[simp] theorem State.executed_seams (s : State) (c : Cid) (f : Entry → Entry) : (s.executed c f).seams = s.seams := rfl
@[simp] theorem State.executed_dieInfo (s : State) (c : Cid) (f : Entry → Entry) : (s.executed c f).dieInfo = s.dieInfo := rfl
@[simp] theorem State.executed_packageLevel (s : State) (c : Cid) (f : Entry → Entry) : (s.executed c f).packageLevel = s.packageLevel := rfl
@[simp] theorem State.executed_ports (s : State) (c : Cid) (f : Entry → Entry) : (s.executed c f).ports = s.ports := rfl
@[simp] theorem State.executed_fab (s : State) (c : Cid) (f : Entry → Entry) : (s.executed c f).fab = s.fab := rfl
@[simp] theorem State.executed_obs (s : State) (c : Cid) (f : Entry → Entry) : (s.executed c f).obs = s.obs := rfl
@[simp] theorem State.executed_power (s : State) (c : Cid) (f : Entry → Entry) : (s.executed c f).power = s.power := rfl
@[simp] theorem State.executed_life (s : State) (c : Cid) (f : Entry → Entry) : (s.executed c f).life = s.life := rfl
@[simp] theorem State.executed_hi (s : State) (c : Cid) (f : Entry → Entry) : (s.executed c f).hi = s.hi := rfl
@[simp] theorem State.executed_out (s : State) (c : Cid) (f : Entry → Entry) : (s.executed c f).out = s.out := rfl
@[simp] theorem State.stayBusy_pending (s : State) (p : Fin 4) : (s.stayBusy p).pending = s.pending := rfl
@[simp] theorem State.stayBusy_tick (s : State) (p : Fin 4) : (s.stayBusy p).tick = s.tick := rfl
@[simp] theorem State.stayBusy_free (s : State) (p : Fin 4) : (s.stayBusy p).free = s.free := rfl
@[simp] theorem State.stayBusy_mem (s : State) (p : Fin 4) : (s.stayBusy p).mem = s.mem := rfl
@[simp] theorem State.stayBusy_host (s : State) (p : Fin 4) : (s.stayBusy p).host = s.host := rfl
@[simp] theorem State.stayBusy_cores (s : State) (p : Fin 4) : (s.stayBusy p).cores = s.cores := rfl
@[simp] theorem State.stayBusy_seams (s : State) (p : Fin 4) : (s.stayBusy p).seams = s.seams := rfl
@[simp] theorem State.stayBusy_dieInfo (s : State) (p : Fin 4) : (s.stayBusy p).dieInfo = s.dieInfo := rfl
@[simp] theorem State.stayBusy_packageLevel (s : State) (p : Fin 4) : (s.stayBusy p).packageLevel = s.packageLevel := rfl
@[simp] theorem State.stayBusy_ports (s : State) (p : Fin 4) : (s.stayBusy p).ports = s.ports := rfl
@[simp] theorem State.stayBusy_fab (s : State) (p : Fin 4) : (s.stayBusy p).fab = s.fab := rfl
@[simp] theorem State.stayBusy_obs (s : State) (p : Fin 4) : (s.stayBusy p).obs = s.obs := rfl
@[simp] theorem State.stayBusy_power (s : State) (p : Fin 4) : (s.stayBusy p).power = s.power := rfl
@[simp] theorem State.stayBusy_life (s : State) (p : Fin 4) : (s.stayBusy p).life = s.life := rfl
@[simp] theorem State.stayBusy_hi (s : State) (p : Fin 4) : (s.stayBusy p).hi = s.hi := rfl
@[simp] theorem State.stayBusy_out (s : State) (p : Fin 4) : (s.stayBusy p).out = s.out := rfl
@[simp] theorem State.boundary_pending (s : State) (p : Fin 4) : (s.boundary p).pending = s.pending := rfl
@[simp] theorem State.boundary_tick (s : State) (p : Fin 4) : (s.boundary p).tick = s.tick := rfl
@[simp] theorem State.boundary_free (s : State) (p : Fin 4) : (s.boundary p).free = s.free := rfl
@[simp] theorem State.boundary_mem (s : State) (p : Fin 4) : (s.boundary p).mem = s.mem := rfl
@[simp] theorem State.boundary_host (s : State) (p : Fin 4) : (s.boundary p).host = s.host := rfl
@[simp] theorem State.boundary_cores (s : State) (p : Fin 4) : (s.boundary p).cores = s.cores := rfl
@[simp] theorem State.boundary_seams (s : State) (p : Fin 4) : (s.boundary p).seams = s.seams := rfl
@[simp] theorem State.boundary_dieInfo (s : State) (p : Fin 4) : (s.boundary p).dieInfo = s.dieInfo := rfl
@[simp] theorem State.boundary_packageLevel (s : State) (p : Fin 4) : (s.boundary p).packageLevel = s.packageLevel := rfl
@[simp] theorem State.boundary_ports (s : State) (p : Fin 4) : (s.boundary p).ports = s.ports := rfl
@[simp] theorem State.boundary_fab (s : State) (p : Fin 4) : (s.boundary p).fab = s.fab := rfl
@[simp] theorem State.boundary_obs (s : State) (p : Fin 4) : (s.boundary p).obs = s.obs := rfl
@[simp] theorem State.boundary_power (s : State) (p : Fin 4) : (s.boundary p).power = s.power := rfl
@[simp] theorem State.boundary_life (s : State) (p : Fin 4) : (s.boundary p).life = s.life := rfl
@[simp] theorem State.boundary_hi (s : State) (p : Fin 4) : (s.boundary p).hi = s.hi := rfl
@[simp] theorem State.boundary_out (s : State) (p : Fin 4) : (s.boundary p).out = s.out := rfl

theorem State.modPort_eq (s : State) (i : Nat) (f : Port → Port) (h : i < 32) :
    s.modPort i f = { s with ports := s.ports.set i (f s.ports[i]) } := by
  unfold State.modPort
  rw [dif_pos h]

@[simp] theorem State.modPort_pending (s : State) (i : Nat) (f : Port → Port) : (s.modPort i f).pending = s.pending := by unfold State.modPort; split <;> rfl
@[simp] theorem State.modPort_tick (s : State) (i : Nat) (f : Port → Port) : (s.modPort i f).tick = s.tick := by unfold State.modPort; split <;> rfl
@[simp] theorem State.modPort_free (s : State) (i : Nat) (f : Port → Port) : (s.modPort i f).free = s.free := by unfold State.modPort; split <;> rfl
@[simp] theorem State.modPort_parts (s : State) (i : Nat) (f : Port → Port) : (s.modPort i f).parts = s.parts := by unfold State.modPort; split <;> rfl
@[simp] theorem State.modPort_mem (s : State) (i : Nat) (f : Port → Port) : (s.modPort i f).mem = s.mem := by unfold State.modPort; split <;> rfl
@[simp] theorem State.modPort_host (s : State) (i : Nat) (f : Port → Port) : (s.modPort i f).host = s.host := by unfold State.modPort; split <;> rfl
@[simp] theorem State.modPort_cores (s : State) (i : Nat) (f : Port → Port) : (s.modPort i f).cores = s.cores := by unfold State.modPort; split <;> rfl
@[simp] theorem State.modPort_seams (s : State) (i : Nat) (f : Port → Port) : (s.modPort i f).seams = s.seams := by unfold State.modPort; split <;> rfl
@[simp] theorem State.modPort_dieInfo (s : State) (i : Nat) (f : Port → Port) : (s.modPort i f).dieInfo = s.dieInfo := by unfold State.modPort; split <;> rfl
@[simp] theorem State.modPort_packageLevel (s : State) (i : Nat) (f : Port → Port) : (s.modPort i f).packageLevel = s.packageLevel := by unfold State.modPort; split <;> rfl
@[simp] theorem State.modPort_fab (s : State) (i : Nat) (f : Port → Port) : (s.modPort i f).fab = s.fab := by unfold State.modPort; split <;> rfl
@[simp] theorem State.modPort_obs (s : State) (i : Nat) (f : Port → Port) : (s.modPort i f).obs = s.obs := by unfold State.modPort; split <;> rfl
@[simp] theorem State.modPort_power (s : State) (i : Nat) (f : Port → Port) : (s.modPort i f).power = s.power := by unfold State.modPort; split <;> rfl
@[simp] theorem State.modPort_life (s : State) (i : Nat) (f : Port → Port) : (s.modPort i f).life = s.life := by unfold State.modPort; split <;> rfl
@[simp] theorem State.modPort_hi (s : State) (i : Nat) (f : Port → Port) : (s.modPort i f).hi = s.hi := by unfold State.modPort; split <;> rfl
@[simp] theorem State.modPort_out (s : State) (i : Nat) (f : Port → Port) : (s.modPort i f).out = s.out := by unfold State.modPort; split <;> rfl

/-! ### Partitions -/

@[simp] theorem State.part_setPart (s : State) (p : Fin 4) (P : Part) : (s.setPart p P).part p = P := by
  simp [State.part, State.setPart]

theorem State.part_setPart_other (s : State) {p r : Fin 4} (P : Part) (h : r ≠ p) : (s.setPart p P).part r = s.part r := by
  simp only [State.part, State.setPart, Fin.getElem_fin]
  exact Vector.getElem_set_ne _ _ (fun h' => h (Fin.ext h'.symm))

@[simp] theorem State.part_modPart (s : State) (p : Fin 4) (f : Part → Part) : (s.modPart p f).part p = f (s.part p) :=
  State.part_setPart _ _ _

theorem State.part_modPart_other (s : State) {p r : Fin 4} (f : Part → Part) (h : r ≠ p) :
    (s.modPart p f).part r = s.part r := State.part_setPart_other s _ h

@[simp] theorem State.part_emit (s : State) (o : Out) (p : Fin 4) : (s.emit o).part p = s.part p := rfl
@[simp] theorem State.part_tally (s : State) (cls unit idx k : Nat) (p : Fin 4) : (s.tally cls unit idx k).part p = s.part p := rfl
@[simp] theorem State.part_advance (s : State) (t : Nat) (p : Fin 4) : (s.advance t).part p = s.part p := rfl
@[simp] theorem State.part_hostWrite (s : State) (a : Nat) (b : Bytes) (p : Fin 4) : (s.hostWrite a b).part p = s.part p := rfl

/-! ### Ports -/

theorem State.port_modPort (s : State) (i : Nat) (f : Port → Port) (h : i < 32) : (s.modPort i f).port i = f (s.port i) := by
  have hl : i < s.ports.toList.length := by simpa using h
  rw [State.modPort_eq s i f h]
  simp [State.port, h]

theorem State.port_modPort_other (s : State) {i j : Nat} (f : Port → Port) (h : j ≠ i) : (s.modPort i f).port j = s.port j := by
  unfold State.modPort
  split
  · simp only [State.port, List.getD_eq_getElem?_getD, Vector.toList_set]
    rw [List.getElem?_set_ne (Ne.symm h)]
  · rfl

/-! ### Queues and commands -/

@[simp] theorem Part.queue_setQueue (P : Part) (q : Nat) (Q : Queue) : (P.setQueue q Q).queue q = Q := by
  simp [Part.queue, Part.setQueue]

theorem Part.queue_setQueue_other (P : Part) {q r : Nat} (Q : Queue) (h : r ≠ q) : (P.setQueue q Q).queue r = P.queue r :=
  sget_sset_other _ _ _ h

@[simp] theorem Part.group_setGroup (P : Part) (g : Nat) (G : Group) : (P.setGroup g G).group g = G := by
  simp [Part.group, Part.setGroup]

theorem Part.group_setGroup_other (P : Part) {g h : Nat} (G : Group) (n : h ≠ g) : (P.setGroup g G).group h = P.group h :=
  sget_sset_other _ _ _ n

@[simp] theorem Part.counter_setCounter (P : Part) (c : Nat) (v : W32) : (P.setCounter c v).counter c = v := by
  simp [Part.counter, Part.setCounter]

theorem Part.counter_setCounter_other (P : Part) {c d : Nat} (v : W32) (h : d ≠ c) : (P.setCounter c v).counter d = P.counter d :=
  sget_sset_other _ _ _ h

/-- A fill sets every counter of its run. -/
theorem Part.counter_counterFill (v : W32) : ∀ (k : Nat) (P : Part) (c d : Nat),
    (P.counterFill c v k).counter d = if c ≤ d ∧ d < c + k then v else P.counter d
  | 0, P, c, d => by rw [if_neg (by omega)]; rfl
  | k + 1, P, c, d => by
    rw [Part.counterFill, Part.counter_counterFill v k]
    by_cases h : d = c
    · subst h
      rw [if_neg (by omega), if_pos (by omega), Part.counter_setCounter]
    · rw [Part.counter_setCounter_other P v h]
      by_cases h2 : c ≤ d ∧ d < c + (k + 1)
      · rw [if_pos (by omega), if_pos h2]
      · rw [if_neg (by omega), if_neg h2]

theorem find_map_entry (f : Entry → Entry) (hf : ∀ e, (f e).n = e.n) (n m : Nat) : ∀ l : List Entry,
    (l.map (fun e => if e.n = n then f e else e)).find? (fun e => e.n == m) =
      (l.find? (fun e => e.n == m)).map (fun e => if m = n then f e else e)
  | [] => rfl
  | x :: r => by
    simp only [List.map_cons, List.find?_cons]
    have hx : ((if x.n = n then f x else x).n == m) = (x.n == m) := by split <;> simp [hf]
    rw [hx]
    by_cases hm : (x.n == m) = true
    · simp only [hm, Option.map_some]
      have : x.n = m := by simpa using hm
      subst this
      rfl
    · simp only [hm, find_map_entry f hf n m r]

/-- A change of a command that keeps its name is seen there, and nowhere else. -/
theorem Queue.entry_modEntry (Q : Queue) (n m : Nat) (f : Entry → Entry) (hf : ∀ e, (f e).n = e.n) :
    (Q.modEntry n f).entry m = (Q.entry m).map (fun e => if m = n then f e else e) := find_map_entry f hf n m Q.entries

@[simp] theorem State.entry_modEntry (s : State) (c : Cid) (f : Entry → Entry) (hf : ∀ e, (f e).n = e.n) :
    (s.modEntry c f).entry c = (s.entry c).map f := by
  simp [State.entry, State.modEntry, Queue.entry_modEntry _ _ _ _ hf]

/-- Queue q of partition p is untouched by a change of another queue's. -/
theorem State.queue_modEntry_other (s : State) (c : Cid) (f : Entry → Entry) (p : Fin 4) (q : Nat) (h : p ≠ c.p ∨ q ≠ c.q) :
    ((s.modEntry c f).part p).queue q = (s.part p).queue q := by
  unfold State.modEntry
  by_cases hp : p = c.p
  · subst hp
    rw [State.part_modPart, Part.queue_setQueue_other _ _ (h.resolve_left (fun x => x rfl))]
  · rw [State.part_modPart_other s _ hp]

end Sys2Proof.Machine
end

