-- ==== Sys2Proof/Laws/Quiet.lean ====
section
/-! SUPPORT. What reporting leaves alone, said once: counters, trace and health records, interrupts, packets and
lifetime records change nothing a command computes with. The lemmas of QuietReport say it of each operation by name. -/

namespace Sys2Proof.Machine

/-- A partition without what reporting changes: its trace, snapshot and ring counts, its mode in force, the tick it stays
busy until, and the saved bytes that a record outside every command is also put into. -/
def Part.told (P : Part) : Part :=
  { P with
    obsMode := 0, traceWritten := 0, traceDrops := 0, traceStreamed := 0, snapshotCount := 0, snapshotDue := none,
    snapshotBusy := 0, busyUntil := 0, excWritten := 0, excDrops := 0, excConsumed := 0, excUnsignalled := 0,
    healthWritten := 0, healthDrops := 0, healthConsumed := 0, shadows := [] }

/-- Device memory without its contents. -/
def Mem.told (m : Mem) : Mem := { m with bytes := [], poison := [] }

/-- `t` differs from `s` by reports only. -/
structure Quiet (s t : State) : Prop where
  pending : t.pending = s.pending
  tick : t.tick = s.tick
  cores : t.cores = s.cores
  seams : t.seams = s.seams
  dieInfo : t.dieInfo = s.dieInfo
  packageLevel : t.packageLevel = s.packageLevel
  fab : t.fab = s.fab
  power : t.power = s.power
  mem : t.mem.told = s.mem.told
  part : ∀ p, (t.part p).told = (s.part p).told

theorem Quiet.refl (s : State) : Quiet s s := ⟨rfl, rfl, rfl, rfl, rfl, rfl, rfl, rfl, rfl, fun _ => rfl⟩

theorem Quiet.trans {s t u : State} (h : Quiet s t) (k : Quiet t u) : Quiet s u :=
  ⟨k.pending.trans h.pending, k.tick.trans h.tick, k.cores.trans h.cores, k.seams.trans h.seams, k.dieInfo.trans h.dieInfo,
    k.packageLevel.trans h.packageLevel, k.fab.trans h.fab, k.power.trans h.power, k.mem.trans h.mem,
    fun p => (k.part p).trans (h.part p)⟩

/-- The queues of a partition are as before. -/
theorem Quiet.queue {s t : State} (h : Quiet s t) (p : Fin 4) (q : Nat) : (t.part p).queue q = (s.part p).queue q := by
  show (t.part p).told.queue q = (s.part p).told.queue q
  rw [h.part p]

/-- A command is as before. -/
theorem Quiet.entry {s t : State} (h : Quiet s t) (c : Cid) : t.entry c = s.entry c := by
  simp only [State.entry, h.queue]

/-- The sync counters are as before. -/
theorem Quiet.counter {s t : State} (h : Quiet s t) (p : Fin 4) (k : Nat) : (t.part p).counter k = (s.part p).counter k := by
  show (t.part p).told.counter k = (s.part p).told.counter k
  rw [h.part p]

/-- The groups are as before. -/
theorem Quiet.group {s t : State} (h : Quiet s t) (p : Fin 4) (g : Nat) : (t.part p).group g = (s.part p).group g := by
  show (t.part p).told.group g = (s.part p).told.group g
  rw [h.part p]

/-- An update of what reports change. -/
theorem Quiet.upd {s e : State} {free host ports obs life hi out} (h : Quiet s e) :
    Quiet s { pending := e.pending, tick := e.tick, free := free, parts := e.parts, mem := e.mem, host := host, cores := e.cores,
              seams := e.seams, dieInfo := e.dieInfo, packageLevel := e.packageLevel, ports := ports, fab := e.fab, obs := obs,
              power := e.power, life := life, hi := hi, out := out } :=
  h.trans ⟨rfl, rfl, rfl, rfl, rfl, rfl, rfl, rfl, rfl, fun _ => rfl⟩

/-- An update of a partition's reports. -/
theorem Quiet.modPart {s e : State} {p : Fin 4} {f : Part → Part} (hf : ∀ P, (f P).told = P.told) (h : Quiet s e) :
    Quiet s (e.modPart p f) := by
  refine h.trans ⟨rfl, rfl, rfl, rfl, rfl, rfl, rfl, rfl, rfl, fun r => ?_⟩
  by_cases hr : r = p
  · subst hr
    rw [State.part_modPart]
    exact hf _
  · rw [State.part_modPart_other e f hr]

/-- A partition replaced by one that differs by reports only. -/
theorem Quiet.setPart {s e : State} {p : Fin 4} {P : Part} (hP : P.told = (e.part p).told) (h : Quiet s e) :
    Quiet s (e.setPart p P) := by
  refine h.trans ⟨rfl, rfl, rfl, rfl, rfl, rfl, rfl, rfl, rfl, fun r => ?_⟩
  by_cases hr : r = p
  · subst hr
    rw [State.part_setPart]
    exact hP
  · rw [State.part_setPart_other e P hr]

theorem Quiet.ite {s a b : State} {c : Prop} [Decidable c] (ha : c → Quiet s a) (hb : ¬c → Quiet s b) :
    Quiet s (if c then a else b) := by
  split
  · exact ha (by assumption)
  · exact hb (by assumption)

theorem Quiet.foldl {s : State} {α : Type} {f : State → α → State} {l : List α} {e : State}
    (hf : ∀ t a, Quiet s t → Quiet s (f t a)) (h : Quiet s e) : Quiet s (l.foldl f e) :=
  foldl_inv (Quiet s) f (fun t a => hf t a) l e h

theorem State.writeOutside_quiet {s0 : State} (s : State) (a : Nat) (b : Bytes) (h : Quiet s0 s) : Quiet s0 (s.writeOutside a b) := by
  refine h.trans ⟨rfl, rfl, rfl, rfl, rfl, rfl, rfl, rfl, rfl, fun p => ?_⟩
  simp only [State.writeOutside, State.part, Fin.getElem_fin, Vector.getElem_map]
  rfl

theorem State.modPort_quiet {s0 : State} (s : State) (i : Nat) (f : Port → Port) (h : Quiet s0 s) : Quiet s0 (s.modPort i f) := by
  unfold State.modPort
  split
  · exact h.upd
  · exact h

end Sys2Proof.Machine
end

