-- ==== Sys2Proof/Laws/QuietReport.lean ====
section
/-! SUPPORT. The reporting operations are quiet (Laws/Quiet.lean). -/

namespace Sys2Proof.Machine

theorem State.emit_quiet {s0 : State} (s : State) (o : Out) (hK : Quiet s0 s) : Quiet s0 (State.emit s o) := by
  unfold State.emit
  try dsimp only
  repeat' (first
    | (with_reducible first | assumption | exact Quiet.refl _ | apply Quiet.ite | apply Quiet.foldl)
    | (intro _; try dsimp only)
    | split
    | (with_reducible refine Quiet.modPart (fun P => ?_) ?_) | (with_reducible refine Quiet.setPart ?_ ?_) | rfl
    | with_reducible apply Quiet.upd)

theorem State.tally_quiet {s0 : State} (s : State) (cls unit idx k : Nat) (hK : Quiet s0 s) : Quiet s0 (State.tally s cls unit idx k) := by
  unfold State.tally
  try dsimp only
  repeat' (first
    | (with_reducible first | assumption | exact Quiet.refl _ | apply Quiet.ite | apply Quiet.foldl)
    | (intro _; try dsimp only)
    | split
    | (with_reducible refine Quiet.modPart (fun P => ?_) ?_) | (with_reducible refine Quiet.setPart ?_ ?_) | rfl
    | with_reducible apply Quiet.upd)

theorem State.tele_quiet {s0 : State} (s : State) (i : Nat) (k n : Nat) (hK : Quiet s0 s) : Quiet s0 (State.tele s i k n) := by
  unfold State.tele
  try dsimp only
  repeat' (first
    | (with_reducible first | assumption | exact Quiet.refl _ | apply State.modPort_quiet | apply Quiet.ite | apply Quiet.foldl)
    | (intro _; try dsimp only)
    | split
    | (with_reducible refine Quiet.modPart (fun P => ?_) ?_) | (with_reducible refine Quiet.setPart ?_ ?_) | rfl
    | with_reducible apply Quiet.upd)

theorem State.hostWrite_quiet {s0 : State} (s : State) (a : Nat) (b : Bytes) (hK : Quiet s0 s) : Quiet s0 (State.hostWrite s a b) := by
  unfold State.hostWrite
  try dsimp only
  repeat' (first
    | (with_reducible first | assumption | exact Quiet.refl _ | apply Quiet.ite | apply Quiet.foldl)
    | (intro _; try dsimp only)
    | split
    | (with_reducible refine Quiet.modPart (fun P => ?_) ?_) | (with_reducible refine Quiet.setPart ?_ ?_) | rfl
    | with_reducible apply Quiet.upd)

theorem State.sendMsix_quiet {s0 : State} (s : State) (fn : Fn) (v : Nat) (hK : Quiet s0 s) : Quiet s0 (State.sendMsix s fn v) := by
  unfold State.sendMsix
  try dsimp only
  repeat' (first
    | (with_reducible first | assumption | exact Quiet.refl _ | apply State.emit_quiet | apply Quiet.ite | apply Quiet.foldl)
    | (intro _; try dsimp only)
    | split
    | (with_reducible refine Quiet.modPart (fun P => ?_) ?_) | (with_reducible refine Quiet.setPart ?_ ?_) | rfl
    | with_reducible apply Quiet.upd)

theorem State.raiseMsix_quiet {s0 : State} (s : State) (fn : Fn) (v : Nat) (hK : Quiet s0 s) : Quiet s0 (State.raiseMsix s fn v) := by
  unfold State.raiseMsix
  try dsimp only
  repeat' (first
    | (with_reducible first | assumption | exact Quiet.refl _ | apply State.sendMsix_quiet | apply Quiet.ite | apply Quiet.foldl)
    | (intro _; try dsimp only)
    | split
    | (with_reducible refine Quiet.modPart (fun P => ?_) ?_) | (with_reducible refine Quiet.setPart ?_ ?_) | rfl
    | with_reducible apply Quiet.upd)

theorem State.aer_quiet {s0 : State} (s : State) (p : Fin 4) (hK : Quiet s0 s) : Quiet s0 (State.aer s p) := by
  unfold State.aer
  try dsimp only
  repeat' (first
    | (with_reducible first | assumption | exact Quiet.refl _ | apply State.emit_quiet | apply Quiet.ite | apply Quiet.foldl)
    | (intro _; try dsimp only)
    | split
    | (with_reducible refine Quiet.modPart (fun P => ?_) ?_) | (with_reducible refine Quiet.setPart ?_ ?_) | rfl
    | with_reducible apply Quiet.upd)

theorem State.pump_quiet {s0 : State} (s : State) (i : Nat) (hK : Quiet s0 s) : Quiet s0 (State.pump s i) := by
  unfold State.pump
  try dsimp only
  repeat' (first
    | (with_reducible first | assumption | exact Quiet.refl _ | apply State.modPort_quiet | apply State.emit_quiet | apply Quiet.ite | apply Quiet.foldl)
    | (intro _; try dsimp only)
    | split
    | (with_reducible refine Quiet.modPart (fun P => ?_) ?_) | (with_reducible refine Quiet.setPart ?_ ?_) | rfl
    | with_reducible apply Quiet.upd)

theorem State.transmit_quiet {s0 : State} (s : State) (i : Nat) (pkt : Packet) (hK : Quiet s0 s) : Quiet s0 (State.transmit s i pkt) := by
  unfold State.transmit
  try dsimp only
  repeat' (first
    | (with_reducible first | assumption | exact Quiet.refl _ | apply State.modPort_quiet | apply State.pump_quiet | apply Quiet.ite | apply Quiet.foldl)
    | (intro _; try dsimp only)
    | split
    | (with_reducible refine Quiet.modPart (fun P => ?_) ?_) | (with_reducible refine Quiet.setPart ?_ ?_) | rfl
    | with_reducible apply Quiet.upd)

theorem State.flood_quiet {s0 : State} (s : State) (kind : Nat) (payload : Bytes) (except : Option Nat) (hK : Quiet s0 s) : Quiet s0 (State.flood s kind payload except) := by
  unfold State.flood
  try dsimp only
  repeat' (first
    | (with_reducible first | assumption | exact Quiet.refl _ | apply State.transmit_quiet | apply Quiet.ite | apply Quiet.foldl)
    | (intro _; try dsimp only)
    | split
    | (with_reducible refine Quiet.modPart (fun P => ?_) ?_) | (with_reducible refine Quiet.setPart ?_ ?_) | rfl
    | with_reducible apply Quiet.upd)

theorem State.pegTrigger_quiet {s0 : State} (s : State) (source : Nat) (halt fabric : Bool) (issuer : BitVec 4) (cause : Option Cid) (hK : Quiet s0 s) : Quiet s0 (State.pegTrigger s source halt fabric issuer cause) := by
  unfold State.pegTrigger
  try dsimp only
  repeat' (first
    | (with_reducible first | assumption | exact Quiet.refl _ | apply State.flood_quiet | apply Quiet.ite | apply Quiet.foldl)
    | (intro _; try dsimp only)
    | split
    | (with_reducible refine Quiet.modPart (fun P => ?_) ?_) | (with_reducible refine Quiet.setPart ?_ ?_) | rfl
    | with_reducible apply Quiet.upd)

theorem State.pegMatch_quiet {s0 : State} (s : State) (source : Nat) (hit : Nat → Bool) (hK : Quiet s0 s) : Quiet s0 (State.pegMatch s source hit) := by
  unfold State.pegMatch
  try dsimp only
  repeat' (first
    | (with_reducible first | assumption | exact Quiet.refl _ | apply State.pegTrigger_quiet | apply Quiet.ite | apply Quiet.foldl)
    | (intro _; try dsimp only)
    | split
    | (with_reducible refine Quiet.modPart (fun P => ?_) ?_) | (with_reducible refine Quiet.setPart ?_ ?_) | rfl
    | with_reducible apply Quiet.upd)

theorem State.progMatch_quiet {s0 : State} (s : State) (hit : Nat → Nat → Bool) (was : Nat) (hK : Quiet s0 s) : Quiet s0 (State.progMatch s hit was) := by
  unfold State.progMatch
  try dsimp only
  repeat' (first
    | (with_reducible first | assumption | exact Quiet.refl _ | apply State.pegMatch_quiet | apply Quiet.ite | apply Quiet.foldl)
    | (intro _; try dsimp only)
    | split
    | (with_reducible refine Quiet.modPart (fun P => ?_) ?_) | (with_reducible refine Quiet.setPart ?_ ?_) | rfl
    | with_reducible apply Quiet.upd)

theorem State.coreEvent_quiet {s0 : State} (s : State) (p : Fin 4) (core event k : Nat) (cmd : Option Bytes) (hK : Quiet s0 s) : Quiet s0 (State.coreEvent s p core event k cmd) := by
  unfold State.coreEvent
  try dsimp only
  repeat' (first
    | (with_reducible first | assumption | exact Quiet.refl _ | apply State.tally_quiet | apply State.progMatch_quiet | apply Quiet.ite | apply Quiet.foldl)
    | (intro _; try dsimp only)
    | split
    | (with_reducible refine Quiet.modPart (fun P => ?_) ?_) | (with_reducible refine Quiet.setPart ?_ ?_) | rfl
    | with_reducible apply Quiet.upd)

theorem State.driftWith_quiet {s0 : State} (s : State) (dies : BitVec 4) (hK : Quiet s0 s) : Quiet s0 (State.driftWith s dies) := by
  unfold State.driftWith
  try dsimp only
  repeat' (first
    | (with_reducible first | assumption | exact Quiet.refl _ | apply State.pegMatch_quiet | apply State.progMatch_quiet | apply Quiet.ite | apply Quiet.foldl)
    | (intro _; try dsimp only)
    | split
    | (with_reducible refine Quiet.modPart (fun P => ?_) ?_) | (with_reducible refine Quiet.setPart ?_ ?_) | rfl
    | with_reducible apply Quiet.upd)

theorem State.drift_quiet {s0 : State} (s : State) (hK : Quiet s0 s) : Quiet s0 (State.drift s) := by
  unfold State.drift
  try dsimp only
  repeat' (first
    | (with_reducible first | assumption | exact Quiet.refl _ | apply State.driftWith_quiet | apply Quiet.ite | apply Quiet.foldl)
    | (intro _; try dsimp only)
    | split
    | (with_reducible refine Quiet.modPart (fun P => ?_) ?_) | (with_reducible refine Quiet.setPart ?_ ?_) | rfl
    | with_reducible apply Quiet.upd)

theorem State.obsWrite_quiet {s0 : State} (s : State) (pa : Nat) (b : Bytes) (hK : Quiet s0 s) : Quiet s0 (State.obsWrite s pa b) := by
  unfold State.obsWrite
  try dsimp only
  repeat' (first
    | (with_reducible first | assumption | exact Quiet.refl _ | apply State.writeOutside_quiet | apply State.tally_quiet | apply Quiet.ite | apply Quiet.foldl)
    | (intro _; try dsimp only)
    | split
    | (with_reducible refine Quiet.modPart (fun P => ?_) ?_) | (with_reducible refine Quiet.setPart ?_ ?_) | rfl
    | with_reducible apply Quiet.upd)

theorem State.traceDrop_quiet {s0 : State} (s : State) (p : Fin 4) (hK : Quiet s0 s) : Quiet s0 (State.traceDrop s p) := by
  unfold State.traceDrop
  try dsimp only
  repeat' (first
    | (with_reducible first | assumption | exact Quiet.refl _ | apply State.tally_quiet | apply Quiet.ite | apply Quiet.foldl)
    | (intro _; try dsimp only)
    | split
    | (with_reducible refine Quiet.modPart (fun P => ?_) ?_) | (with_reducible refine Quiet.setPart ?_ ?_) | rfl
    | with_reducible apply Quiet.upd)

theorem State.takeTokens_quiet {s0 s t : State} {stack n : Nat} (hK : Quiet s0 s) (h : s.takeTokens stack n = some t) :
    Quiet s0 t := by
  unfold State.takeTokens at h
  dsimp only at h
  split at h
  · cases h
    exact hK.upd
  · cases h


theorem State.tracePut_quiet {s0 s t : State} {p : Fin 4} {r : Bytes} (hK : Quiet s0 s) (h : s.tracePut p r = some t) :
    Quiet s0 t := by
  unfold State.tracePut at h
  extract_lets P n k unstreamed at h
  split at h
  · cases h
  · split at h
    · cases h
    · split at h
      · cases h
      · rename_i u hu
        cases h
        have hu := State.takeTokens_quiet hK hu
        apply Quiet.ite <;> intro _
        · exact State.tally_quiet _ _ _ _ _ (State.tally_quiet _ _ _ _ _ (State.obsWrite_quiet _ _ _ (Quiet.modPart (fun _ => rfl) hu)))
        · exact State.tally_quiet _ _ _ _ _ (State.obsWrite_quiet _ _ _ (Quiet.modPart (fun _ => rfl) hu))

theorem State.dropped_quiet {s0 s t : State} {p : Fin 4} (hK : Quiet s0 s) (h : s.dropped p = some t) : Quiet s0 t := by
  unfold State.dropped at h
  dsimp only at h
  split at h
  · cases h
  · obtain ⟨v, hv, rfl⟩ := Option.map_eq_some_iff.1 h
    exact Quiet.modPart (fun _ => rfl) (State.tracePut_quiet hK hv)

theorem State.retryDropped_quiet {s0 : State} (s : State) (p : Fin 4) (hK : Quiet s0 s) : Quiet s0 (State.retryDropped s p) := by
  unfold State.retryDropped
  refine Quiet.ite (fun _ => hK) (fun _ => ?_)
  dsimp only
  have hd : Quiet s0 s.drift := State.drift_quiet _ hK
  cases h : s.drift.dropped p with
  | none => exact hd
  | some t => exact State.dropped_quiet hd h

theorem State.trace_quiet {s0 : State} (s : State) (p : Fin 4) (tick kind : Nat) (after replayed : Bool) (tags : Bytes)
    (unit data : Nat) (hK : Quiet s0 s) : Quiet s0 (State.trace s p tick kind after replayed tags unit data) := by
  unfold State.trace
  refine Quiet.ite (fun _ => hK) (fun _ => ?_)
  dsimp only
  have hd : Quiet s0 s.drift := State.drift_quiet _ hK
  have hf : ∀ u, (if (s.drift.part p).traceDrops = 0 then some s.drift else s.drift.dropped p) = some u → Quiet s0 u := by
    intro u hu
    split at hu
    · cases hu; exact hd
    · exact State.dropped_quiet hd hu
  split
  · exact State.traceDrop_quiet _ _ hd
  · rename_i u hu
    have hu := hf u hu
    split
    · exact State.traceDrop_quiet _ _ hu
    · exact State.tracePut_quiet hu (by assumption)


theorem State.traceCmd_quiet {s0 : State} (s : State) (c : Cid) (kind : Nat) (hK : Quiet s0 s) : Quiet s0 (State.traceCmd s c kind) := by
  unfold State.traceCmd
  try dsimp only
  repeat' (first
    | (with_reducible first | assumption | exact Quiet.refl _ | apply State.trace_quiet | apply Quiet.ite | apply Quiet.foldl)
    | (intro _; try dsimp only)
    | split
    | (with_reducible refine Quiet.modPart (fun P => ?_) ?_) | (with_reducible refine Quiet.setPart ?_ ?_) | rfl
    | with_reducible apply Quiet.upd)

theorem State.traceThread_quiet {s0 : State} (s : State) (c : Cid) (kind t core ctx : Nat) (hK : Quiet s0 s) : Quiet s0 (State.traceThread s c kind t core ctx) := by
  unfold State.traceThread
  try dsimp only
  repeat' (first
    | (with_reducible first | assumption | exact Quiet.refl _ | apply State.trace_quiet | apply Quiet.ite | apply Quiet.foldl)
    | (intro _; try dsimp only)
    | split
    | (with_reducible refine Quiet.modPart (fun P => ?_) ?_) | (with_reducible refine Quiet.setPart ?_ ?_) | rfl
    | with_reducible apply Quiet.upd)

theorem State.clockStop_quiet {s0 : State} (s : State) (unit stop : Nat) (who : Fin 4 → Bool) (hK : Quiet s0 s) : Quiet s0 (State.clockStop s unit stop who) := by
  unfold State.clockStop
  try dsimp only
  repeat' (first
    | (with_reducible first | assumption | exact Quiet.refl _ | apply State.trace_quiet | apply Quiet.ite | apply Quiet.foldl)
    | (intro _; try dsimp only)
    | split
    | (with_reducible refine Quiet.modPart (fun P => ?_) ?_) | (with_reducible refine Quiet.setPart ?_ ?_) | rfl
    | with_reducible apply Quiet.upd)

theorem State.lifeRecord_quiet {s0 : State} (s : State) (kind die : Nat) (body : Bytes) (hK : Quiet s0 s) : Quiet s0 (State.lifeRecord s kind die body) := by
  unfold State.lifeRecord
  try dsimp only
  repeat' (first
    | (with_reducible first | assumption | exact Quiet.refl _ | apply Quiet.ite | apply Quiet.foldl)
    | (intro _; try dsimp only)
    | split
    | (with_reducible refine Quiet.modPart (fun P => ?_) ?_) | (with_reducible refine Quiet.setPart ?_ ?_) | rfl
    | with_reducible apply Quiet.upd)

theorem State.lifeNote_quiet {s0 : State} (s : State) (kind die : Nat) (facts : List Nat) (hK : Quiet s0 s) : Quiet s0 (State.lifeNote s kind die facts) := by
  unfold State.lifeNote
  try dsimp only
  repeat' (first
    | (with_reducible first | assumption | exact Quiet.refl _ | apply State.lifeRecord_quiet | apply Quiet.ite | apply Quiet.foldl)
    | (intro _; try dsimp only)
    | split
    | (with_reducible refine Quiet.modPart (fun P => ?_) ?_) | (with_reducible refine Quiet.setPart ?_ ?_) | rfl
    | with_reducible apply Quiet.upd)

theorem State.statusLine_quiet {s0 : State} (s : State) (p : Fin 4) (hK : Quiet s0 s) : Quiet s0 (State.statusLine s p) := by
  unfold State.statusLine
  try dsimp only
  repeat' (first
    | (with_reducible first | assumption | exact Quiet.refl _ | apply State.hostWrite_quiet | apply Quiet.ite | apply Quiet.foldl)
    | (intro _; try dsimp only)
    | split
    | (with_reducible refine Quiet.modPart (fun P => ?_) ?_) | (with_reducible refine Quiet.setPart ?_ ?_) | rfl
    | with_reducible apply Quiet.upd)

theorem State.healthPart_quiet {s0 : State} (s : State) (p : Fin 4) (b : Bytes) (hK : Quiet s0 s) : Quiet s0 (State.healthPart s p b) := by
  unfold State.healthPart
  try dsimp only
  repeat' (first
    | (with_reducible first | assumption | exact Quiet.refl _ | apply State.hostWrite_quiet | apply State.raiseMsix_quiet | apply State.statusLine_quiet | apply Quiet.ite | apply Quiet.foldl)
    | (intro _; try dsimp only)
    | split
    | (with_reducible refine Quiet.modPart (fun P => ?_) ?_) | (with_reducible refine Quiet.setPart ?_ ?_) | rfl
    | with_reducible apply Quiet.upd)

theorem State.pkgStatusLine_quiet {s0 : State} (s : State) (hK : Quiet s0 s) : Quiet s0 (State.pkgStatusLine s) := by
  unfold State.pkgStatusLine
  try dsimp only
  repeat' (first
    | (with_reducible first | assumption | exact Quiet.refl _ | apply State.hostWrite_quiet | apply Quiet.ite | apply Quiet.foldl)
    | (intro _; try dsimp only)
    | split
    | (with_reducible refine Quiet.modPart (fun P => ?_) ?_) | (with_reducible refine Quiet.setPart ?_ ?_) | rfl
    | with_reducible apply Quiet.upd)

theorem State.healthPkg_quiet {s0 : State} (s : State) (b : Bytes) (hK : Quiet s0 s) : Quiet s0 (State.healthPkg s b) := by
  unfold State.healthPkg
  try dsimp only
  repeat' (first
    | (with_reducible first | assumption | exact Quiet.refl _ | apply State.hostWrite_quiet | apply State.raiseMsix_quiet | apply State.pkgStatusLine_quiet | apply Quiet.ite | apply Quiet.foldl)
    | (intro _; try dsimp only)
    | split
    | (with_reducible refine Quiet.modPart (fun P => ?_) ?_) | (with_reducible refine Quiet.setPart ?_ ?_) | rfl
    | with_reducible apply Quiet.upd)

theorem State.health_quiet {s0 : State} (s : State) (h : Health) (hK : Quiet s0 s) : Quiet s0 (State.health s h) := by
  unfold State.health
  try dsimp only
  repeat' (first
    | (with_reducible first | assumption | exact Quiet.refl _ | apply State.pegMatch_quiet | apply State.healthPart_quiet | apply State.healthPkg_quiet | apply Quiet.ite | apply Quiet.foldl)
    | (intro _; try dsimp only)
    | split
    | (with_reducible refine Quiet.modPart (fun P => ?_) ?_) | (with_reducible refine Quiet.setPart ?_ ?_) | rfl
    | with_reducible apply Quiet.upd)

theorem State.stayBusy_quiet {s0 : State} (s : State) (p : Fin 4) (hK : Quiet s0 s) : Quiet s0 (State.stayBusy s p) := by
  unfold State.stayBusy
  try dsimp only
  repeat' (first
    | (with_reducible first | assumption | exact Quiet.refl _ | apply Quiet.ite | apply Quiet.foldl)
    | (intro _; try dsimp only)
    | split
    | (with_reducible refine Quiet.modPart (fun P => ?_) ?_) | (with_reducible refine Quiet.setPart ?_ ?_) | rfl
    | with_reducible apply Quiet.upd)

theorem State.boundary_quiet {s0 : State} (s : State) (p : Fin 4) (hK : Quiet s0 s) : Quiet s0 (State.boundary s p) := by
  unfold State.boundary
  try dsimp only
  repeat' (first
    | (with_reducible first | assumption | exact Quiet.refl _ | apply Quiet.ite | apply Quiet.foldl)
    | (intro _; try dsimp only)
    | split
    | (with_reducible refine Quiet.modPart (fun P => ?_) ?_) | (with_reducible refine Quiet.setPart ?_ ?_) | rfl
    | with_reducible apply Quiet.upd)

end Sys2Proof.Machine
end

