-- ==== Sys2Proof/Laws/Heads.lean ====
section
/-! SUPPORT. What the shared operations on commands do, said once: taking up the head of a queue, acceptance, start,
refusal and finish (02 R37, R39). The meanings of the command rows are cited through these, not unfolded. -/

namespace Sys2Proof.Machine

/-! ### Changes that leave commands, counters and groups alone -/

theorem State.part_ext {s t : State} (h : t.parts = s.parts) (p : Fin 4) : t.part p = s.part p := by
  unfold State.part
  rw [h]

theorem State.entry_ext {s t : State} (h : t.parts = s.parts) (c : Cid) : t.entry c = s.entry c := by
  unfold State.entry
  rw [State.part_ext h]

theorem State.entry_modPart (s : State) (p : Fin 4) (f : Part → Part) (c : Cid) (hf : ∀ P, (f P).queues = P.queues) :
    (s.modPart p f).entry c = s.entry c := by
  unfold State.entry Part.queue
  by_cases h : c.p = p
  · subst h
    rw [State.part_modPart, hf]
  · rw [State.part_modPart_other s f h]

theorem State.counter_modPart (s : State) (p : Fin 4) (f : Part → Part) (r : Fin 4) (k : Nat)
    (hf : ∀ P, (f P).counters = P.counters) : ((s.modPart p f).part r).counter k = (s.part r).counter k := by
  unfold Part.counter
  by_cases h : r = p
  · subst h
    rw [State.part_modPart, hf]
  · rw [State.part_modPart_other s f h]

@[simp] theorem State.counter_modEntry (s : State) (c : Cid) (f : Entry → Entry) (r : Fin 4) (k : Nat) :
    ((s.modEntry c f).part r).counter k = (s.part r).counter k := State.counter_modPart _ _ _ _ _ fun _ => rfl

@[simp] theorem State.counter_modQueue (s : State) (p : Fin 4) (q : Nat) (f : Queue → Queue) (r : Fin 4) (k : Nat) :
    ((s.modQueue p q f).part r).counter k = (s.part r).counter k := State.counter_modPart _ _ _ _ _ fun _ => rfl

/-- Another command's change is not seen. -/
theorem State.entry_modEntry_other (s : State) {c d : Cid} (f : Entry → Entry) (hf : ∀ e, (f e).n = e.n) (h : d ≠ c) :
    (s.modEntry c f).entry d = s.entry d := by
  unfold State.entry
  by_cases hq : d.p ≠ c.p ∨ d.q ≠ c.q
  · rw [State.queue_modEntry_other s c f _ _ hq]
  · have hp : d.p = c.p := Classical.byContradiction fun x => hq (.inl x)
    have hq : d.q = c.q := Classical.byContradiction fun x => hq (.inr x)
    have hn : d.n ≠ c.n := fun x => h (by cases d; cases c; simp_all)
    rw [hp, hq]
    simp only [State.modEntry, State.part_modPart, Part.queue_setQueue, Queue.entry_modEntry _ _ _ _ hf, if_neg hn, Option.map_id']

/-! ### Taking up the head of a queue -/

/-- A command free to be taken up goes to the row's run. -/
theorem State.acceptHead_of {s : State} {p : Fin 4} {q kind : Nat} {e : Entry} (h : AtHead s p q kind e)
    (run : Cid → Entry → State) : s.acceptHead p q kind run = run (e.cid p q) e := by
  obtain ⟨h1, h2, h3, ⟨h4, h5, h6⟩, h7, h8, h9, h10, h11, h12⟩ := h
  unfold State.acceptHead
  simp only [h1]
  simp [h3, h4, h5, h6, h7, h8, h9, h10, h11, h12, Entry.cid]

/-- A command that passes its checks is accepted, starts and is performed. -/
theorem State.commandRow_ok {s : State} {p : Fin 4} {q kind : Nat} {e : Entry} (h : AtHead s p q kind e)
    (check : Entry → Except Status (List Xlat × List Rng)) (exec : Cid → Entry → State → State) {xs : List Xlat} {rs : List Rng}
    (hc : check e = .ok (xs, rs)) (hw : s.walkPoison p rs = none) :
    s.commandRow p q kind check exec =
      exec (e.cid p q) { e with accepted := true, xlats := xs, reads := readRanges rs }
        ((s.accepted (e.cid p q) xs rs).begin (e.cid p q)) := by
  unfold State.commandRow
  rw [State.acceptHead_of h]
  simp [h.fresh.1, hc, hw]

/-- A command that fails its checks completes with the status. -/
theorem State.commandRow_error {s : State} {p : Fin 4} {q kind : Nat} {e : Entry} (h : AtHead s p q kind e)
    (check : Entry → Except Status (List Xlat × List Rng)) (exec : Cid → Entry → State → State) {st : Status}
    (hc : check e = .error st) : s.commandRow p q kind check exec = s.refuse (e.cid p q) st := by
  unfold State.commandRow
  rw [State.acceptHead_of h]
  simp [h.fresh.1, hc]

/-! ### Acceptance and start -/

theorem State.markReads_entry (s : State) (p : Fin 4) (q n : Nat) (xs : List Xlat) (rs : List Rng) (c : Cid) :
    (s.markReads p q n xs rs).entry c = s.entry c := by
  unfold State.markReads
  exact State.entry_modPart _ _ _ _ (fun _ => rfl)

theorem State.cacheXlats_entry (s : State) (p : Fin 4) (xs : List Xlat) (c : Cid) : (s.cacheXlats p xs).entry c = s.entry c := by
  unfold State.cacheXlats
  refine Eq.trans (State.entry_modPart _ _ _ _ (fun _ => rfl)) (State.entry_ext rfl c)

theorem State.markReads_counter (s : State) (p : Fin 4) (q n : Nat) (xs : List Xlat) (rs : List Rng) (r : Fin 4) (k : Nat) :
    ((s.markReads p q n xs rs).part r).counter k = (s.part r).counter k := by
  unfold State.markReads
  exact State.counter_modPart _ _ _ _ _ (fun _ => rfl)

theorem State.cacheXlats_counter (s : State) (p : Fin 4) (xs : List Xlat) (r : Fin 4) (k : Nat) :
    ((s.cacheXlats p xs).part r).counter k = (s.part r).counter k := by
  unfold State.cacheXlats
  exact State.counter_modPart _ _ _ _ _ (fun _ => rfl)

/-- Acceptance keeps what the command translated and read. -/
theorem State.accepted_entry (s : State) (c : Cid) (xs : List Xlat) (rs : List Rng) :
    (s.accepted c xs rs).entry c =
      (s.entry c).map (fun e => { e with accepted := true, xlats := xs, reads := readRanges rs }) := by
  unfold State.accepted
  rw [State.cacheXlats_entry, State.markReads_entry]
  exact State.entry_modEntry _ _ _ (fun _ => rfl)

theorem State.accepted_counter (s : State) (c : Cid) (xs : List Xlat) (rs : List Rng) (r : Fin 4) (k : Nat) :
    ((s.accepted c xs rs).part r).counter k = (s.part r).counter k := by
  unfold State.accepted
  rw [State.cacheXlats_counter, State.markReads_counter, State.counter_modEntry]

/-- What acceptance leaves alone outside its partition. -/
theorem State.accepted_frame (s : State) (c : Cid) (xs : List Xlat) (rs : List Rng) :
    (s.accepted c xs rs).mem = s.mem ∧ (s.accepted c xs rs).host = s.host ∧ (s.accepted c xs rs).ports = s.ports ∧
      (s.accepted c xs rs).out = s.out ∧ (s.accepted c xs rs).tick = s.tick ∧
      ((s.accepted c xs rs).part c.p).obsCfg = (s.part c.p).obsCfg := by
  refine ⟨rfl, rfl, rfl, rfl, rfl, ?_⟩
  unfold State.accepted State.cacheXlats
  rw [State.part_modPart]
  show ((State.markReads _ _ _ _ _ _).part c.p).obsCfg = _
  unfold State.markReads
  rw [State.part_modPart]
  unfold State.modEntry
  rw [State.part_modPart]
  rfl

/-- A start is the entry's change and reports. -/
theorem State.begin_quiet (s : State) (c : Cid) :
    Quiet (s.modEntry c (fun e => { e with phase := .running, startTick := if e.replayed then e.startTick else s.tick })) (s.begin c) :=
  State.traceCmd_quiet _ _ _ (State.boundary_quiet _ _ (State.stayBusy_quiet _ _ (Quiet.refl _)))

theorem State.begin_entry (s : State) (c : Cid) :
    (s.begin c).entry c = (s.entry c).map (fun e => { e with
      phase := .running, startTick := if e.replayed then e.startTick else s.tick }) := by
  rw [(State.begin_quiet s c).entry]
  exact State.entry_modEntry _ _ _ (fun _ => rfl)

theorem State.begin_counter (s : State) (c : Cid) (r : Fin 4) (k : Nat) :
    ((s.begin c).part r).counter k = (s.part r).counter k := by
  rw [(State.begin_quiet s c).counter]
  simp

/-- In a partition that does not trace, a start touches nothing outside its partition. -/
theorem State.begin_frame (s : State) (c : Cid) (h : fld (s.part c.p).obsCfg.toNat 0 2 ≠ 2) :
    (s.begin c).mem = s.mem ∧ (s.begin c).host = s.host ∧ (s.begin c).ports = s.ports ∧ (s.begin c).out = s.out := by
  have ht : ∀ t : State, (t.part c.p).obsMode ≠ 2 → t.traceCmd c 1 = t := by
    intro t ht
    unfold State.traceCmd
    split
    · rfl
    · split
      · unfold State.trace
        rw [if_pos ht]
      · rfl
  unfold State.begin
  dsimp only
  rw [ht]
  · exact ⟨rfl, rfl, rfl, rfl⟩
  · simpa [State.boundary, State.stayBusy, State.modEntry, Part.setQueue] using h

@[simp] theorem State.executed_entry (s : State) (c : Cid) (f : Entry → Entry) (hf : ∀ e, (f e).n = e.n) :
    (s.executed c f).entry c = (s.entry c).map (fun e => { f e with phase := .executed }) := by
  unfold State.executed
  exact State.entry_modEntry _ _ _ (fun e => hf e)

@[simp] theorem State.executed_counter (s : State) (c : Cid) (f : Entry → Entry) (r : Fin 4) (k : Nat) :
    ((s.executed c f).part r).counter k = (s.part r).counter k := State.counter_modEntry _ _ _ _ _

/-! ### Refusal and finish -/

/-- The queue's cancelled commands take the open epoch; nothing else of any command changes. -/
theorem find_reachCancelled (epoch m : Nat) : ∀ l : List Entry, ∃ ep,
    (reachCancelled epoch l).find? (fun e => e.n == m) =
      (l.find? (fun e => e.n == m)).map (fun e => if ep = e.epoch then e else { e with epoch := ep })
  | [] => ⟨0, rfl⟩
  | e :: r => by
    obtain ⟨ep, hr⟩ := find_reachCancelled epoch m r
    unfold reachCancelled
    split
    · by_cases hm : (e.n == m) = true
      · by_cases hc : e.status = .cancelled ∧ e.epoch = 0
        · refine ⟨epoch, ?_⟩
          rw [if_pos hc]
          simp only [List.find?_cons, hm, Option.map_some]
          split
          · rename_i h2; rw [h2]
          · rfl
        · refine ⟨e.epoch, ?_⟩
          rw [if_neg hc]
          simp only [List.find?_cons, hm, Option.map_some, if_true]
      · refine ⟨ep, ?_⟩
        have hx : ((if e.status = .cancelled ∧ e.epoch = 0 then { e with epoch := epoch } else e).n == m) = false := by
          split <;> simpa using hm
        have hm' : (e.n == m) = false := by simpa using hm
        simp only [List.find?_cons, hx, hm', hr]
    · refine ⟨(((e :: r).find? (fun e => e.n == m)).map (·.epoch)).getD 0, ?_⟩
      cases (e :: r).find? (fun e => e.n == m) with
      | none => rfl
      | some x => simp

/-- What reaching the cancelled commands behind a finish does to a command. -/
theorem Part.reach_entry (P : Part) (q n : Nat) : ∃ ep,
    ((P.reach q).queue q).entry n = ((P.queue q).entry n).map (fun e => if ep = e.epoch then e else { e with epoch := ep }) := by
  unfold Part.reach
  rw [Part.queue_setQueue]
  exact find_reachCancelled _ _ _

/-- A finish: the command's change, its end tick now, and the epoch it finishes in (13 R356). -/
theorem State.finishWith_entry (s : State) (c : Cid) (f : Entry → Entry) (hf : ∀ e, (f e).n = e.n) {e : Entry}
    (he : s.entry c = some e) : ∃ ep, (s.finishWith c f).entry c =
      some { f e with phase := .finished, endTick := s.tick, epoch := ep } := by
  unfold State.finishWith
  simp only [he]
  have hb : ∀ t : State, Quiet t ((t.stayBusy c.p).boundary c.p) := fun t =>
    State.boundary_quiet _ _ (State.stayBusy_quiet _ _ (Quiet.refl _))
  have hm : (s.modEntry c (fun e => { f e with phase := .finished, endTick := s.tick, epoch := (s.part c.p).openEpoch })).entry c =
      some { f e with phase := .finished, endTick := s.tick, epoch := (s.part c.p).openEpoch } := by
    refine Eq.trans (State.entry_modEntry _ _ _ (fun e => hf e)) ?_
    rw [he]
    rfl
  generalize s.modEntry c (fun e => { f e with phase := .finished, endTick := s.tick, epoch := (s.part c.p).openEpoch }) = t at hm
  have hr : ∀ u : State, u.entry c = t.entry c → ∃ ep, ((u.modPart c.p (fun P => P.reach c.q)).entry c) =
      some { f e with phase := .finished, endTick := s.tick, epoch := ep } := by
    intro u hu
    unfold State.entry
    rw [State.part_modPart]
    obtain ⟨ep, h⟩ := Part.reach_entry (u.part c.p) c.q c.n
    rw [h]
    have : ((u.part c.p).queue c.q).entry c.n = u.entry c := rfl
    rw [this, hu, hm]
    simp only [Option.map_some]
    split
    · exact ⟨_, rfl⟩
    · exact ⟨_, rfl⟩
  rw [(hb _).entry]
  split
  · exact hr _ (State.entry_modPart _ _ _ _ (fun P => by unfold Part.requestClose; split <;> rfl))
  · exact hr _ rfl

/-- A refusal other than DEFERRED: the command finishes with the status, having executed nothing (02 R39). -/
theorem State.refuse_entry (s : State) (c : Cid) (st : Status) (hst : st ≠ .deferred) {e : Entry} (he : s.entry c = some e) :
    ∃ x, (s.refuse c st).entry c = some x ∧ x.phase = .finished ∧ x.status = st ∧ x.refused = true ∧ x.cmd = e.cmd ∧
      x.endTick = x.startTick ∧ (e.refused = false → x.startTick = s.tick) := by
  unfold State.refuse
  rw [if_neg hst]
  obtain ⟨ep, h⟩ := State.finishWith_entry s c (fun e => { e with
    accepted := true, refused := true, status := st, startTick := if e.refused then e.startTick else s.tick }) (fun _ => rfl) he
  have h2 : ∀ t : State, (t.modEntry c (fun e => { e with endTick := e.startTick })).entry c =
      (t.entry c).map (fun e => { e with endTick := e.startTick }) := fun t => State.entry_modEntry _ _ _ (fun _ => rfl)
  rw [h2, h]
  exact ⟨_, rfl, rfl, rfl, rfl, rfl, rfl, fun hr => by simp [hr]⟩

/-- A finish touches nothing outside its partition. -/
theorem State.finishWith_frame (s : State) (c : Cid) (f : Entry → Entry) :
    (s.finishWith c f).mem = s.mem ∧ (s.finishWith c f).host = s.host ∧ (s.finishWith c f).ports = s.ports ∧
      (s.finishWith c f).out = s.out ∧ (s.finishWith c f).tick = s.tick := by
  unfold State.finishWith
  split
  · exact ⟨rfl, rfl, rfl, rfl, rfl⟩
  · dsimp only
    split <;> exact ⟨rfl, rfl, rfl, rfl, rfl⟩

/-- A finish leaves the sync counters alone; its signal is applied apart. -/
theorem State.finishWith_counter (s : State) (c : Cid) (f : Entry → Entry) (r : Fin 4) (k : Nat) :
    ((s.finishWith c f).part r).counter k = (s.part r).counter k := by
  unfold State.finishWith
  split
  · rfl
  · have hb : ∀ t : State, Quiet t ((t.stayBusy c.p).boundary c.p) := fun t =>
      State.boundary_quiet _ _ (State.stayBusy_quiet _ _ (Quiet.refl _))
    dsimp only
    rw [(hb _).counter]
    refine Eq.trans (State.counter_modPart _ _ _ _ _ (fun _ => rfl)) ?_
    split
    · refine Eq.trans (State.counter_modPart _ _ _ _ _ (fun P => by unfold Part.requestClose; split <;> rfl)) ?_
      exact State.counter_modEntry _ _ _ _ _
    · exact State.counter_modEntry _ _ _ _ _

/-- A refusal other than DEFERRED touches nothing outside its partition. -/
theorem State.refuse_frame (s : State) (c : Cid) (st : Status) (hst : st ≠ .deferred) :
    (s.refuse c st).mem = s.mem ∧ (s.refuse c st).host = s.host ∧ (s.refuse c st).ports = s.ports ∧
      (s.refuse c st).out = s.out ∧ (s.refuse c st).tick = s.tick := by
  unfold State.refuse
  rw [if_neg hst]
  exact State.finishWith_frame s c _

/-- A refusal other than DEFERRED leaves the sync counters alone. -/
theorem State.refuse_counter (s : State) (c : Cid) (st : Status) (hst : st ≠ .deferred) (r : Fin 4) (k : Nat) :
    ((s.refuse c st).part r).counter k = (s.part r).counter k := by
  unfold State.refuse
  rw [if_neg hst, State.counter_modEntry]
  exact State.finishWith_counter s c _ r k

/-! ### Coming to the head, and a whole start -/

/-- Coming to the head of a queue touches nothing outside its partition but retained copies. -/
theorem State.arrive_frame (s : State) (p : Fin 4) (q : Nat) :
    (s.arrive p q).mem = s.mem ∧ (s.arrive p q).host = s.host ∧ (s.arrive p q).ports = s.ports ∧ (s.arrive p q).out = s.out ∧
      (s.arrive p q).tick = s.tick := by
  unfold State.arrive
  dsimp only
  repeat' split
  all_goals exact ⟨rfl, rfl, rfl, rfl, rfl⟩

/-- Coming to the head changes commands of its partition alone. -/
theorem State.arrive_part (s : State) (p : Fin 4) (q : Nat) (r : Fin 4) : ∃ qs, (s.arrive p q).part r = { s.part r with queues := qs } := by
  have hm : ∀ (t : State) (c : Cid) f, (∃ qs, t.part r = { s.part r with queues := qs }) → ∃ qs, (t.modEntry c f).part r = { s.part r with queues := qs } := by
    intro t c f ⟨qs, h⟩
    unfold State.modEntry
    by_cases hr : r = c.p
    · subst hr
      rw [State.part_modPart, h]
      exact ⟨_, rfl⟩
    · rw [State.part_modPart_other _ _ hr]; exact ⟨qs, h⟩
  have hd : ∀ (t : State) (c : Cid), (∃ qs, t.part r = { s.part r with queues := qs }) →
      ∃ qs, (t.dropAllRetained c).part r = { s.part r with queues := qs } := fun _ _ h => h
  have hi : ∀ (c : Prop) [Decidable c] (a b : State), (∃ qs, a.part r = { s.part r with queues := qs }) →
      (∃ qs, b.part r = { s.part r with queues := qs }) → ∃ qs, (if c then a else b).part r = { s.part r with queues := qs } := by
    intro c _ a b ha hb
    split
    · exact ha
    · exact hb
  unfold State.arrive
  dsimp only
  split
  · exact ⟨_, rfl⟩
  · refine hi _ _ _ ⟨_, rfl⟩ ?_
    split
    · exact hm _ _ _ ⟨_, rfl⟩
    · refine hi _ _ _ (hm _ _ _ ⟨_, rfl⟩) (hi _ _ _ (hi _ _ _ ?_ ?_) ?_)
      · exact hm _ _ _ (hm _ _ _ ⟨_, rfl⟩)
      · exact hd _ _ (hm _ _ _ (hm _ _ _ ⟨_, rfl⟩))
      · exact hd _ _ (hm _ _ _ (hm _ _ _ ⟨_, rfl⟩))

theorem State.arrive_counter (s : State) (p : Fin 4) (q : Nat) (r : Fin 4) (k : Nat) :
    ((s.arrive p q).part r).counter k = (s.part r).counter k := by
  obtain ⟨qs, h⟩ := State.arrive_part s p q r
  rw [h]
  rfl

/-- A command taken up now: accepted and running. -/
theorem State.started_entry {s : State} {p : Fin 4} {q kind : Nat} {e : Entry} (h : AtHead s p q kind e) (xs : List Xlat)
    (rs : List Rng) :
    ((s.accepted (e.cid p q) xs rs).begin (e.cid p q)).entry (e.cid p q) =
      some { e with accepted := true, xlats := xs, reads := readRanges rs, phase := .running, startTick := s.tick } := by
  have hn : s.entry (e.cid p q) = some e := h.named
  rw [State.begin_entry, State.accepted_entry, hn]
  simp [h.fresh.2.2, (State.accepted_frame s (e.cid p q) xs rs).2.2.2.2.1]

end Sys2Proof.Machine
end

