-- ==== Sys2Proof/Laws/Keeps.lean ====
section
/-! SUPPORT. What every operation of the block keeps, said once: the waiting commands, the levels of the dies and the
package, the canonical form of both memories, the order of time, the rollback counter and the retired cores. The
lemmas of the other Keeps files say it of each operation by name. -/

namespace Sys2Proof.Machine

/-- What `t` keeps of `s`: an operation that is no reset and no loss of VAUX ends in such a state. -/
structure Keeps (s t : State) : Prop where
  pending : t.pending = s.pending
  dieInfo : t.dieInfo = s.dieInfo
  packageLevel : t.packageLevel = s.packageLevel
  tick : s.tick ≤ t.tick
  host : swf 0 s.host = true → swf 0 t.host = true
  mem : swf 0 s.mem.bytes = true → swf 0 t.mem.bytes = true
  rollback : s.life.rollbackCounter ≤ t.life.rollbackCounter
  retired : ∀ x ∈ s.cores.retired, x ∈ t.cores.retired

theorem Keeps.refl (s : State) : Keeps s s :=
  ⟨rfl, rfl, rfl, Nat.le_refl _, id, id, Nat.le_refl _, fun _ h => h⟩

theorem Keeps.trans {s t u : State} (h : Keeps s t) (k : Keeps t u) : Keeps s u :=
  ⟨k.pending.trans h.pending, k.dieInfo.trans h.dieInfo, k.packageLevel.trans h.packageLevel,
    Nat.le_trans h.tick k.tick, fun x => k.host (h.host x), fun x => k.mem (h.mem x),
    Nat.le_trans h.rollback k.rollback, fun x hx => k.retired x (h.retired x hx)⟩

/-- An update of any other field. -/
theorem Keeps.upd {s e : State} {tick free parts mem host cores seams ports fab obs power life hi out}
    (h : Keeps s e) (ht : e.tick ≤ tick) (hh : swf 0 e.host = true → swf 0 host = true)
    (hm : swf 0 e.mem.bytes = true → swf 0 (Mem.bytes mem) = true)
    (hl : e.life.rollbackCounter ≤ Life.rollbackCounter life) (hc : ∀ x ∈ e.cores.retired, x ∈ Cores.retired cores) :
    Keeps s { pending := e.pending, tick := tick, free := free, parts := parts, mem := mem, host := host, cores := cores,
              seams := seams, dieInfo := e.dieInfo, packageLevel := e.packageLevel, ports := ports, fab := fab, obs := obs,
              power := power, life := life, hi := hi, out := out } :=
  h.trans ⟨rfl, rfl, rfl, ht, hh, hm, hl, hc⟩

/-- The passing of time. -/
theorem Keeps.advance {s e : State} {t : Nat} (h : Keeps s e) : Keeps s (e.advance t) :=
  h.trans ⟨rfl, rfl, rfl, Nat.le_max_left _ _, id, id, Nat.le_refl _, fun _ h => h⟩

/-- A choice keeps what both its branches keep. -/
theorem Keeps.ite {s a b : State} {c : Prop} [Decidable c] (ha : c → Keeps s a) (hb : ¬c → Keeps s b) :
    Keeps s (if c then a else b) := by
  split
  · exact ha (by assumption)
  · exact hb (by assumption)

/-- A run of operations over a list keeps what each keeps. -/
theorem Keeps.foldl {s : State} {α : Type} {f : State → α → State} {l : List α} {e : State}
    (hf : ∀ t a, Keeps s t → Keeps s (f t a)) (h : Keeps s e) : Keeps s (l.foldl f e) :=
  foldl_inv (Keeps s) f (fun t a => hf t a) l e h

end Sys2Proof.Machine
end

