-- ==== Sys2Proof/Laws/KeepsOps.lean ====
section
/-! SUPPORT. What the operations of Machine/Ops.lean keep (Laws/Keeps.lean). -/

namespace Sys2Proof.Machine

theorem State.setPart_keeps {s0 : State} (s : State) (p : Fin 4) (P : Part) (hK : Keeps s0 s) : Keeps s0 (State.setPart s p P) := by
  unfold State.setPart
  try dsimp only
  repeat' (first
    | (with_reducible first | assumption | exact Keeps.refl _ | apply Keeps.ite | apply Keeps.foldl | apply Keeps.advance)
    | (with_reducible first | exact Nat.le_refl _ | exact id | exact fun _ h => h | apply swf_sset | apply swf_swrite | apply swf_sstores | apply swf_filter)
    | (intro _; try dsimp only)
    | split
    | with_reducible apply Keeps.upd)

theorem State.modPart_keeps {s0 : State} (s : State) (p : Fin 4) (f : Part → Part) (hK : Keeps s0 s) : Keeps s0 (State.modPart s p f) := by
  unfold State.modPart
  try dsimp only
  repeat' (first
    | (with_reducible first | assumption | exact Keeps.refl _ | apply State.setPart_keeps | apply Keeps.ite | apply Keeps.foldl | apply Keeps.advance)
    | (with_reducible first | exact Nat.le_refl _ | exact id | exact fun _ h => h | apply swf_sset | apply swf_swrite | apply swf_sstores | apply swf_filter)
    | (intro _; try dsimp only)
    | split
    | with_reducible apply Keeps.upd)

theorem State.modEntry_keeps {s0 : State} (s : State) (c : Cid) (f : Entry → Entry) (hK : Keeps s0 s) : Keeps s0 (State.modEntry s c f) := by
  unfold State.modEntry
  try dsimp only
  repeat' (first
    | (with_reducible first | assumption | exact Keeps.refl _ | apply State.modPart_keeps | apply Keeps.ite | apply Keeps.foldl | apply Keeps.advance)
    | (with_reducible first | exact Nat.le_refl _ | exact id | exact fun _ h => h | apply swf_sset | apply swf_swrite | apply swf_sstores | apply swf_filter)
    | (intro _; try dsimp only)
    | split
    | with_reducible apply Keeps.upd)

theorem State.modQueue_keeps {s0 : State} (s : State) (p : Fin 4) (q : Nat) (f : Queue → Queue) (hK : Keeps s0 s) : Keeps s0 (State.modQueue s p q f) := by
  unfold State.modQueue
  try dsimp only
  repeat' (first
    | (with_reducible first | assumption | exact Keeps.refl _ | apply State.modPart_keeps | apply Keeps.ite | apply Keeps.foldl | apply Keeps.advance)
    | (with_reducible first | exact Nat.le_refl _ | exact id | exact fun _ h => h | apply swf_sset | apply swf_swrite | apply swf_sstores | apply swf_filter)
    | (intro _; try dsimp only)
    | split
    | with_reducible apply Keeps.upd)

theorem State.emit_keeps {s0 : State} (s : State) (o : Out) (hK : Keeps s0 s) : Keeps s0 (State.emit s o) := by
  unfold State.emit
  try dsimp only
  repeat' (first
    | (with_reducible first | assumption | exact Keeps.refl _ | apply Keeps.ite | apply Keeps.foldl | apply Keeps.advance)
    | (with_reducible first | exact Nat.le_refl _ | exact id | exact fun _ h => h | apply swf_sset | apply swf_swrite | apply swf_sstores | apply swf_filter)
    | (intro _; try dsimp only)
    | split
    | with_reducible apply Keeps.upd)

theorem State.tally_keeps {s0 : State} (s : State) (cls unit idx k : Nat) (hK : Keeps s0 s) : Keeps s0 (State.tally s cls unit idx k) := by
  unfold State.tally
  try dsimp only
  repeat' (first
    | (with_reducible first | assumption | exact Keeps.refl _ | apply Keeps.ite | apply Keeps.foldl | apply Keeps.advance)
    | (with_reducible first | exact Nat.le_refl _ | exact id | exact fun _ h => h | apply swf_sset | apply swf_swrite | apply swf_sstores | apply swf_filter)
    | (intro _; try dsimp only)
    | split
    | with_reducible apply Keeps.upd)

theorem State.modThread_keeps {s0 : State} (s : State) (i : Tid) (f : Thread → Thread) (hK : Keeps s0 s) : Keeps s0 (State.modThread s i f) := by
  unfold State.modThread
  try dsimp only
  repeat' (first
    | (with_reducible first | assumption | exact Keeps.refl _ | apply State.modEntry_keeps | apply Keeps.ite | apply Keeps.foldl | apply Keeps.advance)
    | (with_reducible first | exact Nat.le_refl _ | exact id | exact fun _ h => h | apply swf_sset | apply swf_swrite | apply swf_sstores | apply swf_filter)
    | (intro _; try dsimp only)
    | split
    | with_reducible apply Keeps.upd)

end Sys2Proof.Machine
end

