-- ==== Sys2Proof/Laws/KeepsMemory.lean ====
section
/-! SUPPORT. What the operations of Machine/Memory.lean keep (Laws/Keeps.lean). -/

namespace Sys2Proof.Machine

theorem Mem.write_wf (m : Mem) (a : Nat) (b : Bytes) (h : swf 0 m.bytes = true) : swf 0 (m.write a b).bytes = true :=
  swf_swrite b m.bytes a h

theorem Mem.restoreBlock_wf (m : Mem) (x : Shadow) (h : swf 0 m.bytes = true) : swf 0 (m.restoreBlock x).bytes = true :=
  foldl_inv (fun (l : SMap Byte) => swf 0 l = true) _ (fun l _ hl => swf_sset 0 l _ _ hl) x.bytes _ (swf_filter 0 _ m.bytes h)

theorem State.cacheXlats_keeps {s0 : State} (s : State) (p : Fin 4) (xs : List Xlat) (hK : Keeps s0 s) : Keeps s0 (State.cacheXlats s p xs) := by
  unfold State.cacheXlats
  try dsimp only
  repeat' (first
    | (with_reducible first | assumption | exact Keeps.refl _ | apply State.modPart_keeps | apply Keeps.ite | apply Keeps.foldl | apply Keeps.advance)
    | (with_reducible first | exact Nat.le_refl _ | exact id | exact fun _ h => h | apply swf_sset | apply swf_swrite | apply swf_sstores | apply swf_filter | apply Mem.write_wf | apply Mem.restoreBlock_wf)
    | (intro _; try dsimp only)
    | split
    | with_reducible apply Keeps.upd)

theorem State.writeOutside_keeps {s0 : State} (s : State) (a : Nat) (b : Bytes) (hK : Keeps s0 s) : Keeps s0 (State.writeOutside s a b) := by
  unfold State.writeOutside
  try dsimp only
  repeat' (first
    | (with_reducible first | assumption | exact Keeps.refl _ | apply Keeps.ite | apply Keeps.foldl | apply Keeps.advance)
    | (with_reducible first | exact Nat.le_refl _ | exact id | exact fun _ h => h | apply swf_sset | apply swf_swrite | apply swf_sstores | apply swf_filter | apply Mem.write_wf | apply Mem.restoreBlock_wf)
    | (intro _; try dsimp only)
    | split
    | with_reducible apply Keeps.upd)

theorem State.shadow_keeps {s0 : State} (s : State) (p : Fin 4) (block : Nat) (keptFor : Option Tid) (hK : Keeps s0 s) : Keeps s0 (State.shadow s p block keptFor) := by
  unfold State.shadow
  try dsimp only
  repeat' (first
    | (with_reducible first | assumption | exact Keeps.refl _ | apply State.modPart_keeps | apply State.setPart_keeps | apply State.tally_keeps | apply Keeps.ite | apply Keeps.foldl | apply Keeps.advance)
    | (with_reducible first | exact Nat.le_refl _ | exact id | exact fun _ h => h | apply swf_sset | apply swf_swrite | apply swf_sstores | apply swf_filter | apply Mem.write_wf | apply Mem.restoreBlock_wf)
    | (intro _; try dsimp only)
    | split
    | with_reducible apply Keeps.upd)

theorem State.lowShadows_keeps {s0 : State} (s : State) (stack : Nat) (hK : Keeps s0 s) : Keeps s0 (State.lowShadows s stack) := by
  unfold State.lowShadows
  try dsimp only
  repeat' (first
    | (with_reducible first | assumption | exact Keeps.refl _ | apply Keeps.ite | apply Keeps.foldl | apply Keeps.advance)
    | (with_reducible first | exact Nat.le_refl _ | exact id | exact fun _ h => h | apply swf_sset | apply swf_swrite | apply swf_sstores | apply swf_filter | apply Mem.write_wf | apply Mem.restoreBlock_wf)
    | (intro _; try dsimp only)
    | split
    | with_reducible apply Keeps.upd)

theorem State.writePiece_keeps {s0 : State} (s : State) (w : Writer) (xs : List Xlat) (pc : Piece) (hK : Keeps s0 s) : Keeps s0 (State.writePiece s w xs pc) := by
  unfold State.writePiece
  split
  · exact hK
  · exact State.modPart_keeps _ _ _ hK
  · extract_lets block own t
    have ht : Keeps s0 t := by
      dsimp only [t]
      apply Keeps.ite <;> intro _
      · exact State.lowShadows_keeps _ _ (State.shadow_keeps _ _ _ _ hK)
      · exact hK
    exact ht.upd (Nat.le_refl _) id (Mem.write_wf _ _ _) (Nat.le_refl _) (fun _ h => h)

theorem State.writeVa_keeps {s0 : State} (s : State) (w : Writer) (xs : List Xlat) (va : Nat) (b : Bytes) (hK : Keeps s0 s) : Keeps s0 (State.writeVa s w xs va b) := by
  unfold State.writeVa
  try dsimp only
  repeat' (first
    | (with_reducible first | assumption | exact Keeps.refl _ | apply State.writePiece_keeps | apply Keeps.ite | apply Keeps.foldl | apply Keeps.advance)
    | (with_reducible first | exact Nat.le_refl _ | exact id | exact fun _ h => h | apply swf_sset | apply swf_swrite | apply swf_sstores | apply swf_filter | apply Mem.write_wf | apply Mem.restoreBlock_wf)
    | (intro _; try dsimp only)
    | split
    | with_reducible apply Keeps.upd)

theorem State.writeDue_keeps {s0 : State} (s : State) (w : Writer) (xs : List Xlat) (ws : List (Bool × Nat × Bytes)) (hK : Keeps s0 s) : Keeps s0 (State.writeDue s w xs ws) := by
  unfold State.writeDue
  try dsimp only
  repeat' (first
    | (with_reducible first | assumption | exact Keeps.refl _ | apply State.writeVa_keeps | apply Keeps.ite | apply Keeps.foldl | apply Keeps.advance)
    | (with_reducible first | exact Nat.le_refl _ | exact id | exact fun _ h => h | apply swf_sset | apply swf_swrite | apply swf_sstores | apply swf_filter | apply Mem.write_wf | apply Mem.restoreBlock_wf)
    | (intro _; try dsimp only)
    | split
    | with_reducible apply Keeps.upd)

theorem State.piecesUntil_keeps {s0 : State} (w : Writer) (xs : List Xlat) : ∀ (l : List Piece) (s : State), Keeps s0 s →
    Keeps s0 (State.piecesUntil w xs l s).1
  | [], _, hK => hK
  | pc :: r, s, hK => by
    unfold State.piecesUntil
    split
    · exact State.piecesUntil_keeps w xs r _ (State.writePiece_keeps _ _ _ _ hK)
    · exact hK

theorem State.writeUntil_keeps {s0 : State} (w : Writer) (xs : List Xlat) : ∀ (l : List (Bool × Nat × Bytes)) (s : State),
    Keeps s0 s → Keeps s0 (State.writeUntil w xs l s).1
  | [], _, hK => hK
  | d :: r, s, hK => by
    have h := State.piecesUntil_keeps (w.whose d.1) xs (pieces (d.2.2.length / 65536 + 2) d.2.1 d.2.2) s hK
    unfold State.writeUntil
    split
    · rename_i t ht
      rw [ht] at h
      exact State.writeUntil_keeps w xs r t h
    · rename_i t l _ ht
      rw [ht] at h
      exact h


theorem State.markReads_keeps {s0 : State} (s : State) (p : Fin 4) (q n : Nat) (xs : List Xlat) (rs : List Rng) (hK : Keeps s0 s) : Keeps s0 (State.markReads s p q n xs rs) := by
  unfold State.markReads
  try dsimp only
  repeat' (first
    | (with_reducible first | assumption | exact Keeps.refl _ | apply State.modPart_keeps | apply Keeps.ite | apply Keeps.foldl | apply Keeps.advance)
    | (with_reducible first | exact Nat.le_refl _ | exact id | exact fun _ h => h | apply swf_sset | apply swf_swrite | apply swf_sstores | apply swf_filter | apply Mem.write_wf | apply Mem.restoreBlock_wf)
    | (intro _; try dsimp only)
    | split
    | with_reducible apply Keeps.upd)

end Sys2Proof.Machine
end

