-- ==== Sys2Proof/Laws/KeepsReport.lean ====
section
/-! SUPPORT. What the operations of Machine/Report.lean keep (Laws/Keeps.lean). -/

namespace Sys2Proof.Machine

theorem State.takeTokens_keeps {s0 s t : State} {stack n : Nat} (hK : Keeps s0 s) (h : s.takeTokens stack n = some t) :
    Keeps s0 t := by
  unfold State.takeTokens at h
  dsimp only at h
  split at h
  · cases h
    exact hK.upd (Nat.le_refl _) id id (Nat.le_refl _) fun _ h => h
  · cases h


theorem State.modPort_keeps {s0 : State} (s : State) (i : Nat) (f : Port → Port) (hK : Keeps s0 s) : Keeps s0 (State.modPort s i f) := by
  unfold State.modPort
  try dsimp only
  repeat' (first
    | (with_reducible first | assumption | exact Keeps.refl _ | apply Keeps.ite | apply Keeps.foldl | apply Keeps.advance)
    | (with_reducible first | exact Nat.le_refl _ | exact id | exact fun _ h => h | apply swf_sset | apply swf_swrite | apply swf_sstores | apply swf_filter | apply Mem.write_wf | apply Mem.restoreBlock_wf)
    | (intro _; try dsimp only)
    | split
    | with_reducible apply Keeps.upd)

theorem State.tele_keeps {s0 : State} (s : State) (i : Nat) (k n : Nat) (hK : Keeps s0 s) : Keeps s0 (State.tele s i k n) := by
  unfold State.tele
  try dsimp only
  repeat' (first
    | (with_reducible first | assumption | exact Keeps.refl _ | apply State.modPort_keeps | apply Keeps.ite | apply Keeps.foldl | apply Keeps.advance)
    | (with_reducible first | exact Nat.le_refl _ | exact id | exact fun _ h => h | apply swf_sset | apply swf_swrite | apply swf_sstores | apply swf_filter | apply Mem.write_wf | apply Mem.restoreBlock_wf)
    | (intro _; try dsimp only)
    | split
    | with_reducible apply Keeps.upd)

theorem State.hostWrite_keeps {s0 : State} (s : State) (a : Nat) (b : Bytes) (hK : Keeps s0 s) : Keeps s0 (State.hostWrite s a b) := by
  unfold State.hostWrite
  try dsimp only
  repeat' (first
    | (with_reducible first | assumption | exact Keeps.refl _ | apply Keeps.ite | apply Keeps.foldl | apply Keeps.advance)
    | (with_reducible first | exact Nat.le_refl _ | exact id | exact fun _ h => h | apply swf_sset | apply swf_swrite | apply swf_sstores | apply swf_filter | apply Mem.write_wf | apply Mem.restoreBlock_wf)
    | (intro _; try dsimp only)
    | split
    | with_reducible apply Keeps.upd)


theorem State.sendMsix_keeps {s0 : State} (s : State) (fn : Fn) (v : Nat) (hK : Keeps s0 s) : Keeps s0 (State.sendMsix s fn v) := by
  unfold State.sendMsix
  try dsimp only
  repeat' (first
    | (with_reducible first | assumption | exact Keeps.refl _ | apply State.emit_keeps | apply Keeps.ite | apply Keeps.foldl | apply Keeps.advance)
    | (with_reducible first | exact Nat.le_refl _ | exact id | exact fun _ h => h | apply swf_sset | apply swf_swrite | apply swf_sstores | apply swf_filter | apply Mem.write_wf | apply Mem.restoreBlock_wf)
    | (intro _; try dsimp only)
    | split
    | with_reducible apply Keeps.upd)

theorem State.raiseMsix_keeps {s0 : State} (s : State) (fn : Fn) (v : Nat) (hK : Keeps s0 s) : Keeps s0 (State.raiseMsix s fn v) := by
  unfold State.raiseMsix
  try dsimp only
  repeat' (first
    | (with_reducible first | assumption | exact Keeps.refl _ | apply State.sendMsix_keeps | apply Keeps.ite | apply Keeps.foldl | apply Keeps.advance)
    | (with_reducible first | exact Nat.le_refl _ | exact id | exact fun _ h => h | apply swf_sset | apply swf_swrite | apply swf_sstores | apply swf_filter | apply Mem.write_wf | apply Mem.restoreBlock_wf)
    | (intro _; try dsimp only)
    | split
    | with_reducible apply Keeps.upd)

theorem State.aer_keeps {s0 : State} (s : State) (p : Fin 4) (hK : Keeps s0 s) : Keeps s0 (State.aer s p) := by
  unfold State.aer
  try dsimp only
  repeat' (first
    | (with_reducible first | assumption | exact Keeps.refl _ | apply State.emit_keeps | apply Keeps.ite | apply Keeps.foldl | apply Keeps.advance)
    | (with_reducible first | exact Nat.le_refl _ | exact id | exact fun _ h => h | apply swf_sset | apply swf_swrite | apply swf_sstores | apply swf_filter | apply Mem.write_wf | apply Mem.restoreBlock_wf)
    | (intro _; try dsimp only)
    | split
    | with_reducible apply Keeps.upd)

theorem State.pump_keeps {s0 : State} (s : State) (i : Nat) (hK : Keeps s0 s) : Keeps s0 (State.pump s i) := by
  unfold State.pump
  try dsimp only
  repeat' (first
    | (with_reducible first | assumption | exact Keeps.refl _ | apply State.emit_keeps | apply State.modPort_keeps | apply Keeps.ite | apply Keeps.foldl | apply Keeps.advance)
    | (with_reducible first | exact Nat.le_refl _ | exact id | exact fun _ h => h | apply swf_sset | apply swf_swrite | apply swf_sstores | apply swf_filter | apply Mem.write_wf | apply Mem.restoreBlock_wf)
    | (intro _; try dsimp only)
    | split
    | with_reducible apply Keeps.upd)

theorem State.transmit_keeps {s0 : State} (s : State) (i : Nat) (pkt : Packet) (hK : Keeps s0 s) : Keeps s0 (State.transmit s i pkt) := by
  unfold State.transmit
  try dsimp only
  repeat' (first
    | (with_reducible first | assumption | exact Keeps.refl _ | apply State.modPort_keeps | apply State.pump_keeps | apply Keeps.ite | apply Keeps.foldl | apply Keeps.advance)
    | (with_reducible first | exact Nat.le_refl _ | exact id | exact fun _ h => h | apply swf_sset | apply swf_swrite | apply swf_sstores | apply swf_filter | apply Mem.write_wf | apply Mem.restoreBlock_wf)
    | (intro _; try dsimp only)
    | split
    | with_reducible apply Keeps.upd)

theorem State.flood_keeps {s0 : State} (s : State) (kind : Nat) (payload : Bytes) (except : Option Nat) (hK : Keeps s0 s) : Keeps s0 (State.flood s kind payload except) := by
  unfold State.flood
  try dsimp only
  repeat' (first
    | (with_reducible first | assumption | exact Keeps.refl _ | apply State.transmit_keeps | apply Keeps.ite | apply Keeps.foldl | apply Keeps.advance)
    | (with_reducible first | exact Nat.le_refl _ | exact id | exact fun _ h => h | apply swf_sset | apply swf_swrite | apply swf_sstores | apply swf_filter | apply Mem.write_wf | apply Mem.restoreBlock_wf)
    | (intro _; try dsimp only)
    | split
    | with_reducible apply Keeps.upd)

theorem State.pegTrigger_keeps {s0 : State} (s : State) (source : Nat) (halt fabric : Bool) (issuer : BitVec 4) (cause : Option Cid) (hK : Keeps s0 s) : Keeps s0 (State.pegTrigger s source halt fabric issuer cause) := by
  unfold State.pegTrigger
  try dsimp only
  repeat' (first
    | (with_reducible first | assumption | exact Keeps.refl _ | apply State.accepted_keeps | apply State.flood_keeps | apply State.halt_keeps | apply peg_keeps | apply Keeps.ite | apply Keeps.foldl | apply Keeps.advance)
    | (with_reducible first | exact Nat.le_refl _ | exact id | exact fun _ h => h | apply swf_sset | apply swf_swrite | apply swf_sstores | apply swf_filter | apply Mem.write_wf | apply Mem.restoreBlock_wf)
    | (intro _; try dsimp only)
    | split
    | with_reducible apply Keeps.upd)

theorem State.pegMatch_keeps {s0 : State} (s : State) (source : Nat) (hit : Nat → Bool) (hK : Keeps s0 s) : Keeps s0 (State.pegMatch s source hit) := by
  unfold State.pegMatch
  try dsimp only
  repeat' (first
    | (with_reducible first | assumption | exact Keeps.refl _ | apply State.pegTrigger_keeps | apply pegTrigger_keeps | apply Keeps.ite | apply Keeps.foldl | apply Keeps.advance)
    | (with_reducible first | exact Nat.le_refl _ | exact id | exact fun _ h => h | apply swf_sset | apply swf_swrite | apply swf_sstores | apply swf_filter | apply Mem.write_wf | apply Mem.restoreBlock_wf)
    | (intro _; try dsimp only)
    | split
    | with_reducible apply Keeps.upd)

theorem State.progMatch_keeps {s0 : State} (s : State) (hit : Nat → Nat → Bool) (was : Nat) (hK : Keeps s0 s) : Keeps s0 (State.progMatch s hit was) := by
  unfold State.progMatch
  try dsimp only
  repeat' (first
    | (with_reducible first | assumption | exact Keeps.refl _ | apply State.pegMatch_keeps | apply Keeps.ite | apply Keeps.foldl | apply Keeps.advance)
    | (with_reducible first | exact Nat.le_refl _ | exact id | exact fun _ h => h | apply swf_sset | apply swf_swrite | apply swf_sstores | apply swf_filter | apply Mem.write_wf | apply Mem.restoreBlock_wf)
    | (intro _; try dsimp only)
    | split
    | with_reducible apply Keeps.upd)

theorem State.coreEvent_keeps {s0 : State} (s : State) (p : Fin 4) (core event k : Nat) (cmd : Option Bytes) (hK : Keeps s0 s) : Keeps s0 (State.coreEvent s p core event k cmd) := by
  unfold State.coreEvent
  try dsimp only
  repeat' (first
    | (with_reducible first | assumption | exact Keeps.refl _ | apply State.progMatch_keeps | apply State.tally_keeps | apply Keeps.ite | apply Keeps.foldl | apply Keeps.advance)
    | (with_reducible first | exact Nat.le_refl _ | exact id | exact fun _ h => h | apply swf_sset | apply swf_swrite | apply swf_sstores | apply swf_filter | apply Mem.write_wf | apply Mem.restoreBlock_wf)
    | (intro _; try dsimp only)
    | split
    | with_reducible apply Keeps.upd)

theorem State.threadEvent_keeps {s0 : State} (s : State) (i : Tid) (key core event k : Nat) (cmd : Bytes) (hK : Keeps s0 s) : Keeps s0 (State.threadEvent s i key core event k cmd) := by
  unfold State.threadEvent
  try dsimp only
  repeat' (first
    | (with_reducible first | assumption | exact Keeps.refl _ | apply State.coreEvent_keeps | apply State.modThread_keeps | apply Keeps.ite | apply Keeps.foldl | apply Keeps.advance)
    | (with_reducible first | exact Nat.le_refl _ | exact id | exact fun _ h => h | apply swf_sset | apply swf_swrite | apply swf_sstores | apply swf_filter | apply Mem.write_wf | apply Mem.restoreBlock_wf)
    | (intro _; try dsimp only)
    | split
    | with_reducible apply Keeps.upd)

theorem State.driftWith_keeps {s0 : State} (s : State) (dies : BitVec 4) (hK : Keeps s0 s) : Keeps s0 (State.driftWith s dies) := by
  unfold State.driftWith
  try dsimp only
  repeat' (first
    | (with_reducible first | assumption | exact Keeps.refl _ | apply State.pegMatch_keeps | apply State.progMatch_keeps | apply Keeps.ite | apply Keeps.foldl | apply Keeps.advance)
    | (with_reducible first | exact Nat.le_refl _ | exact id | exact fun _ h => h | apply swf_sset | apply swf_swrite | apply swf_sstores | apply swf_filter | apply Mem.write_wf | apply Mem.restoreBlock_wf)
    | (intro _; try dsimp only)
    | split
    | with_reducible apply Keeps.upd)

theorem State.drift_keeps {s0 : State} (s : State) (hK : Keeps s0 s) : Keeps s0 (State.drift s) := by
  unfold State.drift
  try dsimp only
  repeat' (first
    | (with_reducible first | assumption | exact Keeps.refl _ | apply State.driftWith_keeps | apply Keeps.ite | apply Keeps.foldl | apply Keeps.advance)
    | (with_reducible first | exact Nat.le_refl _ | exact id | exact fun _ h => h | apply swf_sset | apply swf_swrite | apply swf_sstores | apply swf_filter | apply Mem.write_wf | apply Mem.restoreBlock_wf)
    | (intro _; try dsimp only)
    | split
    | with_reducible apply Keeps.upd)

theorem State.note_keeps {s0 : State} (s : State) (c : Cid) (xs : List Exc) (hK : Keeps s0 s) : Keeps s0 (State.note s c xs) := by
  unfold State.note
  try dsimp only
  repeat' (first
    | (with_reducible first | assumption | exact Keeps.refl _ | apply State.modQueue_keeps | apply State.pegMatch_keeps | apply Keeps.ite | apply Keeps.foldl | apply Keeps.advance)
    | (with_reducible first | exact Nat.le_refl _ | exact id | exact fun _ h => h | apply swf_sset | apply swf_swrite | apply swf_sstores | apply swf_filter | apply Mem.write_wf | apply Mem.restoreBlock_wf)
    | (intro _; try dsimp only)
    | split
    | with_reducible apply Keeps.upd)

theorem State.settleBuckets_keeps {s0 : State} (s : State) (hK : Keeps s0 s) : Keeps s0 (State.settleBuckets s) := by
  unfold State.settleBuckets
  try dsimp only
  repeat' (first
    | (with_reducible first | assumption | exact Keeps.refl _ | apply Keeps.ite | apply Keeps.foldl | apply Keeps.advance)
    | (with_reducible first | exact Nat.le_refl _ | exact id | exact fun _ h => h | apply swf_sset | apply swf_swrite | apply swf_sstores | apply swf_filter | apply Mem.write_wf | apply Mem.restoreBlock_wf)
    | (intro _; try dsimp only)
    | split
    | with_reducible apply Keeps.upd)

theorem State.obsWrite_keeps {s0 : State} (s : State) (pa : Nat) (b : Bytes) (hK : Keeps s0 s) : Keeps s0 (State.obsWrite s pa b) := by
  unfold State.obsWrite
  try dsimp only
  repeat' (first
    | (with_reducible first | assumption | exact Keeps.refl _ | apply State.tally_keeps | apply State.writeOutside_keeps | apply Keeps.ite | apply Keeps.foldl | apply Keeps.advance)
    | (with_reducible first | exact Nat.le_refl _ | exact id | exact fun _ h => h | apply swf_sset | apply swf_swrite | apply swf_sstores | apply swf_filter | apply Mem.write_wf | apply Mem.restoreBlock_wf)
    | (intro _; try dsimp only)
    | split
    | with_reducible apply Keeps.upd)

theorem State.traceDrop_keeps {s0 : State} (s : State) (p : Fin 4) (hK : Keeps s0 s) : Keeps s0 (State.traceDrop s p) := by
  unfold State.traceDrop
  try dsimp only
  repeat' (first
    | (with_reducible first | assumption | exact Keeps.refl _ | apply State.modPart_keeps | apply State.tally_keeps | apply Keeps.ite | apply Keeps.foldl | apply Keeps.advance)
    | (with_reducible first | exact Nat.le_refl _ | exact id | exact fun _ h => h | apply swf_sset | apply swf_swrite | apply swf_sstores | apply swf_filter | apply Mem.write_wf | apply Mem.restoreBlock_wf)
    | (intro _; try dsimp only)
    | split
    | with_reducible apply Keeps.upd)


theorem State.tracePut_keeps {s0 s t : State} {p : Fin 4} {r : Bytes} (hK : Keeps s0 s) (h : s.tracePut p r = some t) :
    Keeps s0 t := by
  unfold State.tracePut at h
  extract_lets P n k unstreamed at h
  split at h
  · cases h
  · split at h
    · cases h
    · split at h
      · cases h
      · rename_i u hu
        cases h
        have hu := State.takeTokens_keeps hK hu
        apply Keeps.ite <;> intro _
        · exact State.tally_keeps _ _ _ _ _ (State.tally_keeps _ _ _ _ _ (State.obsWrite_keeps _ _ _ (State.modPart_keeps _ _ _ hu)))
        · exact State.tally_keeps _ _ _ _ _ (State.obsWrite_keeps _ _ _ (State.modPart_keeps _ _ _ hu))

theorem State.dropped_keeps {s0 s t : State} {p : Fin 4} (hK : Keeps s0 s) (h : s.dropped p = some t) : Keeps s0 t := by
  unfold State.dropped at h
  dsimp only at h
  split at h
  · cases h
  · obtain ⟨v, hv, rfl⟩ := Option.map_eq_some_iff.1 h
    exact State.modPart_keeps _ _ _ (State.tracePut_keeps hK hv)

theorem State.retryDropped_keeps {s0 : State} (s : State) (p : Fin 4) (hK : Keeps s0 s) : Keeps s0 (State.retryDropped s p) := by
  unfold State.retryDropped
  refine Keeps.ite (fun _ => hK) (fun _ => ?_)
  dsimp only
  have hd : Keeps s0 s.drift := State.drift_keeps _ hK
  cases h : s.drift.dropped p with
  | none => exact hd
  | some t => exact State.dropped_keeps hd h

theorem State.trace_keeps {s0 : State} (s : State) (p : Fin 4) (tick kind : Nat) (after replayed : Bool) (tags : Bytes)
    (unit data : Nat) (hK : Keeps s0 s) : Keeps s0 (State.trace s p tick kind after replayed tags unit data) := by
  unfold State.trace
  refine Keeps.ite (fun _ => hK) (fun _ => ?_)
  dsimp only
  have hd : Keeps s0 s.drift := State.drift_keeps _ hK
  have hf : ∀ u, (if (s.drift.part p).traceDrops = 0 then some s.drift else s.drift.dropped p) = some u → Keeps s0 u := by
    intro u hu
    split at hu
    · cases hu; exact hd
    · exact State.dropped_keeps hd hu
  split
  · exact State.traceDrop_keeps _ _ hd
  · rename_i u hu
    have hu := hf u hu
    split
    · exact State.traceDrop_keeps _ _ hu
    · exact State.tracePut_keeps hu (by assumption)


theorem State.traceCmd_keeps {s0 : State} (s : State) (c : Cid) (kind : Nat) (hK : Keeps s0 s) : Keeps s0 (State.traceCmd s c kind) := by
  unfold State.traceCmd
  try dsimp only
  repeat' (first
    | (with_reducible first | assumption | exact Keeps.refl _ | apply State.trace_keeps | apply Keeps.ite | apply Keeps.foldl | apply Keeps.advance)
    | (with_reducible first | exact Nat.le_refl _ | exact id | exact fun _ h => h | apply swf_sset | apply swf_swrite | apply swf_sstores | apply swf_filter | apply Mem.write_wf | apply Mem.restoreBlock_wf)
    | (intro _; try dsimp only)
    | split
    | with_reducible apply Keeps.upd)

theorem State.traceThread_keeps {s0 : State} (s : State) (c : Cid) (kind t core ctx : Nat) (hK : Keeps s0 s) : Keeps s0 (State.traceThread s c kind t core ctx) := by
  unfold State.traceThread
  try dsimp only
  repeat' (first
    | (with_reducible first | assumption | exact Keeps.refl _ | apply State.trace_keeps | apply Keeps.ite | apply Keeps.foldl | apply Keeps.advance)
    | (with_reducible first | exact Nat.le_refl _ | exact id | exact fun _ h => h | apply swf_sset | apply swf_swrite | apply swf_sstores | apply swf_filter | apply Mem.write_wf | apply Mem.restoreBlock_wf)
    | (intro _; try dsimp only)
    | split
    | with_reducible apply Keeps.upd)

theorem State.clockStop_keeps {s0 : State} (s : State) (unit stop : Nat) (who : Fin 4 → Bool) (hK : Keeps s0 s) : Keeps s0 (State.clockStop s unit stop who) := by
  unfold State.clockStop
  try dsimp only
  repeat' (first
    | (with_reducible first | assumption | exact Keeps.refl _ | apply State.trace_keeps | apply Keeps.ite | apply Keeps.foldl | apply Keeps.advance)
    | (with_reducible first | exact Nat.le_refl _ | exact id | exact fun _ h => h | apply swf_sset | apply swf_swrite | apply swf_sstores | apply swf_filter | apply Mem.write_wf | apply Mem.restoreBlock_wf)
    | (intro _; try dsimp only)
    | split
    | with_reducible apply Keeps.upd)

theorem State.lifeRecord_keeps {s0 : State} (s : State) (kind die : Nat) (body : Bytes) (hK : Keeps s0 s) : Keeps s0 (State.lifeRecord s kind die body) := by
  unfold State.lifeRecord
  try dsimp only
  repeat' (first
    | (with_reducible first | assumption | exact Keeps.refl _ | apply Keeps.ite | apply Keeps.foldl | apply Keeps.advance)
    | (with_reducible first | exact Nat.le_refl _ | exact id | exact fun _ h => h | apply swf_sset | apply swf_swrite | apply swf_sstores | apply swf_filter | apply Mem.write_wf | apply Mem.restoreBlock_wf)
    | (intro _; try dsimp only)
    | split
    | with_reducible apply Keeps.upd)

theorem State.lifeNote_keeps {s0 : State} (s : State) (kind die : Nat) (facts : List Nat) (hK : Keeps s0 s) : Keeps s0 (State.lifeNote s kind die facts) := by
  unfold State.lifeNote
  try dsimp only
  repeat' (first
    | (with_reducible first | assumption | exact Keeps.refl _ | apply State.lifeRecord_keeps | apply Keeps.ite | apply Keeps.foldl | apply Keeps.advance)
    | (with_reducible first | exact Nat.le_refl _ | exact id | exact fun _ h => h | apply swf_sset | apply swf_swrite | apply swf_sstores | apply swf_filter | apply Mem.write_wf | apply Mem.restoreBlock_wf)
    | (intro _; try dsimp only)
    | split
    | with_reducible apply Keeps.upd)

theorem State.statusLine_keeps {s0 : State} (s : State) (p : Fin 4) (hK : Keeps s0 s) : Keeps s0 (State.statusLine s p) := by
  unfold State.statusLine
  try dsimp only
  repeat' (first
    | (with_reducible first | assumption | exact Keeps.refl _ | apply State.hostWrite_keeps | apply Keeps.ite | apply Keeps.foldl | apply Keeps.advance)
    | (with_reducible first | exact Nat.le_refl _ | exact id | exact fun _ h => h | apply swf_sset | apply swf_swrite | apply swf_sstores | apply swf_filter | apply Mem.write_wf | apply Mem.restoreBlock_wf)
    | (intro _; try dsimp only)
    | split
    | with_reducible apply Keeps.upd)

theorem State.healthPart_keeps {s0 : State} (s : State) (p : Fin 4) (b : Bytes) (hK : Keeps s0 s) : Keeps s0 (State.healthPart s p b) := by
  unfold State.healthPart
  try dsimp only
  repeat' (first
    | (with_reducible first | assumption | exact Keeps.refl _ | apply State.hostWrite_keeps | apply State.raiseMsix_keeps | apply State.setPart_keeps | apply State.statusLine_keeps | apply Keeps.ite | apply Keeps.foldl | apply Keeps.advance)
    | (with_reducible first | exact Nat.le_refl _ | exact id | exact fun _ h => h | apply swf_sset | apply swf_swrite | apply swf_sstores | apply swf_filter | apply Mem.write_wf | apply Mem.restoreBlock_wf)
    | (intro _; try dsimp only)
    | split
    | with_reducible apply Keeps.upd)

theorem State.pkgStatusLine_keeps {s0 : State} (s : State) (hK : Keeps s0 s) : Keeps s0 (State.pkgStatusLine s) := by
  unfold State.pkgStatusLine
  try dsimp only
  repeat' (first
    | (with_reducible first | assumption | exact Keeps.refl _ | apply State.hostWrite_keeps | apply Keeps.ite | apply Keeps.foldl | apply Keeps.advance)
    | (with_reducible first | exact Nat.le_refl _ | exact id | exact fun _ h => h | apply swf_sset | apply swf_swrite | apply swf_sstores | apply swf_filter | apply Mem.write_wf | apply Mem.restoreBlock_wf)
    | (intro _; try dsimp only)
    | split
    | with_reducible apply Keeps.upd)

theorem State.healthPkg_keeps {s0 : State} (s : State) (b : Bytes) (hK : Keeps s0 s) : Keeps s0 (State.healthPkg s b) := by
  unfold State.healthPkg
  try dsimp only
  repeat' (first
    | (with_reducible first | assumption | exact Keeps.refl _ | apply State.hostWrite_keeps | apply State.pkgStatusLine_keeps | apply State.raiseMsix_keeps | apply Keeps.ite | apply Keeps.foldl | apply Keeps.advance)
    | (with_reducible first | exact Nat.le_refl _ | exact id | exact fun _ h => h | apply swf_sset | apply swf_swrite | apply swf_sstores | apply swf_filter | apply Mem.write_wf | apply Mem.restoreBlock_wf)
    | (intro _; try dsimp only)
    | split
    | with_reducible apply Keeps.upd)

theorem State.health_keeps {s0 : State} (s : State) (h : Health) (hK : Keeps s0 s) : Keeps s0 (State.health s h) := by
  unfold State.health
  try dsimp only
  repeat' (first
    | (with_reducible first | assumption | exact Keeps.refl _ | apply State.healthPart_keeps | apply State.healthPkg_keeps | apply State.pegMatch_keeps | apply Keeps.ite | apply Keeps.foldl | apply Keeps.advance)
    | (with_reducible first | exact Nat.le_refl _ | exact id | exact fun _ h => h | apply swf_sset | apply swf_swrite | apply swf_sstores | apply swf_filter | apply Mem.write_wf | apply Mem.restoreBlock_wf)
    | (intro _; try dsimp only)
    | split
    | with_reducible apply Keeps.upd)

theorem State.replace_keeps {s0 : State} (s : State) (cause : Nat) (reasons : W32) (hK : Keeps s0 s) : Keeps s0 (State.replace s cause reasons) := by
  unfold State.replace
  try dsimp only
  repeat' (first
    | (with_reducible first | assumption | exact Keeps.refl _ | apply State.health_keeps | apply State.lifeNote_keeps | apply Keeps.ite | apply Keeps.foldl | apply Keeps.advance)
    | (with_reducible first | exact Nat.le_refl _ | exact id | exact fun _ h => h | apply swf_sset | apply swf_swrite | apply swf_sstores | apply swf_filter | apply Mem.write_wf | apply Mem.restoreBlock_wf)
    | (intro _; try dsimp only)
    | split
    | with_reducible apply Keeps.upd)

end Sys2Proof.Machine
end

