-- ==== Sys2Proof/Laws/KeepsArray.lean ====
section
/-! SUPPORT. What the operations of Machine/Array.lean keep (Laws/Keeps.lean). -/

namespace Sys2Proof.Machine

theorem accInit_keeps {s0 : State} (i : Tid) (s : State) (hK : Keeps s0 s) : Keeps s0 (accInit i s) := by
  unfold accInit
  try dsimp only
  repeat' (first
    | (with_reducible first | assumption | exact Keeps.refl _ | apply State.modThread_keeps | apply State.tally_keeps | apply Keeps.ite | apply Keeps.foldl | apply Keeps.advance)
    | (with_reducible first | exact Nat.le_refl _ | exact id | exact fun _ h => h | apply swf_sset | apply swf_swrite | apply swf_sstores | apply swf_filter | apply Mem.write_wf | apply Mem.restoreBlock_wf)
    | (intro _; try dsimp only)
    | split
    | with_reducible apply Keeps.upd)

theorem arrayLoadB_keeps {s0 : State} (i : Tid) (s : State) (hK : Keeps s0 s) : Keeps s0 (arrayLoadB i s) := by
  unfold arrayLoadB
  try dsimp only
  repeat' (first
    | (with_reducible first | assumption | exact Keeps.refl _ | apply State.modThread_keeps | apply State.tally_keeps | apply Keeps.ite | apply Keeps.foldl | apply Keeps.advance)
    | (with_reducible first | exact Nat.le_refl _ | exact id | exact fun _ h => h | apply swf_sset | apply swf_swrite | apply swf_sstores | apply swf_filter | apply Mem.write_wf | apply Mem.restoreBlock_wf)
    | (intro _; try dsimp only)
    | split
    | with_reducible apply Keeps.upd)

theorem arrayMma_keeps {s0 : State} (i : Tid) (s : State) (hK : Keeps s0 s) : Keeps s0 (arrayMma i s) := by
  unfold arrayMma
  try dsimp only
  repeat' (first
    | (with_reducible first | assumption | exact Keeps.refl _ | apply State.modThread_keeps | apply State.note_keeps | apply State.tally_keeps | apply State.threadEvent_keeps | apply Keeps.ite | apply Keeps.foldl | apply Keeps.advance)
    | (with_reducible first | exact Nat.le_refl _ | exact id | exact fun _ h => h | apply swf_sset | apply swf_swrite | apply swf_sstores | apply swf_filter | apply Mem.write_wf | apply Mem.restoreBlock_wf)
    | (intro _; try dsimp only)
    | split
    | with_reducible apply Keeps.upd)

end Sys2Proof.Machine
end

