-- ==== Sys2Proof/Laws/KeepsFlow.lean ====
section
/-! SUPPORT. What the operations of Machine/Flow.lean keep (Laws/Keeps.lean). -/

namespace Sys2Proof.Machine

theorem State.setFlowEntry_keeps {s0 : State} (s : State) (p : Fin 4) (off v : Nat) (hK : Keeps s0 s) : Keeps s0 (State.setFlowEntry s p off v) := by
  unfold State.setFlowEntry
  try dsimp only
  repeat' (first
    | (with_reducible first | assumption | exact Keeps.refl _ | apply State.writeOutside_keeps | apply Keeps.ite | apply Keeps.foldl | apply Keeps.advance)
    | (with_reducible first | exact Nat.le_refl _ | exact id | exact fun _ h => h | apply swf_sset | apply swf_swrite | apply swf_sstores | apply swf_filter | apply Mem.write_wf | apply Mem.restoreBlock_wf)
    | (intro _; try dsimp only)
    | split
    | with_reducible apply Keeps.upd)

theorem State.failCmd_keeps {s0 : State} (s : State) (c : Cid) (st : Status) (hK : Keeps s0 s) : Keeps s0 (State.failCmd s c st) := by
  unfold State.failCmd
  try dsimp only
  repeat' (first
    | (with_reducible first | assumption | exact Keeps.refl _ | apply State.executed_keeps | apply State.modEntry_keeps | apply State.modPart_keeps | apply sweep_keeps | apply Keeps.ite | apply Keeps.foldl | apply Keeps.advance)
    | (with_reducible first | exact Nat.le_refl _ | exact id | exact fun _ h => h | apply swf_sset | apply swf_swrite | apply swf_sstores | apply swf_filter | apply Mem.write_wf | apply Mem.restoreBlock_wf)
    | (intro _; try dsimp only)
    | split
    | with_reducible apply Keeps.upd)

theorem State.failSend_keeps {s0 : State} (s : State) (c : Option Cid) (st : Status) (hK : Keeps s0 s) : Keeps s0 (State.failSend s c st) := by
  unfold State.failSend
  try dsimp only
  repeat' (first
    | (with_reducible first | assumption | exact Keeps.refl _ | apply State.failCmd_keeps | apply State.modEntry_keeps | apply Keeps.ite | apply Keeps.foldl | apply Keeps.advance)
    | (with_reducible first | exact Nat.le_refl _ | exact id | exact fun _ h => h | apply swf_sset | apply swf_swrite | apply swf_sstores | apply swf_filter | apply Mem.write_wf | apply Mem.restoreBlock_wf)
    | (intro _; try dsimp only)
    | split
    | with_reducible apply Keeps.upd)

theorem State.depart_keeps {s0 : State} (s : State) (pkt : Packet) (w : Way) (hK : Keeps s0 s) : Keeps s0 (State.depart s pkt w) := by
  unfold State.depart
  split
  · exact Keeps.ite (fun _ => hK.upd (Nat.le_refl _) id id (Nat.le_refl _) fun _ h => h) (fun _ => State.transmit_keeps _ _ _ hK)
  · exact hK

theorem State.offer_keeps {s0 : State} (s : State) (h : Held) (hK : Keeps s0 s) : Keeps s0 (State.offer s h) := by
  unfold State.offer
  extract_lets wait
  have hw : Keeps s0 (wait s) := hK.upd (Nat.le_refl _) id id (Nat.le_refl _) fun _ h => h
  clear_value wait
  split
  · split
    · exact hw
    · exact State.depart_keeps _ _ _ hK
  · refine Keeps.ite (fun _ => State.failSend_keeps _ _ _ hK) (fun _ => Keeps.ite (fun _ => hw) (fun _ => ?_))
    split
    · exact hw
    · exact State.depart_keeps _ _ _ (State.modPart_keeps _ _ _ (State.setFlowEntry_keeps _ _ _ _ hK))


theorem State.inject_keeps {s0 : State} (s : State) (pkt : Packet) (hK : Keeps s0 s) : Keeps s0 (State.inject s pkt) := by
  unfold State.inject
  try dsimp only
  repeat' (first
    | (with_reducible first | assumption | exact Keeps.refl _ | apply State.offer_keeps | apply Keeps.ite | apply Keeps.foldl | apply Keeps.advance)
    | (with_reducible first | exact Nat.le_refl _ | exact id | exact fun _ h => h | apply swf_sset | apply swf_swrite | apply swf_sstores | apply swf_filter | apply Mem.write_wf | apply Mem.restoreBlock_wf)
    | (intro _; try dsimp only)
    | split
    | with_reducible apply Keeps.upd)

theorem State.releaseHeld_keeps {s0 : State} (s : State) (hK : Keeps s0 s) : Keeps s0 (State.releaseHeld s) := by
  unfold State.releaseHeld
  try dsimp only
  repeat' (first
    | (with_reducible first | assumption | exact Keeps.refl _ | apply State.offer_keeps | apply Keeps.ite | apply Keeps.foldl | apply Keeps.advance)
    | (with_reducible first | exact Nat.le_refl _ | exact id | exact fun _ h => h | apply swf_sset | apply swf_swrite | apply swf_sstores | apply swf_filter | apply Mem.write_wf | apply Mem.restoreBlock_wf)
    | (intro _; try dsimp only)
    | split
    | with_reducible apply Keeps.upd)

theorem State.sendFlow_keeps {s0 : State} (s : State) (p : Fin 4) (cmd : Option Cid) (epoch flow : Nat) (pkt : Packet) (hK : Keeps s0 s) : Keeps s0 (State.sendFlow s p cmd epoch flow pkt) := by
  unfold State.sendFlow
  try dsimp only
  repeat' (first
    | (with_reducible first | assumption | exact Keeps.refl _ | apply State.offer_keeps | apply Keeps.ite | apply Keeps.foldl | apply Keeps.advance)
    | (with_reducible first | exact Nat.le_refl _ | exact id | exact fun _ h => h | apply swf_sset | apply swf_swrite | apply swf_sstores | apply swf_filter | apply Mem.write_wf | apply Mem.restoreBlock_wf)
    | (intro _; try dsimp only)
    | split
    | with_reducible apply Keeps.upd)

theorem State.sendAddressed_keeps {s0 : State} (s : State) (p : Fin 4) (cmd : Option Cid) (epoch kind dest vc window offset aux : Nat) (payload : Bytes) (hK : Keeps s0 s) : Keeps s0 (State.sendAddressed s p cmd epoch kind dest vc window offset aux payload) := by
  unfold State.sendAddressed
  try dsimp only
  repeat' (first
    | (with_reducible first | assumption | exact Keeps.refl _ | apply State.sendFlow_keeps | apply Keeps.ite | apply Keeps.foldl | apply Keeps.advance)
    | (with_reducible first | exact Nat.le_refl _ | exact id | exact fun _ h => h | apply swf_sset | apply swf_swrite | apply swf_sstores | apply swf_filter | apply Mem.write_wf | apply Mem.restoreBlock_wf)
    | (intro _; try dsimp only)
    | split
    | with_reducible apply Keeps.upd)

theorem State.sendCircuit_keeps {s0 : State} (s : State) (p : Fin 4) (cmd : Option Cid) (epoch kind cid offset : Nat) (payload : Bytes) (hK : Keeps s0 s) : Keeps s0 (State.sendCircuit s p cmd epoch kind cid offset payload) := by
  unfold State.sendCircuit
  try dsimp only
  repeat' (first
    | (with_reducible first | assumption | exact Keeps.refl _ | apply State.sendFlow_keeps | apply Keeps.ite | apply Keeps.foldl | apply Keeps.advance)
    | (with_reducible first | exact Nat.le_refl _ | exact id | exact fun _ h => h | apply swf_sset | apply swf_swrite | apply swf_sstores | apply swf_filter | apply Mem.write_wf | apply Mem.restoreBlock_wf)
    | (intro _; try dsimp only)
    | split
    | with_reducible apply Keeps.upd)

theorem State.sendWrites_keeps {s0 : State} (s : State) (p : Fin 4) (cmd : Option Cid) (epoch dest vc window off : Nat) (b : Bytes) (hK : Keeps s0 s) : Keeps s0 (State.sendWrites s p cmd epoch dest vc window off b) := by
  unfold State.sendWrites
  try dsimp only
  repeat' (first
    | (with_reducible first | assumption | exact Keeps.refl _ | apply State.sendAddressed_keeps | apply Keeps.ite | apply Keeps.foldl | apply Keeps.advance)
    | (with_reducible first | exact Nat.le_refl _ | exact id | exact fun _ h => h | apply swf_sset | apply swf_swrite | apply swf_sstores | apply swf_filter | apply Mem.write_wf | apply Mem.restoreBlock_wf)
    | (intro _; try dsimp only)
    | split
    | with_reducible apply Keeps.upd)

theorem State.sendSignal_keeps {s0 : State} (s : State) (p : Fin 4) (epoch endpoint counter : Nat) (v : W32) (hK : Keeps s0 s) : Keeps s0 (State.sendSignal s p epoch endpoint counter v) := by
  unfold State.sendSignal
  try dsimp only
  repeat' (first
    | (with_reducible first | assumption | exact Keeps.refl _ | apply State.sendAddressed_keeps | apply Keeps.ite | apply Keeps.foldl | apply Keeps.advance)
    | (with_reducible first | exact Nat.le_refl _ | exact id | exact fun _ h => h | apply swf_sset | apply swf_swrite | apply swf_sstores | apply swf_filter | apply Mem.write_wf | apply Mem.restoreBlock_wf)
    | (intro _; try dsimp only)
    | split
    | with_reducible apply Keeps.upd)

theorem State.sendsBegin_keeps {s0 : State} (s : State) (p : Fin 4) (hK : Keeps s0 s) : Keeps s0 (State.sendsBegin s p) := by
  unfold State.sendsBegin
  try dsimp only
  repeat' (first
    | (with_reducible first | assumption | exact Keeps.refl _ | apply State.modPart_keeps | apply Keeps.ite | apply Keeps.foldl | apply Keeps.advance)
    | (with_reducible first | exact Nat.le_refl _ | exact id | exact fun _ h => h | apply swf_sset | apply swf_swrite | apply swf_sstores | apply swf_filter | apply Mem.write_wf | apply Mem.restoreBlock_wf)
    | (intro _; try dsimp only)
    | split
    | with_reducible apply Keeps.upd)

theorem State.firstCut_keeps {s0 : State} (s : State) (p : Fin 4) (hK : Keeps s0 s) : Keeps s0 (State.firstCut s p) := by
  unfold State.firstCut
  try dsimp only
  repeat' (first
    | (with_reducible first | assumption | exact Keeps.refl _ | apply State.modPart_keeps | apply Keeps.ite | apply Keeps.foldl | apply Keeps.advance)
    | (with_reducible first | exact Nat.le_refl _ | exact id | exact fun _ h => h | apply swf_sset | apply swf_swrite | apply swf_sstores | apply swf_filter | apply Mem.write_wf | apply Mem.restoreBlock_wf)
    | (intro _; try dsimp only)
    | split
    | with_reducible apply Keeps.upd)

end Sys2Proof.Machine
end

