-- ==== Sys2Proof/Laws/KeepsCommand.lean ====
section
/-! SUPPORT. What the operations of Machine/Command.lean keep (Laws/Keeps.lean). -/

namespace Sys2Proof.Machine

/-- A row of a fixed-function engine keeps what its run keeps. -/
theorem State.engineRow_keeps {s0 : State} (s : State) (p : Fin 4) (q : Nat) (eng : Engine) (ready : Entry → Bool) (run : State → State)
    (hrun : ∀ t, Keeps s0 t → Keeps s0 (run t)) (hK : Keeps s0 s) : Keeps s0 (State.engineRow s p q eng ready run) := by
  unfold State.engineRow
  dsimp only
  repeat' (first
    | assumption
    | (with_reducible first | apply hrun | apply State.modPart_keeps | apply Keeps.ite)
    | intro _
    | split)


theorem State.stayBusy_keeps {s0 : State} (s : State) (p : Fin 4) (hK : Keeps s0 s) : Keeps s0 (State.stayBusy s p) := by
  unfold State.stayBusy
  try dsimp only
  repeat' (first
    | (with_reducible first | assumption | exact Keeps.refl _ | apply State.modPart_keeps | apply Keeps.ite | apply Keeps.foldl | apply Keeps.advance)
    | (with_reducible first | exact Nat.le_refl _ | exact id | exact fun _ h => h | apply swf_sset | apply swf_swrite | apply swf_sstores | apply swf_filter | apply Mem.write_wf | apply Mem.restoreBlock_wf)
    | (intro _; try dsimp only)
    | split
    | with_reducible apply Keeps.upd)

theorem State.boundary_keeps {s0 : State} (s : State) (p : Fin 4) (hK : Keeps s0 s) : Keeps s0 (State.boundary s p) := by
  unfold State.boundary
  try dsimp only
  repeat' (first
    | (with_reducible first | assumption | exact Keeps.refl _ | apply State.modPart_keeps | apply Keeps.ite | apply Keeps.foldl | apply Keeps.advance)
    | (with_reducible first | exact Nat.le_refl _ | exact id | exact fun _ h => h | apply swf_sset | apply swf_swrite | apply swf_sstores | apply swf_filter | apply Mem.write_wf | apply Mem.restoreBlock_wf)
    | (intro _; try dsimp only)
    | split
    | with_reducible apply Keeps.upd)

theorem State.finishWith_keeps {s0 : State} (s : State) (c : Cid) (f : Entry → Entry) (hK : Keeps s0 s) : Keeps s0 (State.finishWith s c f) := by
  unfold State.finishWith
  try dsimp only
  repeat' (first
    | (with_reducible first | assumption | exact Keeps.refl _ | apply State.boundary_keeps | apply State.modEntry_keeps | apply State.modPart_keeps | apply State.stayBusy_keeps | apply Keeps.ite | apply Keeps.foldl | apply Keeps.advance)
    | (with_reducible first | exact Nat.le_refl _ | exact id | exact fun _ h => h | apply swf_sset | apply swf_swrite | apply swf_sstores | apply swf_filter | apply Mem.write_wf | apply Mem.restoreBlock_wf)
    | (intro _; try dsimp only)
    | split
    | with_reducible apply Keeps.upd)

theorem State.applySignal_keeps {s0 : State} (s : State) (c : Cid) (cmd : Bytes) (hK : Keeps s0 s) : Keeps s0 (State.applySignal s c cmd) := by
  unfold State.applySignal
  try dsimp only
  repeat' (first
    | (with_reducible first | assumption | exact Keeps.refl _ | apply State.modEntry_keeps | apply State.setPart_keeps | apply signal_keeps | apply Keeps.ite | apply Keeps.foldl | apply Keeps.advance)
    | (with_reducible first | exact Nat.le_refl _ | exact id | exact fun _ h => h | apply swf_sset | apply swf_swrite | apply swf_sstores | apply swf_filter | apply Mem.write_wf | apply Mem.restoreBlock_wf)
    | (intro _; try dsimp only)
    | split
    | with_reducible apply Keeps.upd)

theorem State.refuse_keeps {s0 : State} (s : State) (c : Cid) (st : Status) (hK : Keeps s0 s) : Keeps s0 (State.refuse s c st) := by
  unfold State.refuse
  try dsimp only
  repeat' (first
    | (with_reducible first | assumption | exact Keeps.refl _ | apply State.accepted_keeps | apply State.applySignal_keeps | apply State.finishWith_keeps | apply State.modEntry_keeps | apply Keeps.ite | apply Keeps.foldl | apply Keeps.advance)
    | (with_reducible first | exact Nat.le_refl _ | exact id | exact fun _ h => h | apply swf_sset | apply swf_swrite | apply swf_sstores | apply swf_filter | apply Mem.write_wf | apply Mem.restoreBlock_wf)
    | (intro _; try dsimp only)
    | split
    | with_reducible apply Keeps.upd)

/-- A command row keeps what its run keeps. -/
theorem State.acceptHead_keeps {s0 : State} (s : State) (p : Fin 4) (q kind : Nat) (run : Cid → Entry → State)
    (hrun : ∀ c e, Keeps s0 (run c e)) (hK : Keeps s0 s) : Keeps s0 (State.acceptHead s p q kind run) := by
  unfold State.acceptHead
  dsimp only
  split
  · exact hK
  · refine Keeps.ite (fun _ => hK) (fun _ => Keeps.ite (fun _ => hK) (fun _ => Keeps.ite (fun _ => hK) (fun _ =>
      Keeps.ite (fun _ => State.refuse_keeps _ _ _ hK) (fun _ => Keeps.ite (fun _ => hrun _ _) (fun _ =>
      Keeps.ite (fun _ => State.refuse_keeps _ _ _ hK) (fun _ => hrun _ _))))))


theorem State.accepted_keeps {s0 : State} (s : State) (c : Cid) (xs : List Xlat) (rs : List Rng) (hK : Keeps s0 s) : Keeps s0 (State.accepted s c xs rs) := by
  unfold State.accepted
  try dsimp only
  repeat' (first
    | (with_reducible first | assumption | exact Keeps.refl _ | apply State.cacheXlats_keeps | apply State.markReads_keeps | apply State.modEntry_keeps | apply Keeps.ite | apply Keeps.foldl | apply Keeps.advance)
    | (with_reducible first | exact Nat.le_refl _ | exact id | exact fun _ h => h | apply swf_sset | apply swf_swrite | apply swf_sstores | apply swf_filter | apply Mem.write_wf | apply Mem.restoreBlock_wf)
    | (intro _; try dsimp only)
    | split
    | with_reducible apply Keeps.upd)

theorem State.begin_keeps {s0 : State} (s : State) (c : Cid) (hK : Keeps s0 s) : Keeps s0 (State.begin s c) := by
  unfold State.begin
  try dsimp only
  repeat' (first
    | (with_reducible first | assumption | exact Keeps.refl _ | apply State.boundary_keeps | apply State.modEntry_keeps | apply State.stayBusy_keeps | apply State.traceCmd_keeps | apply Keeps.ite | apply Keeps.foldl | apply Keeps.advance)
    | (with_reducible first | exact Nat.le_refl _ | exact id | exact fun _ h => h | apply swf_sset | apply swf_swrite | apply swf_sstores | apply swf_filter | apply Mem.write_wf | apply Mem.restoreBlock_wf)
    | (intro _; try dsimp only)
    | split
    | with_reducible apply Keeps.upd)

theorem State.executed_keeps {s0 : State} (s : State) (c : Cid) (f : Entry → Entry) (hK : Keeps s0 s) : Keeps s0 (State.executed s c f) := by
  unfold State.executed
  try dsimp only
  repeat' (first
    | (with_reducible first | assumption | exact Keeps.refl _ | apply State.modEntry_keeps | apply Keeps.ite | apply Keeps.foldl | apply Keeps.advance)
    | (with_reducible first | exact Nat.le_refl _ | exact id | exact fun _ h => h | apply swf_sset | apply swf_swrite | apply swf_sstores | apply swf_filter | apply Mem.write_wf | apply Mem.restoreBlock_wf)
    | (intro _; try dsimp only)
    | split
    | with_reducible apply Keeps.upd)

theorem State.stallCmd_keeps {s0 : State} (s : State) (c : Cid) (hK : Keeps s0 s) : Keeps s0 (State.stallCmd s c) := by
  unfold State.stallCmd
  try dsimp only
  repeat' (first
    | (with_reducible first | assumption | exact Keeps.refl _ | apply State.modPart_keeps | apply Keeps.ite | apply Keeps.foldl | apply Keeps.advance)
    | (with_reducible first | exact Nat.le_refl _ | exact id | exact fun _ h => h | apply swf_sset | apply swf_swrite | apply swf_sstores | apply swf_filter | apply Mem.write_wf | apply Mem.restoreBlock_wf)
    | (intro _; try dsimp only)
    | split
    | with_reducible apply Keeps.upd)

theorem State.engineWrite_keeps {s0 : State} (s : State) (c : Cid) (w : Writer) (xs : List Xlat) (ws : List (Bool × Nat × Bytes))
    (hK : Keeps s0 s) : Keeps s0 (State.engineWrite s c w xs ws) := by
  unfold State.engineWrite
  split
  · exact hK
  · refine Keeps.ite (fun _ => State.modEntry_keeps _ _ _ hK) (fun _ => Keeps.ite (fun _ => State.writeDue_keeps _ _ _ _ hK) (fun _ => ?_))
    exact State.stallCmd_keeps _ _ (State.modEntry_keeps _ _ _ (State.writeUntil_keeps _ _ _ _ hK))


theorem State.engineResume_keeps {s0 : State} (s : State) (c : Cid) (w : Writer) (xs : List Xlat) (owed : List (Bool × Nat × Bytes)) (hK : Keeps s0 s) : Keeps s0 (State.engineResume s c w xs owed) := by
  unfold State.engineResume
  try dsimp only
  repeat' (first
    | (with_reducible first | assumption | exact Keeps.refl _ | apply State.engineWrite_keeps | apply State.modEntry_keeps | apply Keeps.ite | apply Keeps.foldl | apply Keeps.advance)
    | (with_reducible first | exact Nat.le_refl _ | exact id | exact fun _ h => h | apply swf_sset | apply swf_swrite | apply swf_sstores | apply swf_filter | apply Mem.write_wf | apply Mem.restoreBlock_wf)
    | (intro _; try dsimp only)
    | split
    | with_reducible apply Keeps.upd)

theorem State.stopQueue_keeps {s0 : State} (s : State) (c : Cid) (hK : Keeps s0 s) : Keeps s0 (State.stopQueue s c) := by
  unfold State.stopQueue
  try dsimp only
  repeat' (first
    | (with_reducible first | assumption | exact Keeps.refl _ | apply State.halt_keeps | apply State.modEntry_keeps | apply State.modQueue_keeps | apply Keeps.ite | apply Keeps.foldl | apply Keeps.advance)
    | (with_reducible first | exact Nat.le_refl _ | exact id | exact fun _ h => h | apply swf_sset | apply swf_swrite | apply swf_sstores | apply swf_filter | apply Mem.write_wf | apply Mem.restoreBlock_wf)
    | (intro _; try dsimp only)
    | split
    | with_reducible apply Keeps.upd)

theorem State.escalate_keeps {s0 : State} (s : State) (c : Cid) (sector va : Nat) (hK : Keeps s0 s) : Keeps s0 (State.escalate s c sector va) := by
  unfold State.escalate
  try dsimp only
  repeat' (first
    | (with_reducible first | assumption | exact Keeps.refl _ | apply State.failCmd_keeps | apply State.health_keeps | apply State.stopQueue_keeps | apply Keeps.ite | apply Keeps.foldl | apply Keeps.advance)
    | (with_reducible first | exact Nat.le_refl _ | exact id | exact fun _ h => h | apply swf_sset | apply swf_swrite | apply swf_sstores | apply swf_filter | apply Mem.write_wf | apply Mem.restoreBlock_wf)
    | (intro _; try dsimp only)
    | split
    | with_reducible apply Keeps.upd)

theorem State.refusePoisoned_keeps {s0 : State} (s : State) (c : Cid) (sector va : Nat) (hK : Keeps s0 s) : Keeps s0 (State.refusePoisoned s c sector va) := by
  unfold State.refusePoisoned
  try dsimp only
  repeat' (first
    | (with_reducible first | assumption | exact Keeps.refl _ | apply State.health_keeps | apply State.refuse_keeps | apply State.stopQueue_keeps | apply Keeps.ite | apply Keeps.foldl | apply Keeps.advance)
    | (with_reducible first | exact Nat.le_refl _ | exact id | exact fun _ h => h | apply swf_sset | apply swf_swrite | apply swf_sstores | apply swf_filter | apply Mem.write_wf | apply Mem.restoreBlock_wf)
    | (intro _; try dsimp only)
    | split
    | with_reducible apply Keeps.upd)

/-- A command that starts at its acceptance keeps what its execution keeps. -/
theorem State.commandRow_keeps {s0 : State} (s : State) (p : Fin 4) (q kind : Nat)
    (check : Entry → Except Status (List Xlat × List Rng)) (exec : Cid → Entry → State → State)
    (hexec : ∀ c e t, Keeps s0 t → Keeps s0 (exec c e t)) (hK : Keeps s0 s) :
    Keeps s0 (State.commandRow s p q kind check exec) := by
  unfold State.commandRow
  refine State.acceptHead_keeps _ _ _ _ _ (fun c e => ?_) hK
  refine Keeps.ite (fun _ => hexec _ _ _ (State.begin_keeps _ _ hK)) (fun _ => ?_)
  split
  · exact State.refuse_keeps _ _ _ hK
  · split
    · exact State.refusePoisoned_keeps _ _ _ _ hK
    · exact hexec _ _ _ (State.begin_keeps _ _ (State.accepted_keeps _ _ _ _ hK))


theorem State.dropParted_keeps {s0 : State} (s : State) (p : Fin 4) (q : Nat) (hK : Keeps s0 s) : Keeps s0 (State.dropParted s p q) := by
  unfold State.dropParted
  try dsimp only
  repeat' (first
    | (with_reducible first | assumption | exact Keeps.refl _ | apply Keeps.ite | apply Keeps.foldl | apply Keeps.advance)
    | (with_reducible first | exact Nat.le_refl _ | exact id | exact fun _ h => h | apply swf_sset | apply swf_swrite | apply swf_sstores | apply swf_filter | apply Mem.write_wf | apply Mem.restoreBlock_wf)
    | (intro _; try dsimp only)
    | split
    | with_reducible apply Keeps.upd)

theorem State.scEndAll_keeps {s0 : State} (s : State) (c : Cid) (e : Entry) (hK : Keeps s0 s) : Keeps s0 (State.scEndAll s c e) := by
  unfold State.scEndAll
  try dsimp only
  repeat' (first
    | (with_reducible first | assumption | exact Keeps.refl _ | apply State.engineWrite_keeps | apply Keeps.ite | apply Keeps.foldl | apply Keeps.advance)
    | (with_reducible first | exact Nat.le_refl _ | exact id | exact fun _ h => h | apply swf_sset | apply swf_swrite | apply swf_sstores | apply swf_filter | apply Mem.write_wf | apply Mem.restoreBlock_wf)
    | (intro _; try dsimp only)
    | split
    | with_reducible apply Keeps.upd)

end Sys2Proof.Machine
end

