-- ==== Sys2Proof/Laws/KeepsCopy.lean ====
section
/-! SUPPORT. What the operations of Machine/Copy.lean keep (Laws/Keeps.lean). -/

namespace Sys2Proof.Machine

theorem State.countIndexed_keeps {s0 : State} (s : State) (xs : List Xlat) (h : Shape) (rows : List Int) (hK : Keeps s0 s) : Keeps s0 (State.countIndexed s xs h rows) := by
  unfold State.countIndexed
  try dsimp only
  repeat' (first
    | (with_reducible first | assumption | exact Keeps.refl _ | apply State.tally_keeps | apply Keeps.ite | apply Keeps.foldl | apply Keeps.advance)
    | (with_reducible first | exact Nat.le_refl _ | exact id | exact fun _ h => h | apply swf_sset | apply swf_swrite | apply swf_sstores | apply swf_filter | apply Mem.write_wf | apply Mem.restoreBlock_wf)
    | (intro _; try dsimp only)
    | split
    | with_reducible apply Keeps.upd)

theorem State.copySends_keeps {s0 : State} (s : State) (c : Cid) (e : Entry) (l : List (Int × Bytes)) (hK : Keeps s0 s) : Keeps s0 (State.copySends s c e l) := by
  unfold State.copySends
  try dsimp only
  repeat' (first
    | (with_reducible first | assumption | exact Keeps.refl _ | apply State.sendWrites_keeps | apply Keeps.ite | apply Keeps.foldl | apply Keeps.advance)
    | (with_reducible first | exact Nat.le_refl _ | exact id | exact fun _ h => h | apply swf_sset | apply swf_swrite | apply swf_sstores | apply swf_filter | apply Mem.write_wf | apply Mem.restoreBlock_wf)
    | (intro _; try dsimp only)
    | split
    | with_reducible apply Keeps.upd)

theorem State.copyEnd_keeps {s0 : State} (s : State) (c : Cid) (hK : Keeps s0 s) : Keeps s0 (State.copyEnd s c) := by
  unfold State.copyEnd
  try dsimp only
  repeat' (first
    | (with_reducible first | assumption | exact Keeps.refl _ | apply State.executed_keeps | apply Keeps.ite | apply Keeps.foldl | apply Keeps.advance)
    | (with_reducible first | exact Nat.le_refl _ | exact id | exact fun _ h => h | apply swf_sset | apply swf_swrite | apply swf_sstores | apply swf_filter | apply Mem.write_wf | apply Mem.restoreBlock_wf)
    | (intro _; try dsimp only)
    | split
    | with_reducible apply Keeps.upd)

theorem State.copyRun_keeps {s0 : State} (s : State) (c : Cid) (e : Entry) (hK : Keeps s0 s) : Keeps s0 (State.copyRun s c e) := by
  unfold State.copyRun
  try dsimp only
  repeat' (first
    | (with_reducible first | assumption | exact Keeps.refl _ | apply State.copyEnd_keeps | apply State.copySends_keeps | apply State.countIndexed_keeps | apply State.engineWrite_keeps | apply State.escalate_keeps | apply State.failCmd_keeps | apply State.modEntry_keeps | apply Keeps.ite | apply Keeps.foldl | apply Keeps.advance)
    | (with_reducible first | exact Nat.le_refl _ | exact id | exact fun _ h => h | apply swf_sset | apply swf_swrite | apply swf_sstores | apply swf_filter | apply Mem.write_wf | apply Mem.restoreBlock_wf)
    | (intro _; try dsimp only)
    | split
    | with_reducible apply Keeps.upd)

theorem copy_keeps {s0 : State} (p : Fin 4) (q : Nat) (s : State) (hK : Keeps s0 s) : Keeps s0 (copy p q s) := by
  unfold copy
  try dsimp only
  repeat' (first
    | (with_reducible first | assumption | exact Keeps.refl _ | apply State.commandRow_keeps | apply State.copyRun_keeps | apply State.engineRow_keeps | apply Keeps.ite | apply Keeps.foldl | apply Keeps.advance)
    | (with_reducible first | exact Nat.le_refl _ | exact id | exact fun _ h => h | apply swf_sset | apply swf_swrite | apply swf_sstores | apply swf_filter | apply Mem.write_wf | apply Mem.restoreBlock_wf)
    | (intro _; try dsimp only)
    | split
    | with_reducible apply Keeps.upd)

theorem State.copyPart_keeps {s0 : State} (s : State) (c : Cid) (e : Entry) (hK : Keeps s0 s) : Keeps s0 (State.copyPart s c e) := by
  unfold State.copyPart
  try dsimp only
  repeat' (first
    | (with_reducible first | assumption | exact Keeps.refl _ | apply State.copySends_keeps | apply State.writeUntil_keeps | apply Keeps.ite | apply Keeps.foldl | apply Keeps.advance)
    | (with_reducible first | exact Nat.le_refl _ | exact id | exact fun _ h => h | apply swf_sset | apply swf_swrite | apply swf_sstores | apply swf_filter | apply Mem.write_wf | apply Mem.restoreBlock_wf)
    | (intro _; try dsimp only)
    | split
    | with_reducible apply Keeps.upd)

theorem hostRequestError_keeps {s0 : State} (c : Cid) (s : State) (hK : Keeps s0 s) : Keeps s0 (hostRequestError c s) := by
  unfold hostRequestError
  try dsimp only
  repeat' (first
    | (with_reducible first | assumption | exact Keeps.refl _ | apply State.aer_keeps | apply State.copyPart_keeps | apply State.failCmd_keeps | apply Keeps.ite | apply Keeps.foldl | apply Keeps.advance)
    | (with_reducible first | exact Nat.le_refl _ | exact id | exact fun _ h => h | apply swf_sset | apply swf_swrite | apply swf_sstores | apply swf_filter | apply Mem.write_wf | apply Mem.restoreBlock_wf)
    | (intro _; try dsimp only)
    | split
    | with_reducible apply Keeps.upd)

theorem State.countTile_keeps {s0 : State} (s : State) (x : Running) (hK : Keeps s0 s) : Keeps s0 (State.countTile s x) := by
  unfold State.countTile
  try dsimp only
  repeat' (first
    | (with_reducible first | assumption | exact Keeps.refl _ | apply State.countIndexed_keeps | apply Keeps.ite | apply Keeps.foldl | apply Keeps.advance)
    | (with_reducible first | exact Nat.le_refl _ | exact id | exact fun _ h => h | apply swf_sset | apply swf_swrite | apply swf_sstores | apply swf_filter | apply Mem.write_wf | apply Mem.restoreBlock_wf)
    | (intro _; try dsimp only)
    | split
    | with_reducible apply Keeps.upd)

theorem copyIn_keeps {s0 : State} (i : Tid) (s : State) (hK : Keeps s0 s) : Keeps s0 (copyIn i s) := by
  unfold copyIn
  try dsimp only
  repeat' (first
    | (with_reducible first | assumption | exact Keeps.refl _ | apply State.coreEvent_keeps | apply State.countTile_keeps | apply State.escalate_keeps | apply State.modThread_keeps | apply State.tally_keeps | apply State.threadEvent_keeps | apply Keeps.ite | apply Keeps.foldl | apply Keeps.advance)
    | (with_reducible first | exact Nat.le_refl _ | exact id | exact fun _ h => h | apply swf_sset | apply swf_swrite | apply swf_sstores | apply swf_filter | apply Mem.write_wf | apply Mem.restoreBlock_wf)
    | (intro _; try dsimp only)
    | split
    | with_reducible apply Keeps.upd)

theorem State.retain_keeps {s0 : State} (s : State) (i : Tid) (x : Running) (m : Moves) (hK : Keeps s0 s) : Keeps s0 (State.retain s i x m) := by
  unfold State.retain
  try dsimp only
  repeat' (first
    | (with_reducible first | assumption | exact Keeps.refl _ | apply Keeps.ite | apply Keeps.foldl | apply Keeps.advance)
    | (with_reducible first | exact Nat.le_refl _ | exact id | exact fun _ h => h | apply swf_sset | apply swf_swrite | apply swf_sstores | apply swf_filter | apply Mem.write_wf | apply Mem.restoreBlock_wf)
    | (intro _; try dsimp only)
    | split
    | with_reducible apply Keeps.upd)

theorem State.copyOutBegin_keeps {s0 : State} (s : State) (i : Tid) (x : Running) (hK : Keeps s0 s) : Keeps s0 (State.copyOutBegin s i x) := by
  unfold State.copyOutBegin
  try dsimp only
  repeat' (first
    | (with_reducible first | assumption | exact Keeps.refl _ | apply State.countTile_keeps | apply State.retain_keeps | apply Keeps.ite | apply Keeps.foldl | apply Keeps.advance)
    | (with_reducible first | exact Nat.le_refl _ | exact id | exact fun _ h => h | apply swf_sset | apply swf_swrite | apply swf_sstores | apply swf_filter | apply Mem.write_wf | apply Mem.restoreBlock_wf)
    | (intro _; try dsimp only)
    | split
    | with_reducible apply Keeps.upd)

theorem copyOut_keeps {s0 : State} (i : Tid) (s : State) (hK : Keeps s0 s) : Keeps s0 (copyOut i s) := by
  unfold copyOut
  try dsimp only
  repeat' (first
    | (with_reducible first | assumption | exact Keeps.refl _ | apply State.copyOutBegin_keeps | apply State.coreEvent_keeps | apply State.escalate_keeps | apply State.modPart_keeps | apply State.modThread_keeps | apply State.tally_keeps | apply State.writeUntil_keeps | apply State.writeVa_keeps | apply Keeps.ite | apply Keeps.foldl | apply Keeps.advance)
    | (with_reducible first | exact Nat.le_refl _ | exact id | exact fun _ h => h | apply swf_sset | apply swf_swrite | apply swf_sstores | apply swf_filter | apply Mem.write_wf | apply Mem.restoreBlock_wf)
    | (intro _; try dsimp only)
    | split
    | with_reducible apply Keeps.upd)

theorem copyMesh_keeps {s0 : State} (i : Tid) (s : State) (hK : Keeps s0 s) : Keeps s0 (copyMesh i s) := by
  unfold copyMesh
  try dsimp only
  repeat' (first
    | (with_reducible first | assumption | exact Keeps.refl _ | apply State.modThread_keeps | apply State.tally_keeps | apply State.threadEvent_keeps | apply Keeps.ite | apply Keeps.foldl | apply Keeps.advance)
    | (with_reducible first | exact Nat.le_refl _ | exact id | exact fun _ h => h | apply swf_sset | apply swf_swrite | apply swf_sstores | apply swf_filter | apply Mem.write_wf | apply Mem.restoreBlock_wf)
    | (intro _; try dsimp only)
    | split
    | with_reducible apply Keeps.upd)

end Sys2Proof.Machine
end

