-- ==== Sys2Proof/Laws/KeepsFinish.lean ====
section
/-! SUPPORT. What the operations of Machine/Finish.lean keep (Laws/Keeps.lean). -/

namespace Sys2Proof.Machine

theorem State.finishRest_keeps {s0 : State} (s : State) (c : Cid) (hK : Keeps s0 s) : Keeps s0 (State.finishRest s c) := by
  unfold State.finishRest
  try dsimp only
  repeat' (first
    | (with_reducible first | assumption | exact Keeps.refl _ | apply State.applySignal_keeps | apply State.finishWith_keeps | apply State.modEntry_keeps | apply State.modPart_keeps | apply State.modQueue_keeps | apply State.traceCmd_keeps | apply sweep_keeps | apply Keeps.ite | apply Keeps.foldl | apply Keeps.advance)
    | (with_reducible first | exact Nat.le_refl _ | exact id | exact fun _ h => h | apply swf_sset | apply swf_swrite | apply swf_sstores | apply swf_filter | apply Mem.write_wf | apply Mem.restoreBlock_wf)
    | (intro _; try dsimp only)
    | split
    | with_reducible apply Keeps.upd)

theorem State.finishDone_keeps {s0 : State} (s : State) (c : Cid) (hK : Keeps s0 s) : Keeps s0 (State.finishDone s c) := by
  unfold State.finishDone
  try dsimp only
  repeat' (first
    | (with_reducible first | assumption | exact Keeps.refl _ | apply State.finishRest_keeps | apply State.scEndAll_keeps | apply Keeps.ite | apply Keeps.foldl | apply Keeps.advance)
    | (with_reducible first | exact Nat.le_refl _ | exact id | exact fun _ h => h | apply swf_sset | apply swf_swrite | apply swf_sstores | apply swf_filter | apply Mem.write_wf | apply Mem.restoreBlock_wf)
    | (intro _; try dsimp only)
    | split
    | with_reducible apply Keeps.upd)

theorem commandFinish_keeps {s0 : State} (c : Cid) (s : State) (hK : Keeps s0 s) : Keeps s0 (commandFinish c s) := by
  unfold commandFinish
  try dsimp only
  repeat' (first
    | (with_reducible first | assumption | exact Keeps.refl _ | apply State.copyRun_keeps | apply State.executed_keeps | apply State.finishDone_keeps | apply peg_keeps | apply Keeps.ite | apply Keeps.foldl | apply Keeps.advance)
    | (with_reducible first | exact Nat.le_refl _ | exact id | exact fun _ h => h | apply swf_sset | apply swf_swrite | apply swf_sstores | apply swf_filter | apply Mem.write_wf | apply Mem.restoreBlock_wf)
    | (intro _; try dsimp only)
    | split
    | with_reducible apply Keeps.upd)

end Sys2Proof.Machine
end

