-- ==== Sys2Proof/Laws/KeepsMangle.lean ====
section
/-! SUPPORT. What the operations of Machine/Mangle.lean keep (Laws/Keeps.lean). -/

namespace Sys2Proof.Machine

theorem chain_keeps {s0 : State} (i : Tid) (s : State) (hK : Keeps s0 s) : Keeps s0 (chain i s) := by
  unfold chain
  try dsimp only
  repeat' (first
    | (with_reducible first | assumption | exact Keeps.refl _ | apply State.modEntry_keeps | apply State.modThread_keeps | apply State.note_keeps | apply State.tally_keeps | apply State.threadEvent_keeps | apply State.trace_keeps | apply wait_keeps | apply Keeps.ite | apply Keeps.foldl | apply Keeps.advance)
    | (with_reducible first | exact Nat.le_refl _ | exact id | exact fun _ h => h | apply swf_sset | apply swf_swrite | apply swf_sstores | apply swf_filter | apply Mem.write_wf | apply Mem.restoreBlock_wf)
    | (intro _; try dsimp only)
    | split
    | with_reducible apply Keeps.upd)

end Sys2Proof.Machine
end

