-- ==== Sys2Proof/Laws/KeepsPress.lean ====
section
/-! SUPPORT. What the operations of Machine/Press.lean keep (Laws/Keeps.lean). -/

namespace Sys2Proof.Machine

theorem State.writeAll_keeps {s0 : State} (s : State) (w : Writer) (xs : List Xlat) (l : List (Nat × Bytes)) (hK : Keeps s0 s) : Keeps s0 (State.writeAll s w xs l) := by
  unfold State.writeAll
  try dsimp only
  repeat' (first
    | (with_reducible first | assumption | exact Keeps.refl _ | apply State.writeVa_keeps | apply Keeps.ite | apply Keeps.foldl | apply Keeps.advance)
    | (with_reducible first | exact Nat.le_refl _ | exact id | exact fun _ h => h | apply swf_sset | apply swf_swrite | apply swf_sstores | apply swf_filter | apply Mem.write_wf | apply Mem.restoreBlock_wf)
    | (intro _; try dsimp only)
    | split
    | with_reducible apply Keeps.upd)

theorem State.pressOut_keeps {s0 : State} (s : State) (c : Cid) (hK : Keeps s0 s) : Keeps s0 (State.pressOut s c) := by
  unfold State.pressOut
  try dsimp only
  repeat' (first
    | (with_reducible first | assumption | exact Keeps.refl _ | apply Keeps.ite | apply Keeps.foldl | apply Keeps.advance)
    | (with_reducible first | exact Nat.le_refl _ | exact id | exact fun _ h => h | apply swf_sset | apply swf_swrite | apply swf_sstores | apply swf_filter | apply Mem.write_wf | apply Mem.restoreBlock_wf)
    | (intro _; try dsimp only)
    | split
    | with_reducible apply Keeps.upd)

theorem State.pressEnd_keeps {s0 : State} (s : State) (c : Cid) (hK : Keeps s0 s) : Keeps s0 (State.pressEnd s c) := by
  unfold State.pressEnd
  try dsimp only
  repeat' (first
    | (with_reducible first | assumption | exact Keeps.refl _ | apply State.executed_keeps | apply State.pressOut_keeps | apply Keeps.ite | apply Keeps.foldl | apply Keeps.advance)
    | (with_reducible first | exact Nat.le_refl _ | exact id | exact fun _ h => h | apply swf_sset | apply swf_swrite | apply swf_sstores | apply swf_filter | apply Mem.write_wf | apply Mem.restoreBlock_wf)
    | (intro _; try dsimp only)
    | split
    | with_reducible apply Keeps.upd)

theorem State.pressRun_keeps {s0 : State} (s : State) (c : Cid) (e : Entry) (hK : Keeps s0 s) : Keeps s0 (State.pressRun s c e) := by
  unfold State.pressRun
  try dsimp only
  repeat' (first
    | (with_reducible first | assumption | exact Keeps.refl _ | apply State.engineWrite_keeps | apply State.escalate_keeps | apply State.modEntry_keeps | apply State.note_keeps | apply State.pressEnd_keeps | apply State.pressOut_keeps | apply State.tally_keeps | apply Keeps.ite | apply Keeps.foldl | apply Keeps.advance)
    | (with_reducible first | exact Nat.le_refl _ | exact id | exact fun _ h => h | apply swf_sset | apply swf_swrite | apply swf_sstores | apply swf_filter | apply Mem.write_wf | apply Mem.restoreBlock_wf)
    | (intro _; try dsimp only)
    | split
    | with_reducible apply Keeps.upd)

theorem State.pressUnit_keeps {s0 : State} (stack : Nat) : ∀ (n : Nat) (s : State), Keeps s0 s → Keeps s0 (State.pressUnit s stack n)
  | 0, _, hK => hK
  | n + 1, s, hK => by
    unfold State.pressUnit
    split
    · exact hK
    · split
      · exact hK
      · exact Keeps.ite (fun _ => State.pressRun_keeps s _ _ hK)
          (fun _ => State.pressUnit_keeps stack n _ (State.pressRun_keeps s _ _ hK))

theorem State.pressEnter_keeps {s0 : State} (s : State) (c : Cid) (e : Entry) (hK : Keeps s0 s) : Keeps s0 (State.pressEnter s c e) := by
  unfold State.pressEnter
  extract_lets fresh u rec t
  refine Keeps.ite (fun _ => hK) (fun _ => ?_)
  split
  · exact State.escalate_keeps _ _ _ _ (State.begin_keeps _ _ hK)
  · refine State.pressUnit_keeps _ _ _ ?_
    exact (State.modEntry_keeps _ _ _ (State.begin_keeps _ _ hK)).upd (Nat.le_refl _) id id (Nat.le_refl _) fun _ h => h


theorem press_keeps {s0 : State} (p : Fin 4) (q : Nat) (s : State) (hK : Keeps s0 s) : Keeps s0 (press p q s) := by
  unfold press
  try dsimp only
  repeat' (first
    | (with_reducible first | assumption | exact Keeps.refl _ | apply State.acceptHead_keeps | apply State.accepted_keeps | apply State.modEntry_keeps | apply State.pressEnter_keeps | apply State.refuse_keeps | apply State.refusePoisoned_keeps | apply Keeps.ite | apply Keeps.foldl | apply Keeps.advance)
    | (with_reducible first | exact Nat.le_refl _ | exact id | exact fun _ h => h | apply swf_sset | apply swf_swrite | apply swf_sstores | apply swf_filter | apply Mem.write_wf | apply Mem.restoreBlock_wf)
    | (intro _; try dsimp only)
    | split
    | with_reducible apply Keeps.upd)

end Sys2Proof.Machine
end

