-- ==== Sys2Proof/Laws/KeepsRowEngine.lean ====
section
/-! SUPPORT. What the operations of Machine/RowEngine.lean keep (Laws/Keeps.lean). -/

namespace Sys2Proof.Machine

theorem State.setSide_keeps {s0 : State} (s : State) (core row v : Nat) (hK : Keeps s0 s) : Keeps s0 (State.setSide s core row v) := by
  unfold State.setSide
  try dsimp only
  repeat' (first
    | (with_reducible first | assumption | exact Keeps.refl _ | apply Keeps.ite | apply Keeps.foldl | apply Keeps.advance)
    | (with_reducible first | exact Nat.le_refl _ | exact id | exact fun _ h => h | apply swf_sset | apply swf_swrite | apply swf_sstores | apply swf_filter | apply Mem.write_wf | apply Mem.restoreBlock_wf)
    | (intro _; try dsimp only)
    | split
    | with_reducible apply Keeps.upd)

theorem State.writeStats_keeps {s0 : State} (s : State) (g : RowOp) (w : Writer) (xs : List Xlat) (core idx : Nat) (st : Val × Val) (hK : Keeps s0 s) : Keeps s0 (State.writeStats s g w xs core idx st) := by
  unfold State.writeStats
  try dsimp only
  repeat' (first
    | (with_reducible first | assumption | exact Keeps.refl _ | apply State.setSide_keeps | apply State.writeVa_keeps | apply Keeps.ite | apply Keeps.foldl | apply Keeps.advance)
    | (with_reducible first | exact Nat.le_refl _ | exact id | exact fun _ h => h | apply swf_sset | apply swf_swrite | apply swf_sstores | apply swf_filter | apply Mem.write_wf | apply Mem.restoreBlock_wf)
    | (intro _; try dsimp only)
    | split
    | with_reducible apply Keeps.upd)

theorem rowRun_keeps {s0 : State} (g : RowOp) (w : Writer) (xs : List Xlat) (acc : State × Thread × List Exc) (rho : Nat)
    (hK : Keeps s0 acc.1) : Keeps s0 (rowRun g w xs acc rho).1 := by
  unfold rowRun
  dsimp only
  exact Keeps.ite (fun _ => hK) (fun _ => State.writeStats_keeps _ _ _ _ _ _ _ hK)

theorem rowRuns_keeps {s0 : State} (g : RowOp) (w : Writer) (xs : List Xlat) (l : List Nat)
    (acc : State × Thread × List Exc) (hK : Keeps s0 acc.1) : Keeps s0 (l.foldl (rowRun g w xs) acc).1 :=
  foldl_inv (fun (a : State × Thread × List Exc) => Keeps s0 a.1) _ (fun a rho h => rowRun_keeps g w xs a rho h) l acc hK

theorem rowOperation_keeps {s0 : State} (opcode : Nat) (i : Tid) (s : State) (hK : Keeps s0 s) : Keeps s0 (rowOperation opcode i s) := by
  unfold rowOperation
  dsimp only
  split
  · exact hK
  · split
    · exact State.escalate_keeps _ _ _ _ hK
    · refine Keeps.ite (fun _ => State.note_keeps _ _ _ ?_) (fun _ => State.modPart_keeps _ _ _ (State.note_keeps _ _ _
        (State.modThread_keeps _ _ _ (rowRuns_keeps _ _ _ _ _ hK))))
      refine Keeps.ite (fun _ => State.threadEvent_keeps _ _ _ _ _ _ _ ?_) (fun _ => ?_)
      · exact State.tally_keeps _ _ _ _ _ (State.modThread_keeps _ _ _ (rowRuns_keeps _ _ _ _ _ hK))
      · exact State.tally_keeps _ _ _ _ _ (State.modThread_keeps _ _ _ (rowRuns_keeps _ _ _ _ _ hK))


theorem rowFwd_keeps {s0 : State} (i : Tid) (s : State) (hK : Keeps s0 s) : Keeps s0 (rowFwd i s) := by
  unfold rowFwd
  try dsimp only
  repeat' (first
    | (with_reducible first | assumption | exact Keeps.refl _ | apply rowOperation_keeps | apply Keeps.ite | apply Keeps.foldl | apply Keeps.advance)
    | (with_reducible first | exact Nat.le_refl _ | exact id | exact fun _ h => h | apply swf_sset | apply swf_swrite | apply swf_sstores | apply swf_filter | apply Mem.write_wf | apply Mem.restoreBlock_wf)
    | (intro _; try dsimp only)
    | split
    | with_reducible apply Keeps.upd)

theorem rowBwd_keeps {s0 : State} (i : Tid) (s : State) (hK : Keeps s0 s) : Keeps s0 (rowBwd i s) := by
  unfold rowBwd
  try dsimp only
  repeat' (first
    | (with_reducible first | assumption | exact Keeps.refl _ | apply rowOperation_keeps | apply Keeps.ite | apply Keeps.foldl | apply Keeps.advance)
    | (with_reducible first | exact Nat.le_refl _ | exact id | exact fun _ h => h | apply swf_sset | apply swf_swrite | apply swf_sstores | apply swf_filter | apply Mem.write_wf | apply Mem.restoreBlock_wf)
    | (intro _; try dsimp only)
    | split
    | with_reducible apply Keeps.upd)

end Sys2Proof.Machine
end

