-- ==== Sys2Proof/Laws/KeepsCollective.lean ====
section
/-! SUPPORT. What the operations of Machine/Collective.lean keep (Laws/Keeps.lean). -/

namespace Sys2Proof.Machine

theorem State.windowWrite_keeps {s0 : State} (s : State) (w : Window) (off : Nat) (b : Bytes) (hK : Keeps s0 s) : Keeps s0 (State.windowWrite s w off b) := by
  unfold State.windowWrite
  try dsimp only
  repeat' (first
    | (with_reducible first | assumption | exact Keeps.refl _ | apply State.hostWrite_keeps | apply State.writeOutside_keeps | apply Keeps.ite | apply Keeps.foldl | apply Keeps.advance)
    | (with_reducible first | exact Nat.le_refl _ | exact id | exact fun _ h => h | apply swf_sset | apply swf_swrite | apply swf_sstores | apply swf_filter | apply Mem.write_wf | apply Mem.restoreBlock_wf)
    | (intro _; try dsimp only)
    | split
    | with_reducible apply Keeps.upd)

theorem State.writeMap_keeps {s0 : State} (s : State) (p : Fin 4) (c : Bytes) (k : Coll) (hK : Keeps s0 s) : Keeps s0 (State.writeMap s p c k) := by
  unfold State.writeMap
  try dsimp only
  repeat' (first
    | (with_reducible first | assumption | exact Keeps.refl _ | apply State.windowWrite_keeps | apply Keeps.ite | apply Keeps.foldl | apply Keeps.advance)
    | (with_reducible first | exact Nat.le_refl _ | exact id | exact fun _ h => h | apply swf_sset | apply swf_swrite | apply swf_sstores | apply swf_filter | apply Mem.write_wf | apply Mem.restoreBlock_wf)
    | (intro _; try dsimp only)
    | split
    | with_reducible apply Keeps.upd)

theorem State.refreshMaps_keeps {s0 : State} (s : State) (p : Fin 4) (window : Nat) (hK : Keeps s0 s) : Keeps s0 (State.refreshMaps s p window) := by
  unfold State.refreshMaps
  try dsimp only
  repeat' (first
    | (with_reducible first | assumption | exact Keeps.refl _ | apply State.writeMap_keeps | apply Keeps.ite | apply Keeps.foldl | apply Keeps.advance)
    | (with_reducible first | exact Nat.le_refl _ | exact id | exact fun _ h => h | apply swf_sset | apply swf_swrite | apply swf_sstores | apply swf_filter | apply Mem.write_wf | apply Mem.restoreBlock_wf)
    | (intro _; try dsimp only)
    | split
    | with_reducible apply Keeps.upd)

theorem State.clearArrivals_keeps {s0 : State} (s : State) (p : Fin 4) (c : Bytes) (k : Coll) (hK : Keeps s0 s) : Keeps s0 (State.clearArrivals s p c k) := by
  unfold State.clearArrivals
  try dsimp only
  repeat' (first
    | (with_reducible first | assumption | exact Keeps.refl _ | apply State.modPart_keeps | apply State.writeMap_keeps | apply Keeps.ite | apply Keeps.foldl | apply Keeps.advance)
    | (with_reducible first | exact Nat.le_refl _ | exact id | exact fun _ h => h | apply swf_sset | apply swf_swrite | apply swf_sstores | apply swf_filter | apply Mem.write_wf | apply Mem.restoreBlock_wf)
    | (intro _; try dsimp only)
    | split
    | with_reducible apply Keeps.upd)

theorem State.collSend_keeps {s0 : State} (s : State) (c : Cid) (pos off : Nat) (b : Bytes) (hK : Keeps s0 s) : Keeps s0 (State.collSend s c pos off b) := by
  unfold State.collSend
  try dsimp only
  repeat' (first
    | (with_reducible first | assumption | exact Keeps.refl _ | apply State.failSend_keeps | apply State.sendAddressed_keeps | apply State.sendCircuit_keeps | apply Keeps.ite | apply Keeps.foldl | apply Keeps.advance)
    | (with_reducible first | exact Nat.le_refl _ | exact id | exact fun _ h => h | apply swf_sset | apply swf_swrite | apply swf_sstores | apply swf_filter | apply Mem.write_wf | apply Mem.restoreBlock_wf)
    | (intro _; try dsimp only)
    | split
    | with_reducible apply Keeps.upd)

theorem State.sendResult_keeps {s0 : State} (s : State) (c : Cid) (cmd : Bytes) (k : Coll) (seg : Nat) (out : Bytes) (hK : Keeps s0 s) : Keeps s0 (State.sendResult s c cmd k seg out) := by
  unfold State.sendResult
  try dsimp only
  repeat' (first
    | (with_reducible first | assumption | exact Keeps.refl _ | apply State.collSend_keeps | apply Keeps.ite | apply Keeps.foldl | apply Keeps.advance)
    | (with_reducible first | exact Nat.le_refl _ | exact id | exact fun _ h => h | apply swf_sset | apply swf_swrite | apply swf_sstores | apply swf_filter | apply Mem.write_wf | apply Mem.restoreBlock_wf)
    | (intro _; try dsimp only)
    | split
    | with_reducible apply Keeps.upd)

theorem State.noteRemote_keeps {s0 : State} (s : State) (c : Cid) (cmd : Bytes) (k : Coll) (seg : Nat) (out : Bool) (lo hi : Nat) (vals : List Val) (hK : Keeps s0 s) : Keeps s0 (State.noteRemote s c cmd k seg out lo hi vals) := by
  unfold State.noteRemote
  try dsimp only
  repeat' (first
    | (with_reducible first | assumption | exact Keeps.refl _ | apply State.note_keeps | apply Keeps.ite | apply Keeps.foldl | apply Keeps.advance)
    | (with_reducible first | exact Nat.le_refl _ | exact id | exact fun _ h => h | apply swf_sset | apply swf_swrite | apply swf_sstores | apply swf_filter | apply Mem.write_wf | apply Mem.restoreBlock_wf)
    | (intro _; try dsimp only)
    | split
    | with_reducible apply Keeps.upd)

theorem State.noteArrival_keeps {s0 : State} (s : State) (c : Cid) (cmd : Bytes) (k : Coll) (r : CoRegion) (hK : Keeps s0 s) : Keeps s0 (State.noteArrival s c cmd k r) := by
  unfold State.noteArrival
  try dsimp only
  repeat' (first
    | (with_reducible first | assumption | exact Keeps.refl _ | apply State.noteRemote_keeps | apply Keeps.ite | apply Keeps.foldl | apply Keeps.advance)
    | (with_reducible first | exact Nat.le_refl _ | exact id | exact fun _ h => h | apply swf_sset | apply swf_swrite | apply swf_sstores | apply swf_filter | apply Mem.write_wf | apply Mem.restoreBlock_wf)
    | (intro _; try dsimp only)
    | split
    | with_reducible apply Keeps.upd)

theorem State.runStage_keeps {s0 : State} (s : State) (c : Cid) (e : Entry) (g : Stage) (hK : Keeps s0 s) : Keeps s0 (State.runStage s c e g) := by
  unfold State.runStage
  try dsimp only
  repeat' (first
    | (with_reducible first | assumption | exact Keeps.refl _ | apply State.collSend_keeps | apply State.engineWrite_keeps | apply State.note_keeps | apply Keeps.ite | apply Keeps.foldl | apply Keeps.advance)
    | (with_reducible first | exact Nat.le_refl _ | exact id | exact fun _ h => h | apply swf_sset | apply swf_swrite | apply swf_sstores | apply swf_filter | apply Mem.write_wf | apply Mem.restoreBlock_wf)
    | (intro _; try dsimp only)
    | split
    | with_reducible apply Keeps.upd)

theorem State.collSettle_keeps {s0 : State} (s : State) (c : Cid) (hK : Keeps s0 s) : Keeps s0 (State.collSettle s c) := by
  unfold State.collSettle
  try dsimp only
  repeat' (first
    | (with_reducible first | assumption | exact Keeps.refl _ | apply State.executed_keeps | apply Keeps.ite | apply Keeps.foldl | apply Keeps.advance)
    | (with_reducible first | exact Nat.le_refl _ | exact id | exact fun _ h => h | apply swf_sset | apply swf_swrite | apply swf_sstores | apply swf_filter | apply Mem.write_wf | apply Mem.restoreBlock_wf)
    | (intro _; try dsimp only)
    | split
    | with_reducible apply Keeps.upd)

theorem State.modColl_keeps {s0 : State} (s : State) (c : Cid) (f : Coll → Coll) (hK : Keeps s0 s) : Keeps s0 (State.modColl s c f) := by
  unfold State.modColl
  try dsimp only
  repeat' (first
    | (with_reducible first | assumption | exact Keeps.refl _ | apply State.modEntry_keeps | apply Keeps.ite | apply Keeps.foldl | apply Keeps.advance)
    | (with_reducible first | exact Nat.le_refl _ | exact id | exact fun _ h => h | apply swf_sset | apply swf_swrite | apply swf_sstores | apply swf_filter | apply Mem.write_wf | apply Mem.restoreBlock_wf)
    | (intro _; try dsimp only)
    | split
    | with_reducible apply Keeps.upd)

theorem State.openExchange_keeps {s0 : State} (s : State) (c : Cid) (e : Entry) (k : Coll) (hK : Keeps s0 s) : Keeps s0 (State.openExchange s c e k) := by
  unfold State.openExchange
  try dsimp only
  repeat' (first
    | (with_reducible first | assumption | exact Keeps.refl _ | apply State.arrive_keeps | apply State.collSend_keeps | apply State.modPart_keeps | apply State.writeVa_keeps | apply Keeps.ite | apply Keeps.foldl | apply Keeps.advance)
    | (with_reducible first | exact Nat.le_refl _ | exact id | exact fun _ h => h | apply swf_sset | apply swf_swrite | apply swf_sstores | apply swf_filter | apply Mem.write_wf | apply Mem.restoreBlock_wf)
    | (intro _; try dsimp only)
    | split
    | with_reducible apply Keeps.upd)

theorem State.openReduction_keeps {s0 : State} (s : State) (c : Cid) (e : Entry) (k : Coll) (hK : Keeps s0 s) : Keeps s0 (State.openReduction s c e k) := by
  unfold State.openReduction
  try dsimp only
  repeat' (first
    | (with_reducible first | assumption | exact Keeps.refl _ | apply State.collSend_keeps | apply State.engineWrite_keeps | apply State.modColl_keeps | apply State.note_keeps | apply State.runStage_keeps | apply Keeps.ite | apply Keeps.foldl | apply Keeps.advance)
    | (with_reducible first | exact Nat.le_refl _ | exact id | exact fun _ h => h | apply swf_sset | apply swf_swrite | apply swf_sstores | apply swf_filter | apply Mem.write_wf | apply Mem.restoreBlock_wf)
    | (intro _; try dsimp only)
    | split
    | with_reducible apply Keeps.upd)

theorem State.collOpen_keeps {s0 : State} (s : State) (c : Cid) (hK : Keeps s0 s) : Keeps s0 (State.collOpen s c) := by
  unfold State.collOpen
  try dsimp only
  repeat' (first
    | (with_reducible first | assumption | exact Keeps.refl _ | apply State.collSettle_keeps | apply State.escalate_keeps | apply State.modColl_keeps | apply State.openExchange_keeps | apply State.openReduction_keeps | apply State.refreshMaps_keeps | apply State.stallCmd_keeps | apply Keeps.ite | apply Keeps.foldl | apply Keeps.advance)
    | (with_reducible first | exact Nat.le_refl _ | exact id | exact fun _ h => h | apply swf_sset | apply swf_swrite | apply swf_sstores | apply swf_filter | apply Mem.write_wf | apply Mem.restoreBlock_wf)
    | (intro _; try dsimp only)
    | split
    | with_reducible apply Keeps.upd)

theorem State.collRegion_keeps {s0 : State} (s : State) (c : Cid) (i : Nat) (hK : Keeps s0 s) : Keeps s0 (State.collRegion s c i) := by
  unfold State.collRegion
  try dsimp only
  repeat' (first
    | (with_reducible first | assumption | exact Keeps.refl _ | apply State.collSettle_keeps | apply State.escalate_keeps | apply State.modColl_keeps | apply State.noteArrival_keeps | apply State.runStage_keeps | apply Keeps.ite | apply Keeps.foldl | apply Keeps.advance)
    | (with_reducible first | exact Nat.le_refl _ | exact id | exact fun _ h => h | apply swf_sset | apply swf_swrite | apply swf_sstores | apply swf_filter | apply Mem.write_wf | apply Mem.restoreBlock_wf)
    | (intro _; try dsimp only)
    | split
    | with_reducible apply Keeps.upd)

theorem collectiveRegionReady_keeps {s0 : State} (c : Cid) (region : Nat) (s : State) (hK : Keeps s0 s) : Keeps s0 (collectiveRegionReady c region s) := by
  unfold collectiveRegionReady
  try dsimp only
  repeat' (first
    | (with_reducible first | assumption | exact Keeps.refl _ | apply State.collRegion_keeps | apply Keeps.ite | apply Keeps.foldl | apply Keeps.advance)
    | (with_reducible first | exact Nat.le_refl _ | exact id | exact fun _ h => h | apply swf_sset | apply swf_swrite | apply swf_sstores | apply swf_filter | apply Mem.write_wf | apply Mem.restoreBlock_wf)
    | (intro _; try dsimp only)
    | split
    | with_reducible apply Keeps.upd)

theorem State.collStart_keeps {s0 : State} (s : State) (c : Cid) (e : Entry) (hK : Keeps s0 s) : Keeps s0 (State.collStart s c e) := by
  unfold State.collStart
  try dsimp only
  repeat' (first
    | (with_reducible first | assumption | exact Keeps.refl _ | apply State.begin_keeps | apply State.collOpen_keeps | apply State.modEntry_keeps | apply Keeps.ite | apply Keeps.foldl | apply Keeps.advance)
    | (with_reducible first | exact Nat.le_refl _ | exact id | exact fun _ h => h | apply swf_sset | apply swf_swrite | apply swf_sstores | apply swf_filter | apply Mem.write_wf | apply Mem.restoreBlock_wf)
    | (intro _; try dsimp only)
    | split
    | with_reducible apply Keeps.upd)

theorem collective_keeps {s0 : State} (p : Fin 4) (q : Nat) (s : State) (hK : Keeps s0 s) : Keeps s0 (collective p q s) := by
  unfold collective
  refine State.engineRow_keeps _ _ _ _ _ _ (fun t ht => State.acceptHead_keeps _ _ _ _ _ (fun c e => ?_) ht) hK
  refine Keeps.ite (fun _ => State.collStart_keeps _ _ _ ht) (fun _ => ?_)
  split
  · exact State.refuse_keeps _ _ _ ht
  · split
    · exact State.refusePoisoned_keeps _ _ _ _ ht
    · rename_i xs rs k _ _ _
      have h := State.modEntry_keeps _ c (fun e => { e with coll := some k }) (State.accepted_keeps t c xs rs ht)
      dsimp only
      split
      · exact h
      · exact Keeps.ite (fun _ => State.refuse_keeps _ _ _ h) (fun _ => State.collStart_keeps _ _ _ h)


theorem arrivalTimeout_keeps {s0 : State} (c : Cid) (s : State) (hK : Keeps s0 s) : Keeps s0 (arrivalTimeout c s) := by
  unfold arrivalTimeout
  try dsimp only
  repeat' (first
    | (with_reducible first | assumption | exact Keeps.refl _ | apply State.failCmd_keeps | apply State.modEntry_keeps | apply Keeps.ite | apply Keeps.foldl | apply Keeps.advance)
    | (with_reducible first | exact Nat.le_refl _ | exact id | exact fun _ h => h | apply swf_sset | apply swf_swrite | apply swf_sstores | apply swf_filter | apply Mem.write_wf | apply Mem.restoreBlock_wf)
    | (intro _; try dsimp only)
    | split
    | with_reducible apply Keeps.upd)

theorem State.faultGone_keeps {s0 : State} (s : State) (hK : Keeps s0 s) : Keeps s0 (State.faultGone s) := by
  unfold State.faultGone
  try dsimp only
  repeat' (first
    | (with_reducible first | assumption | exact Keeps.refl _ | apply Keeps.ite | apply Keeps.foldl | apply Keeps.advance)
    | (with_reducible first | exact Nat.le_refl _ | exact id | exact fun _ h => h | apply swf_sset | apply swf_swrite | apply swf_sstores | apply swf_filter | apply Mem.write_wf | apply Mem.restoreBlock_wf)
    | (intro _; try dsimp only)
    | split
    | with_reducible apply Keeps.upd)

theorem State.fallBack_keeps {s0 : State} (s : State) (p : Fin 4) (hK : Keeps s0 s) : Keeps s0 (State.fallBack s p) := by
  unfold State.fallBack
  try dsimp only
  repeat' (first
    | (with_reducible first | assumption | exact Keeps.refl _ | apply State.modEntry_keeps | apply Keeps.ite | apply Keeps.foldl | apply Keeps.advance)
    | (with_reducible first | exact Nat.le_refl _ | exact id | exact fun _ h => h | apply swf_sset | apply swf_swrite | apply swf_sstores | apply swf_filter | apply Mem.write_wf | apply Mem.restoreBlock_wf)
    | (intro _; try dsimp only)
    | split
    | with_reducible apply Keeps.upd)

theorem State.doSwitch_keeps {s0 : State} (s : State) (c : Cid) (e : Entry) (hK : Keeps s0 s) : Keeps s0 (State.doSwitch s c e) := by
  unfold State.doSwitch
  try dsimp only
  repeat' (first
    | (with_reducible first | assumption | exact Keeps.refl _ | apply State.executed_keeps | apply State.modEntry_keeps | apply State.refuse_keeps | apply State.releaseHeld_keeps | apply State.traceCmd_keeps | apply Keeps.ite | apply Keeps.foldl | apply Keeps.advance)
    | (with_reducible first | exact Nat.le_refl _ | exact id | exact fun _ h => h | apply swf_sset | apply swf_swrite | apply swf_sstores | apply swf_filter | apply Mem.write_wf | apply Mem.restoreBlock_wf)
    | (intro _; try dsimp only)
    | split
    | with_reducible apply Keeps.upd)

theorem planSwitch_keeps {s0 : State} (p : Fin 4) (q : Nat) (s : State) (hK : Keeps s0 s) : Keeps s0 (planSwitch p q s) := by
  unfold planSwitch
  split
  · exact State.doSwitch_keeps _ _ _ hK
  · refine State.engineRow_keeps _ _ _ _ _ _ (fun t ht => State.acceptHead_keeps _ _ _ _ _ (fun c e => ?_) ht) hK
    refine Keeps.ite (fun _ => State.refuse_keeps _ _ _ ht) (fun _ => Keeps.ite (fun _ => ?_) (fun _ => Keeps.ite (fun _ => ?_) (fun _ => ?_)))
    · exact State.modEntry_keeps _ _ _ (State.refuse_keeps _ _ _ ht)
    · exact State.modEntry_keeps _ _ _ (State.refuse_keeps _ _ _ ht)
    · exact State.doSwitch_keeps _ _ _ (State.begin_keeps _ _ (State.accepted_keeps _ _ _ _ ht))


end Sys2Proof.Machine
end

