-- ==== Sys2Proof/Laws/KeepsDispatcher.lean ====
section
/-! SUPPORT. What the operations of Machine/Dispatcher.lean keep (Laws/Keeps.lean). -/

namespace Sys2Proof.Machine

theorem State.nextPhase_keeps {s0 : State} (s : State) (p : Fin 4) (hs : List SweepHead) (g : Nat) (hK : Keeps s0 s) : Keeps s0 (State.nextPhase s p hs g) := by
  unfold State.nextPhase
  try dsimp only
  repeat' (first
    | (with_reducible first | assumption | exact Keeps.refl _ | apply State.modPart_keeps | apply Keeps.ite | apply Keeps.foldl | apply Keeps.advance)
    | (with_reducible first | exact Nat.le_refl _ | exact id | exact fun _ h => h | apply swf_sset | apply swf_swrite | apply swf_sstores | apply swf_filter | apply Mem.write_wf | apply Mem.restoreBlock_wf)
    | (intro _; try dsimp only)
    | split
    | with_reducible apply Keeps.upd)

theorem State.dropAllRetained_keeps {s0 : State} (s : State) (c : Cid) (hK : Keeps s0 s) : Keeps s0 (State.dropAllRetained s c) := by
  unfold State.dropAllRetained
  try dsimp only
  repeat' (first
    | (with_reducible first | assumption | exact Keeps.refl _ | apply Keeps.ite | apply Keeps.foldl | apply Keeps.advance)
    | (with_reducible first | exact Nat.le_refl _ | exact id | exact fun _ h => h | apply swf_sset | apply swf_swrite | apply swf_sstores | apply swf_filter | apply Mem.write_wf | apply Mem.restoreBlock_wf)
    | (intro _; try dsimp only)
    | split
    | with_reducible apply Keeps.upd)

theorem State.arrive_keeps {s0 : State} (s : State) (p : Fin 4) (q : Nat) (hK : Keeps s0 s) : Keeps s0 (State.arrive s p q) := by
  unfold State.arrive
  try dsimp only
  repeat' (first
    | (with_reducible first | assumption | exact Keeps.refl _ | apply State.dropAllRetained_keeps | apply State.modEntry_keeps | apply sweep_keeps | apply Keeps.ite | apply Keeps.foldl | apply Keeps.advance)
    | (with_reducible first | exact Nat.le_refl _ | exact id | exact fun _ h => h | apply swf_sset | apply swf_swrite | apply swf_sstores | apply swf_filter | apply Mem.write_wf | apply Mem.restoreBlock_wf)
    | (intro _; try dsimp only)
    | split
    | with_reducible apply Keeps.upd)

theorem State.beginSweep_keeps {s0 : State} (s : State) (p : Fin 4) (h : SweepHead) (hK : Keeps s0 s) : Keeps s0 (State.beginSweep s p h) := by
  unfold State.beginSweep
  try dsimp only
  repeat' (first
    | (with_reducible first | assumption | exact Keeps.refl _ | apply State.begin_keeps | apply State.modEntry_keeps | apply State.modPart_keeps | apply sweep_keeps | apply Keeps.ite | apply Keeps.foldl | apply Keeps.advance)
    | (with_reducible first | exact Nat.le_refl _ | exact id | exact fun _ h => h | apply swf_sset | apply swf_swrite | apply swf_sstores | apply swf_filter | apply Mem.write_wf | apply Mem.restoreBlock_wf)
    | (intro _; try dsimp only)
    | split
    | with_reducible apply Keeps.upd)

theorem State.putThread_keeps {s0 : State} (s : State) (p : Fin 4) (h : SweepHead) (t c : Nat) (hK : Keeps s0 s) : Keeps s0 (State.putThread s p h t c) := by
  unfold State.putThread
  try dsimp only
  repeat' (first
    | (with_reducible first | assumption | exact Keeps.refl _ | apply State.coreEvent_keeps | apply State.modEntry_keeps | apply State.traceThread_keeps | apply wait_keeps | apply Keeps.ite | apply Keeps.foldl | apply Keeps.advance)
    | (with_reducible first | exact Nat.le_refl _ | exact id | exact fun _ h => h | apply swf_sset | apply swf_swrite | apply swf_sstores | apply swf_filter | apply Mem.write_wf | apply Mem.restoreBlock_wf)
    | (intro _; try dsimp only)
    | split
    | with_reducible apply Keeps.upd)

theorem State.putAll_keeps {s0 : State} (p : Fin 4) (h : SweepHead) : ∀ (l : List Nat) (t : Nat) (s : State), Keeps s0 s →
    Keeps s0 (State.putAll s p h t l)
  | [], _, _, hK => hK
  | c :: r, t, s, hK => State.putAll_keeps p h r (t + 1) _ (State.putThread_keeps s p h t c hK)


theorem State.placeHead_keeps {s0 : State} (s : State) (p : Fin 4) (h : SweepHead) (c : Nat) (hK : Keeps s0 s) : Keeps s0 (State.placeHead s p h c) := by
  unfold State.placeHead
  try dsimp only
  repeat' (first
    | (with_reducible first | assumption | exact Keeps.refl _ | apply State.arrive_keeps | apply State.begin_keeps | apply State.beginSweep_keeps | apply State.escalate_keeps | apply State.modEntry_keeps | apply State.modPart_keeps | apply State.putAll_keeps | apply sweep_keeps | apply Keeps.ite | apply Keeps.foldl | apply Keeps.advance)
    | (with_reducible first | exact Nat.le_refl _ | exact id | exact fun _ h => h | apply swf_sset | apply swf_swrite | apply swf_sstores | apply swf_filter | apply Mem.write_wf | apply Mem.restoreBlock_wf)
    | (intro _; try dsimp only)
    | split
    | with_reducible apply Keeps.upd)

theorem State.placeLoop_keeps {s0 : State} (p : Fin 4) (c : Nat) : ∀ (n : Nat) (s : State), Keeps s0 s →
    Keeps s0 (State.placeLoop s p c n)
  | 0, _, hK => hK
  | n + 1, s, hK => by
    unfold State.placeLoop
    extract_lets hs t
    refine Keeps.ite (fun _ => hK) (fun _ => ?_)
    have ht : Keeps s0 t := Keeps.foldl (fun _ _ h => State.nextPhase_keeps _ _ _ _ h) hK
    split
    · exact ht
    · exact State.placeLoop_keeps p c n _ (State.placeHead_keeps _ _ _ _ ht)

theorem State.placeOn_keeps {s0 : State} (s : State) (p : Fin 4) (c : Nat) (hK : Keeps s0 s) : Keeps s0 (State.placeOn s p c) :=
  Keeps.ite (fun _ => State.placeLoop_keeps p c _ s hK) (fun _ => hK)


theorem placeNext_keeps {s0 : State} (c : Nat) (s : State) (hK : Keeps s0 s) : Keeps s0 (placeNext c s) := by
  unfold placeNext
  try dsimp only
  repeat' (first
    | (with_reducible first | assumption | exact Keeps.refl _ | apply State.placeOn_keeps | apply Keeps.ite | apply Keeps.foldl | apply Keeps.advance)
    | (with_reducible first | exact Nat.le_refl _ | exact id | exact fun _ h => h | apply swf_sset | apply swf_swrite | apply swf_sstores | apply swf_filter | apply Mem.write_wf | apply Mem.restoreBlock_wf)
    | (intro _; try dsimp only)
    | split
    | with_reducible apply Keeps.upd)

theorem State.placeAll_keeps {s0 : State} (s : State) (p : Fin 4) (hK : Keeps s0 s) : Keeps s0 (State.placeAll s p) := by
  unfold State.placeAll
  try dsimp only
  repeat' (first
    | (with_reducible first | assumption | exact Keeps.refl _ | apply State.placeOn_keeps | apply Keeps.ite | apply Keeps.foldl | apply Keeps.advance)
    | (with_reducible first | exact Nat.le_refl _ | exact id | exact fun _ h => h | apply swf_sset | apply swf_swrite | apply swf_sstores | apply swf_filter | apply Mem.write_wf | apply Mem.restoreBlock_wf)
    | (intro _; try dsimp only)
    | split
    | with_reducible apply Keeps.upd)

theorem sweep_keeps {s0 : State} (p : Fin 4) (q : Nat) (s : State) (hK : Keeps s0 s) : Keeps s0 (sweep p q s) := by
  unfold sweep
  try dsimp only
  repeat' (first
    | (with_reducible first | assumption | exact Keeps.refl _ | apply State.acceptHead_keeps | apply State.accepted_keeps | apply State.arrive_keeps | apply State.modEntry_keeps | apply State.placeAll_keeps | apply State.refuse_keeps | apply State.refusePoisoned_keeps | apply Keeps.ite | apply Keeps.foldl | apply Keeps.advance)
    | (with_reducible first | exact Nat.le_refl _ | exact id | exact fun _ h => h | apply swf_sset | apply swf_swrite | apply swf_sstores | apply swf_filter | apply Mem.write_wf | apply Mem.restoreBlock_wf)
    | (intro _; try dsimp only)
    | split
    | with_reducible apply Keeps.upd)

end Sys2Proof.Machine
end

