-- ==== Sys2Proof/Laws/KeepsQueue.lean ====
section
/-! SUPPORT. What the operations of Machine/Queue.lean keep (Laws/Keeps.lean). -/

namespace Sys2Proof.Machine

theorem State.swapSummary_keeps {s0 : State} (s : State) (base : Nat) (hK : Keeps s0 s) : Keeps s0 (State.swapSummary s base) := by
  unfold State.swapSummary
  try dsimp only
  repeat' (first
    | (with_reducible first | assumption | exact Keeps.refl _ | apply State.hostWrite_keeps | apply Keeps.ite | apply Keeps.foldl | apply Keeps.advance)
    | (with_reducible first | exact Nat.le_refl _ | exact id | exact fun _ h => h | apply swf_sset | apply swf_swrite | apply swf_sstores | apply swf_filter | apply Mem.write_wf | apply Mem.restoreBlock_wf)
    | (intro _; try dsimp only)
    | split
    | with_reducible apply Keeps.upd)

theorem devicePoll_keeps {s0 : State} (p : Fin 4) (host : HostStores) (s : State) (hK : Keeps s0 s) : Keeps s0 (devicePoll p host s) := by
  unfold devicePoll
  try dsimp only
  repeat' (first
    | (with_reducible first | assumption | exact Keeps.refl _ | apply State.modPart_keeps | apply State.modQueue_keeps | apply State.swapSummary_keeps | apply Keeps.ite | apply Keeps.foldl | apply Keeps.advance)
    | (with_reducible first | exact Nat.le_refl _ | exact id | exact fun _ h => h | apply swf_sset | apply swf_swrite | apply swf_sstores | apply swf_filter | apply Mem.write_wf | apply Mem.restoreBlock_wf)
    | (intro _; try dsimp only)
    | split
    | with_reducible apply Keeps.upd)

theorem commandAdmit_keeps {s0 : State} (p : Fin 4) (q : Nat) (s : State) (hK : Keeps s0 s) : Keeps s0 (commandAdmit p q s) := by
  unfold commandAdmit
  try dsimp only
  repeat' (first
    | (with_reducible first | assumption | exact Keeps.refl _ | apply State.arrive_keeps | apply State.dropAllRetained_keeps | apply State.dropParted_keeps | apply State.modPart_keeps | apply State.modQueue_keeps | apply State.stayBusy_keeps | apply Keeps.ite | apply Keeps.foldl | apply Keeps.advance)
    | (with_reducible first | exact Nat.le_refl _ | exact id | exact fun _ h => h | apply swf_sset | apply swf_swrite | apply swf_sstores | apply swf_filter | apply Mem.write_wf | apply Mem.restoreBlock_wf)
    | (intro _; try dsimp only)
    | split
    | with_reducible apply Keeps.upd)

theorem State.drainQueue_keeps {s0 : State} (s : State) (p : Fin 4) (q : Nat) (due : Option Nat) (hK : Keeps s0 s) : Keeps s0 (State.drainQueue s p q due) := by
  unfold State.drainQueue
  try dsimp only
  repeat' (first
    | (with_reducible first | assumption | exact Keeps.refl _ | apply State.dropParted_keeps | apply State.modPart_keeps | apply State.modQueue_keeps | apply State.stayBusy_keeps | apply Keeps.ite | apply Keeps.foldl | apply Keeps.advance)
    | (with_reducible first | exact Nat.le_refl _ | exact id | exact fun _ h => h | apply swf_sset | apply swf_swrite | apply swf_sstores | apply swf_filter | apply Mem.write_wf | apply Mem.restoreBlock_wf)
    | (intro _; try dsimp only)
    | split
    | with_reducible apply Keeps.upd)

theorem queueDisable_keeps {s0 : State} (fn : Fn) (p : Fin 4) (q : Nat) (s : State) (hK : Keeps s0 s) : Keeps s0 (queueDisable fn p q s) := by
  unfold queueDisable
  try dsimp only
  repeat' (first
    | (with_reducible first | assumption | exact Keeps.refl _ | apply State.drainQueue_keeps | apply State.modPart_keeps | apply Keeps.ite | apply Keeps.foldl | apply Keeps.advance)
    | (with_reducible first | exact Nat.le_refl _ | exact id | exact fun _ h => h | apply swf_sset | apply swf_swrite | apply swf_sstores | apply swf_filter | apply Mem.write_wf | apply Mem.restoreBlock_wf)
    | (intro _; try dsimp only)
    | split
    | with_reducible apply Keeps.upd)

theorem queueEnable_keeps {s0 : State} (fn : Fn) (p : Fin 4) (q : Nat) (s : State) (hK : Keeps s0 s) : Keeps s0 (queueEnable fn p q s) := by
  unfold queueEnable
  try dsimp only
  repeat' (first
    | (with_reducible first | assumption | exact Keeps.refl _ | apply State.modQueue_keeps | apply Keeps.ite | apply Keeps.foldl | apply Keeps.advance)
    | (with_reducible first | exact Nat.le_refl _ | exact id | exact fun _ h => h | apply swf_sset | apply swf_swrite | apply swf_sstores | apply swf_filter | apply Mem.write_wf | apply Mem.restoreBlock_wf)
    | (intro _; try dsimp only)
    | split
    | with_reducible apply Keeps.upd)

theorem State.applyHeld_keeps {s0 : State} (s : State) (p : Fin 4) (q : Nat) (h : Nat × Bytes) (hK : Keeps s0 s) : Keeps s0 (State.applyHeld s p q h) := by
  unfold State.applyHeld
  try dsimp only
  repeat' (first
    | (with_reducible first | assumption | exact Keeps.refl _ | apply State.applySignal_keeps | apply State.modPart_keeps | apply signal_keeps | apply Keeps.ite | apply Keeps.foldl | apply Keeps.advance)
    | (with_reducible first | exact Nat.le_refl _ | exact id | exact fun _ h => h | apply swf_sset | apply swf_swrite | apply swf_sstores | apply swf_filter | apply Mem.write_wf | apply Mem.restoreBlock_wf)
    | (intro _; try dsimp only)
    | split
    | with_reducible apply Keeps.upd)

theorem queueResume_keeps {s0 : State} (fn : Fn) (p : Fin 4) (q : Nat) (s : State) (hK : Keeps s0 s) : Keeps s0 (queueResume fn p q s) := by
  unfold queueResume
  try dsimp only
  repeat' (first
    | (with_reducible first | assumption | exact Keeps.refl _ | apply State.applyHeld_keeps | apply State.modQueue_keeps | apply Keeps.ite | apply Keeps.foldl | apply Keeps.advance)
    | (with_reducible first | exact Nat.le_refl _ | exact id | exact fun _ h => h | apply swf_sset | apply swf_swrite | apply swf_sstores | apply swf_filter | apply Mem.write_wf | apply Mem.restoreBlock_wf)
    | (intro _; try dsimp only)
    | split
    | with_reducible apply Keeps.upd)

theorem groupCreate_keeps {s0 : State} (fn : Fn) (p : Fin 4) (g : Nat) (s : State) (hK : Keeps s0 s) : Keeps s0 (groupCreate fn p g s) := by
  unfold groupCreate
  try dsimp only
  repeat' (first
    | (with_reducible first | assumption | exact Keeps.refl _ | apply State.setPart_keeps | apply Keeps.ite | apply Keeps.foldl | apply Keeps.advance)
    | (with_reducible first | exact Nat.le_refl _ | exact id | exact fun _ h => h | apply swf_sset | apply swf_swrite | apply swf_sstores | apply swf_filter | apply Mem.write_wf | apply Mem.restoreBlock_wf)
    | (intro _; try dsimp only)
    | split
    | with_reducible apply Keeps.upd)

theorem groupDestroy_keeps {s0 : State} (fn : Fn) (p : Fin 4) (g : Nat) (s : State) (hK : Keeps s0 s) : Keeps s0 (groupDestroy fn p g s) := by
  unfold groupDestroy
  try dsimp only
  repeat' (first
    | (with_reducible first | assumption | exact Keeps.refl _ | apply State.setPart_keeps | apply Keeps.ite | apply Keeps.foldl | apply Keeps.advance)
    | (with_reducible first | exact Nat.le_refl _ | exact id | exact fun _ h => h | apply swf_sset | apply swf_swrite | apply swf_sstores | apply swf_filter | apply Mem.write_wf | apply Mem.restoreBlock_wf)
    | (intro _; try dsimp only)
    | split
    | with_reducible apply Keeps.upd)

theorem partitionEnable_keeps {s0 : State} (fn : Fn) (p : Fin 4) (s : State) (hK : Keeps s0 s) : Keeps s0 (partitionEnable fn p s) := by
  unfold partitionEnable
  try dsimp only
  repeat' (first
    | (with_reducible first | assumption | exact Keeps.refl _ | apply State.firstCut_keeps | apply State.setPart_keeps | apply Keeps.ite | apply Keeps.foldl | apply Keeps.advance)
    | (with_reducible first | exact Nat.le_refl _ | exact id | exact fun _ h => h | apply swf_sset | apply swf_swrite | apply swf_sstores | apply swf_filter | apply Mem.write_wf | apply Mem.restoreBlock_wf)
    | (intro _; try dsimp only)
    | split
    | with_reducible apply Keeps.upd)

theorem partitionDisable_keeps {s0 : State} (fn : Fn) (p : Fin 4) (s : State) (hK : Keeps s0 s) : Keeps s0 (partitionDisable fn p s) := by
  unfold partitionDisable
  try dsimp only
  repeat' (first
    | (with_reducible first | assumption | exact Keeps.refl _ | apply State.drainQueue_keeps | apply State.modPart_keeps | apply State.setPart_keeps | apply Keeps.ite | apply Keeps.foldl | apply Keeps.advance)
    | (with_reducible first | exact Nat.le_refl _ | exact id | exact fun _ h => h | apply swf_sset | apply swf_swrite | apply swf_sstores | apply swf_filter | apply Mem.write_wf | apply Mem.restoreBlock_wf)
    | (intro _; try dsimp only)
    | split
    | with_reducible apply Keeps.upd)

theorem irqTimerExpiry_keeps {s0 : State} (p : Fin 4) (q : Nat) (s : State) (hK : Keeps s0 s) : Keeps s0 (irqTimerExpiry p q s) := by
  unfold irqTimerExpiry
  try dsimp only
  repeat' (first
    | (with_reducible first | assumption | exact Keeps.refl _ | apply State.modQueue_keeps | apply State.raiseMsix_keeps | apply Keeps.ite | apply Keeps.foldl | apply Keeps.advance)
    | (with_reducible first | exact Nat.le_refl _ | exact id | exact fun _ h => h | apply swf_sset | apply swf_swrite | apply swf_sstores | apply swf_filter | apply Mem.write_wf | apply Mem.restoreBlock_wf)
    | (intro _; try dsimp only)
    | split
    | with_reducible apply Keeps.upd)

theorem msixVectorUnmask_keeps {s0 : State} (fn : Fn) (v : Nat) (s : State) (hK : Keeps s0 s) : Keeps s0 (msixVectorUnmask fn v s) := by
  unfold msixVectorUnmask
  try dsimp only
  repeat' (first
    | (with_reducible first | assumption | exact Keeps.refl _ | apply State.sendMsix_keeps | apply deviceReady_keeps | apply Keeps.ite | apply Keeps.foldl | apply Keeps.advance)
    | (with_reducible first | exact Nat.le_refl _ | exact id | exact fun _ h => h | apply swf_sset | apply swf_swrite | apply swf_sstores | apply swf_filter | apply Mem.write_wf | apply Mem.restoreBlock_wf)
    | (intro _; try dsimp only)
    | split
    | with_reducible apply Keeps.upd)

end Sys2Proof.Machine
end

