-- ==== Sys2Proof/Laws/KeepsEpoch.lean ====
section
/-! SUPPORT. What the operations of Machine/Epoch.lean keep (Laws/Keeps.lean). -/

namespace Sys2Proof.Machine

theorem Cores.boundary_retired (k : Cores) (p : Fin 4) (tick : Nat) (owns : Nat → Bool) : ∀ x ∈ k.retired, x ∈ (k.boundary p tick owns).retired := fun _ h => h


theorem epochWatchdogClose_keeps {s0 : State} (p : Fin 4) (s : State) (hK : Keeps s0 s) : Keeps s0 (epochWatchdogClose p s) := by
  unfold epochWatchdogClose
  try dsimp only
  repeat' (first
    | (with_reducible first | assumption | exact Keeps.refl _ | apply State.modPart_keeps | apply Keeps.ite | apply Keeps.foldl | apply Keeps.advance)
    | (with_reducible first | exact Nat.le_refl _ | exact id | exact fun _ h => h | apply swf_sset | apply swf_swrite | apply swf_sstores | apply swf_filter | apply Mem.write_wf | apply Mem.restoreBlock_wf | apply Cores.boundary_retired)
    | (intro _; try dsimp only)
    | split
    | with_reducible apply Keeps.upd)

theorem State.capture_keeps {s0 : State} (s : State) (p : Fin 4) (hK : Keeps s0 s) : Keeps s0 (State.capture s p) := by
  unfold State.capture
  try dsimp only
  repeat' (first
    | (with_reducible first | assumption | exact Keeps.refl _ | apply State.boundary_keeps | apply State.modPart_keeps | apply Keeps.ite | apply Keeps.foldl | apply Keeps.advance)
    | (with_reducible first | exact Nat.le_refl _ | exact id | exact fun _ h => h | apply swf_sset | apply swf_swrite | apply swf_sstores | apply swf_filter | apply Mem.write_wf | apply Mem.restoreBlock_wf | apply Cores.boundary_retired)
    | (intro _; try dsimp only)
    | split
    | with_reducible apply Keeps.upd)

theorem cutCapture_keeps {s0 : State} (p : Fin 4) (s : State) (hK : Keeps s0 s) : Keeps s0 (cutCapture p s) := by
  unfold cutCapture
  try dsimp only
  repeat' (first
    | (with_reducible first | assumption | exact Keeps.refl _ | apply State.capture_keeps | apply Keeps.ite | apply Keeps.foldl | apply Keeps.advance)
    | (with_reducible first | exact Nat.le_refl _ | exact id | exact fun _ h => h | apply swf_sset | apply swf_swrite | apply swf_sstores | apply swf_filter | apply Mem.write_wf | apply Mem.restoreBlock_wf | apply Cores.boundary_retired)
    | (intro _; try dsimp only)
    | split
    | with_reducible apply Keeps.upd)

theorem State.excPut_keeps {s0 : State} (s : State) (p : Fin 4) (b : Bytes) (fire : Bool) (hK : Keeps s0 s) : Keeps s0 (State.excPut s p b fire) := by
  unfold State.excPut
  try dsimp only
  repeat' (first
    | (with_reducible first | assumption | exact Keeps.refl _ | apply State.hostWrite_keeps | apply State.modPart_keeps | apply State.raiseMsix_keeps | apply Keeps.ite | apply Keeps.foldl | apply Keeps.advance)
    | (with_reducible first | exact Nat.le_refl _ | exact id | exact fun _ h => h | apply swf_sset | apply swf_swrite | apply swf_sstores | apply swf_filter | apply Mem.write_wf | apply Mem.restoreBlock_wf | apply Cores.boundary_retired)
    | (intro _; try dsimp only)
    | split
    | with_reducible apply Keeps.upd)

theorem State.signalRing_keeps {s0 : State} (s : State) (p : Fin 4) (q : Nat) (irq : Bool) (hK : Keeps s0 s) : Keeps s0 (State.signalRing s p q irq) := by
  unfold State.signalRing
  try dsimp only
  repeat' (first
    | (with_reducible first | assumption | exact Keeps.refl _ | apply State.modQueue_keeps | apply State.raiseMsix_keeps | apply Keeps.ite | apply Keeps.foldl | apply Keeps.advance)
    | (with_reducible first | exact Nat.le_refl _ | exact id | exact fun _ h => h | apply swf_sset | apply swf_swrite | apply swf_sstores | apply swf_filter | apply Mem.write_wf | apply Mem.restoreBlock_wf | apply Cores.boundary_retired)
    | (intro _; try dsimp only)
    | split
    | with_reducible apply Keeps.upd)

theorem State.writeExcs_keeps {s0 : State} (s : State) (p : Fin 4) (q : Nat) (e : Entry) (hK : Keeps s0 s) :
    Keeps s0 (State.writeExcs s p q e).1 := by
  unfold State.writeExcs
  dsimp only
  repeat' (first
    | (with_reducible first | assumption | exact Keeps.refl _ | apply State.excPut_keeps | apply State.modPart_keeps | apply State.raiseMsix_keeps | apply State.setPart_keeps | apply State.statusLine_keeps | apply Keeps.ite | apply Keeps.foldl | apply Keeps.advance)
    | (with_reducible first | exact Nat.le_refl _ | exact id | exact fun _ h => h | apply swf_sset | apply swf_swrite | apply swf_sstores | apply swf_filter | apply Mem.write_wf | apply Mem.restoreBlock_wf | apply Cores.boundary_retired)
    | (intro _; try dsimp only)
    | split
    | with_reducible apply Keeps.upd)

theorem State.writeRecord_keeps {s0 : State} (s : State) (p : Fin 4) (q : Nat) (e : Entry) (hK : Keeps s0 s) : Keeps s0 (State.writeRecord s p q e) := by
  unfold State.writeRecord
  try dsimp only
  repeat' (first
    | (with_reducible first | assumption | exact Keeps.refl _ | apply State.hostWrite_keeps | apply State.modQueue_keeps | apply State.signalRing_keeps | apply State.writeExcs_keeps | apply Keeps.ite | apply Keeps.foldl | apply Keeps.advance)
    | (with_reducible first | exact Nat.le_refl _ | exact id | exact fun _ h => h | apply swf_sset | apply swf_swrite | apply swf_sstores | apply swf_filter | apply Mem.write_wf | apply Mem.restoreBlock_wf | apply Cores.boundary_retired)
    | (intro _; try dsimp only)
    | split
    | with_reducible apply Keeps.upd)

theorem State.writeQueue_keeps {s0 : State} (s : State) (p : Fin 4) (epoch : Nat) (q : Nat) (hK : Keeps s0 s) : Keeps s0 (State.writeQueue s p epoch q) := by
  unfold State.writeQueue
  try dsimp only
  repeat' (first
    | (with_reducible first | assumption | exact Keeps.refl _ | apply State.writeRecord_keeps | apply Keeps.ite | apply Keeps.foldl | apply Keeps.advance)
    | (with_reducible first | exact Nat.le_refl _ | exact id | exact fun _ h => h | apply swf_sset | apply swf_swrite | apply swf_sstores | apply swf_filter | apply Mem.write_wf | apply Mem.restoreBlock_wf | apply Cores.boundary_retired)
    | (intro _; try dsimp only)
    | split
    | with_reducible apply Keeps.upd)

theorem State.unstage_keeps {s0 : State} (s : State) (p : Fin 4) (x : Staged) (hK : Keeps s0 s) : Keeps s0 (State.unstage s p x) := by
  unfold State.unstage
  try dsimp only
  repeat' (first
    | (with_reducible first | assumption | exact Keeps.refl _ | apply State.hostWrite_keeps | apply State.modPart_keeps | apply State.writeOutside_keeps | apply Keeps.ite | apply Keeps.foldl | apply Keeps.advance)
    | (with_reducible first | exact Nat.le_refl _ | exact id | exact fun _ h => h | apply swf_sset | apply swf_swrite | apply swf_sstores | apply swf_filter | apply Mem.write_wf | apply Mem.restoreBlock_wf | apply Cores.boundary_retired)
    | (intro _; try dsimp only)
    | split
    | with_reducible apply Keeps.upd)

theorem State.remoteSignal_keeps {s0 : State} (s : State) (p : Fin 4) (e : Entry) (hK : Keeps s0 s) : Keeps s0 (State.remoteSignal s p e) := by
  unfold State.remoteSignal
  try dsimp only
  repeat' (first
    | (with_reducible first | assumption | exact Keeps.refl _ | apply State.sendSignal_keeps | apply Keeps.ite | apply Keeps.foldl | apply Keeps.advance)
    | (with_reducible first | exact Nat.le_refl _ | exact id | exact fun _ h => h | apply swf_sset | apply swf_swrite | apply swf_sstores | apply swf_filter | apply Mem.write_wf | apply Mem.restoreBlock_wf | apply Cores.boundary_retired)
    | (intro _; try dsimp only)
    | split
    | with_reducible apply Keeps.upd)

theorem State.release_keeps {s0 : State} (s : State) (p : Fin 4) (x : Closed) (hK : Keeps s0 s) : Keeps s0 (State.release s p x) := by
  unfold State.release
  try dsimp only
  repeat' (first
    | (with_reducible first | assumption | exact Keeps.refl _ | apply State.clearArrivals_keeps | apply State.drift_keeps | apply State.modPart_keeps | apply State.remoteSignal_keeps | apply State.tally_keeps | apply State.unstage_keeps | apply State.writeQueue_keeps | apply Keeps.ite | apply Keeps.foldl | apply Keeps.advance)
    | (with_reducible first | exact Nat.le_refl _ | exact id | exact fun _ h => h | apply swf_sset | apply swf_swrite | apply swf_sstores | apply swf_filter | apply Mem.write_wf | apply Mem.restoreBlock_wf | apply Cores.boundary_retired)
    | (intro _; try dsimp only)
    | split
    | with_reducible apply Keeps.upd)

theorem epochRelease_keeps {s0 : State} (p : Fin 4) (s : State) (hK : Keeps s0 s) : Keeps s0 (epochRelease p s) := by
  unfold epochRelease
  try dsimp only
  repeat' (first
    | (with_reducible first | assumption | exact Keeps.refl _ | apply State.release_keeps | apply Keeps.ite | apply Keeps.foldl | apply Keeps.advance)
    | (with_reducible first | exact Nat.le_refl _ | exact id | exact fun _ h => h | apply swf_sset | apply swf_swrite | apply swf_sstores | apply swf_filter | apply Mem.write_wf | apply Mem.restoreBlock_wf | apply Cores.boundary_retired)
    | (intro _; try dsimp only)
    | split
    | with_reducible apply Keeps.upd)

theorem stepRecordWrite_keeps {s0 : State} (p : Fin 4) (s : State) (hK : Keeps s0 s) : Keeps s0 (stepRecordWrite p s) := by
  unfold stepRecordWrite
  try dsimp only
  repeat' (first
    | (with_reducible first | assumption | exact Keeps.refl _ | apply State.modPart_keeps | apply Keeps.ite | apply Keeps.foldl | apply Keeps.advance)
    | (with_reducible first | exact Nat.le_refl _ | exact id | exact fun _ h => h | apply swf_sset | apply swf_swrite | apply swf_sstores | apply swf_filter | apply Mem.write_wf | apply Mem.restoreBlock_wf | apply Cores.boundary_retired)
    | (intro _; try dsimp only)
    | split
    | with_reducible apply Keeps.upd)

end Sys2Proof.Machine
end

