-- ==== Sys2Proof/Laws/KeepsReplay.lean ====
section
/-! SUPPORT. What the operations of Machine/Replay.lean keep (Laws/Keeps.lean). -/

namespace Sys2Proof.Machine

theorem Cores.mem_place {k : Cores} {l phys x : Nat} (h : x ∈ k.retired) : x ∈ (k.place l phys).retired := h

theorem Cores.mem_strike {k : Cores} {phys tick x : Nat} (h : x ∈ k.retired) : x ∈ (k.strike phys tick).retired := h

theorem Mem.restored_wf (m : Mem) (p : Fin 4) (P : Part) (c : Cut) (h : swf 0 m.bytes = true) :
    swf 0 (m.restored p P c).bytes = true := by
  have hm := foldl_inv (fun (m : Mem) => swf 0 m.bytes = true) Mem.restoreBlock (fun m x h => Mem.restoreBlock_wf m x h)
    (P.shadows.filter (fun x => decide (P.released < x.epoch))) m h
  exact foldl_inv (fun (l : SMap Byte) => swf 0 l = true) _ (fun l _ hl => swf_sset 0 l _ _ hl) _ _ (swf_filter 0 _ _ hm)


theorem State.reloadSide_keeps {s0 : State} (s : State) (l : Nat) (hK : Keeps s0 s) : Keeps s0 (State.reloadSide s l) := by
  unfold State.reloadSide
  try dsimp only
  repeat' (first
    | (with_reducible first | assumption | exact Keeps.refl _ | apply copy_keeps | apply Keeps.ite | apply Keeps.foldl | apply Keeps.advance)
    | (with_reducible first | exact Nat.le_refl _ | exact id | exact fun _ h => h | apply swf_sset | apply swf_swrite | apply swf_sstores | apply swf_filter | apply Mem.write_wf | apply Mem.restoreBlock_wf | apply Mem.restored_wf | apply Cores.boundary_retired | apply Cores.mem_place | apply Cores.mem_strike | apply List.mem_append_left)
    | (intro _; try dsimp only)
    | split
    | with_reducible apply Keeps.upd)

theorem State.retire_keeps {s0 : State} (s : State) (cause l chunk epoch ns : Nat) (hK : Keeps s0 s) : Keeps s0 (State.retire s cause l chunk epoch ns) := by
  unfold State.retire
  try dsimp only
  repeat' (first
    | (with_reducible first | assumption | exact Keeps.refl _ | apply State.health_keeps | apply State.lifeNote_keeps | apply State.reloadSide_keeps | apply State.replace_keeps | apply Keeps.ite | apply Keeps.foldl | apply Keeps.advance)
    | (with_reducible first | exact Nat.le_refl _ | exact id | exact fun _ h => h | apply swf_sset | apply swf_swrite | apply swf_sstores | apply swf_filter | apply Mem.write_wf | apply Mem.restoreBlock_wf | apply Mem.restored_wf | apply Cores.boundary_retired | apply Cores.mem_place | apply Cores.mem_strike | apply List.mem_append_left)
    | (intro _; try dsimp only)
    | split
    | with_reducible apply Keeps.upd)

theorem strikeLapse_keeps {s0 : State} (phys : Nat) (s : State) (hK : Keeps s0 s) : Keeps s0 (strikeLapse phys s) := by
  unfold strikeLapse
  try dsimp only
  repeat' (first
    | (with_reducible first | assumption | exact Keeps.refl _ | apply Keeps.ite | apply Keeps.foldl | apply Keeps.advance)
    | (with_reducible first | exact Nat.le_refl _ | exact id | exact fun _ h => h | apply swf_sset | apply swf_swrite | apply swf_sstores | apply swf_filter | apply Mem.write_wf | apply Mem.restoreBlock_wf | apply Mem.restored_wf | apply Cores.boundary_retired | apply Cores.mem_place | apply Cores.mem_strike | apply List.mem_append_left)
    | (intro _; try dsimp only)
    | split
    | with_reducible apply Keeps.upd)

theorem State.countRebuild_keeps {s0 : State} (s : State) (p : Fin 4) (hK : Keeps s0 s) : Keeps s0 (State.countRebuild s p) := by
  unfold State.countRebuild
  try dsimp only
  repeat' (first
    | (with_reducible first | assumption | exact Keeps.refl _ | apply State.coreEvent_keeps | apply State.tally_keeps | apply sweep_keeps | apply Keeps.ite | apply Keeps.foldl | apply Keeps.advance)
    | (with_reducible first | exact Nat.le_refl _ | exact id | exact fun _ h => h | apply swf_sset | apply swf_swrite | apply swf_sstores | apply swf_filter | apply Mem.write_wf | apply Mem.restoreBlock_wf | apply Mem.restored_wf | apply Cores.boundary_retired | apply Cores.mem_place | apply Cores.mem_strike | apply List.mem_append_left)
    | (intro _; try dsimp only)
    | split
    | with_reducible apply Keeps.upd)

theorem State.rehome_keeps {s0 : State} (s : State) (p : Fin 4) (hK : Keeps s0 s) : Keeps s0 (State.rehome s p) := by
  unfold State.rehome
  try dsimp only
  repeat' (first
    | (with_reducible first | assumption | exact Keeps.refl _ | apply State.modThread_keeps | apply Keeps.ite | apply Keeps.foldl | apply Keeps.advance)
    | (with_reducible first | exact Nat.le_refl _ | exact id | exact fun _ h => h | apply swf_sset | apply swf_swrite | apply swf_sstores | apply swf_filter | apply Mem.write_wf | apply Mem.restoreBlock_wf | apply Mem.restored_wf | apply Cores.boundary_retired | apply Cores.mem_place | apply Cores.mem_strike | apply List.mem_append_left)
    | (intro _; try dsimp only)
    | split
    | with_reducible apply Keeps.upd)

theorem State.settleRestored_keeps {s0 : State} (s : State) (p : Fin 4) (hK : Keeps s0 s) : Keeps s0 (State.settleRestored s p) := by
  unfold State.settleRestored
  try dsimp only
  repeat' (first
    | (with_reducible first | assumption | exact Keeps.refl _ | apply State.failCmd_keeps | apply State.modEntry_keeps | apply sweep_keeps | apply Keeps.ite | apply Keeps.foldl | apply Keeps.advance)
    | (with_reducible first | exact Nat.le_refl _ | exact id | exact fun _ h => h | apply swf_sset | apply swf_swrite | apply swf_sstores | apply swf_filter | apply Mem.write_wf | apply Mem.restoreBlock_wf | apply Mem.restored_wf | apply Cores.boundary_retired | apply Cores.mem_place | apply Cores.mem_strike | apply List.mem_append_left)
    | (intro _; try dsimp only)
    | split
    | with_reducible apply Keeps.upd)

theorem State.restore_keeps {s0 : State} (s : State) (p : Fin 4) (hK : Keeps s0 s) : Keeps s0 (State.restore s p) := by
  unfold State.restore
  try dsimp only
  repeat' (first
    | (with_reducible first | assumption | exact Keeps.refl _ | apply State.countRebuild_keeps | apply State.fallBack_keeps | apply State.faultGone_keeps | apply State.modPart_keeps | apply State.rehome_keeps | apply State.setPart_keeps | apply State.settleRestored_keeps | apply State.tally_keeps | apply Keeps.ite | apply Keeps.foldl | apply Keeps.advance)
    | (with_reducible first | exact Nat.le_refl _ | exact id | exact fun _ h => h | apply swf_sset | apply swf_swrite | apply swf_sstores | apply swf_filter | apply Mem.write_wf | apply Mem.restoreBlock_wf | apply Mem.restored_wf | apply Cores.boundary_retired | apply Cores.mem_place | apply Cores.mem_strike | apply List.mem_append_left)
    | (intro _; try dsimp only)
    | split
    | with_reducible apply Keeps.upd)

theorem State.giveUp_keeps {s0 : State} (s : State) (before : Part) (p : Fin 4) (cause unit chunk flags tick : Nat) (hK : Keeps s0 s) : Keeps s0 (State.giveUp s before p cause unit chunk flags tick) := by
  unfold State.giveUp
  try dsimp only
  repeat' (first
    | (with_reducible first | assumption | exact Keeps.refl _ | apply State.capture_keeps | apply State.halt_keeps | apply State.health_keeps | apply State.modPart_keeps | apply State.release_keeps | apply State.stayBusy_keeps | apply Keeps.ite | apply Keeps.foldl | apply Keeps.advance)
    | (with_reducible first | exact Nat.le_refl _ | exact id | exact fun _ h => h | apply swf_sset | apply swf_swrite | apply swf_sstores | apply swf_filter | apply Mem.write_wf | apply Mem.restoreBlock_wf | apply Mem.restored_wf | apply Cores.boundary_retired | apply Cores.mem_place | apply Cores.mem_strike | apply List.mem_append_left)
    | (intro _; try dsimp only)
    | split
    | with_reducible apply Keeps.upd)

/-- Recovery keeps what the step between the restore and the resumption keeps. -/
theorem State.recoverPart_keeps {s0 : State} (s : State) (p : Fin 4) (cause unit chunk t : Nat) (before : Nat → Nat → State → State)
    (hb : ∀ a b u, Keeps s0 u → Keeps s0 (before a b u)) (hK : Keeps s0 s) : Keeps s0 (State.recoverPart s p cause unit chunk t before) := by
  unfold State.recoverPart
  dsimp only
  repeat' (first
    | (with_reducible first | assumption | exact Keeps.refl _ | apply hb | apply State.giveUp_keeps | apply State.health_keeps | apply State.modPart_keeps | apply State.restore_keeps | apply State.trace_keeps | apply Keeps.ite | apply Keeps.foldl | apply Keeps.advance)
    | (with_reducible first | exact Nat.le_refl _ | exact id | exact fun _ h => h | apply swf_sset | apply swf_swrite | apply swf_sstores | apply swf_filter | apply Mem.write_wf | apply Mem.restoreBlock_wf | apply Mem.restored_wf | apply Cores.boundary_retired | apply Cores.mem_place | apply Cores.mem_strike | apply List.mem_append_left)
    | (intro _; try dsimp only)
    | split
    | with_reducible apply Keeps.upd)
/-- Recovery with nothing between the restore and the resumption. -/
theorem State.recoverPartId_keeps {s0 : State} (s : State) (p : Fin 4) (cause unit chunk t : Nat) (hK : Keeps s0 s) :
    Keeps s0 (State.recoverPart s p cause unit chunk t (fun _ _ u => u)) :=
  State.recoverPart_keeps s p cause unit chunk t (fun _ _ u => u) (fun _ _ _ h => h) hK


theorem State.recoverMany_keeps {s0 : State} (s : State) (who : Fin 4 → Bool) (cause unit : Nat) (hK : Keeps s0 s) : Keeps s0 (State.recoverMany s who cause unit) := by
  unfold State.recoverMany
  exact Keeps.foldl (fun _ _ h => Keeps.ite (fun _ => State.recoverPartId_keeps _ _ _ _ _ _ h) (fun _ => h)) hK


theorem State.recoverCore_keeps {s0 : State} (s : State) (p : Fin 4) (cause core chunk : Nat) (hK : Keeps s0 s) : Keeps s0 (State.recoverCore s p cause core chunk) := by
  unfold State.recoverCore
  extract_lets phys out side
  refine State.recoverPart_keeps _ _ _ _ _ _ _ (fun _ _ t h => ?_) (State.modPart_keeps _ _ _ ?_)
  · exact Keeps.ite (fun _ => State.retire_keeps _ _ _ _ _ _ h) (fun _ => Keeps.ite (fun _ => State.reloadSide_keeps _ _ h) (fun _ => h))
  · exact hK.upd (Nat.le_refl _) id id (Nat.le_refl _) (fun _ h => Cores.mem_strike h)


theorem State.repairRow_keeps {s0 : State} (s : State) (stack row cause : Nat) (hK : Keeps s0 s) : Keeps s0 (State.repairRow s stack row cause) := by
  unfold State.repairRow
  try dsimp only
  repeat' (first
    | (with_reducible first | assumption | exact Keeps.refl _ | apply State.health_keeps | apply State.lifeNote_keeps | apply State.replace_keeps | apply State.tally_keeps | apply Keeps.ite | apply Keeps.foldl | apply Keeps.advance)
    | (with_reducible first | exact Nat.le_refl _ | exact id | exact fun _ h => h | apply swf_sset | apply swf_swrite | apply swf_sstores | apply swf_filter | apply Mem.write_wf | apply Mem.restoreBlock_wf | apply Mem.restored_wf | apply Cores.boundary_retired | apply Cores.mem_place | apply Cores.mem_strike | apply List.mem_append_left)
    | (intro _; try dsimp only)
    | split
    | with_reducible apply Keeps.upd)

theorem recover_keeps {s0 : State} (f : FaultReport) (s : State) (hK : Keeps s0 s) : Keeps s0 (recover f s) := by
  unfold recover
  split
  · exact Keeps.ite (fun _ => State.recoverCore_keeps _ _ _ _ _ hK) (fun _ => hK)
  · exact Keeps.ite (fun _ => State.recoverCore_keeps _ _ _ _ _ hK) (fun _ => hK)
  · exact State.recoverMany_keeps _ _ _ _ hK
  · exact State.recoverPartId_keeps _ _ _ _ _ _ hK
  · exact State.recoverPartId_keeps _ _ _ _ _ _ hK
  · exact State.recoverPartId_keeps _ _ _ _ _ _ (State.repairRow_keeps _ _ _ _
      (hK.upd (Nat.le_refl _) id id (Nat.le_refl _) fun _ h => h))
  · exact State.recoverMany_keeps _ _ _ _ hK
  · exact hK


theorem coreHang_keeps {s0 : State} (core : Nat) (s : State) (hK : Keeps s0 s) : Keeps s0 (coreHang core s) := by
  unfold coreHang
  refine Keeps.ite (fun _ => ?_) (fun _ => hK)
  dsimp only
  split
  · exact State.retire_keeps _ _ _ _ _ _ hK
  · exact State.recoverPart_keeps _ _ _ _ _ _ _ (fun _ _ _ h => State.retire_keeps _ _ _ _ _ _ h) hK


theorem drainRollback_keeps {s0 : State} (p : Fin 4) (s : State) (hK : Keeps s0 s) : Keeps s0 (drainRollback p s) := by
  unfold drainRollback
  try dsimp only
  repeat' (first
    | (with_reducible first | assumption | exact Keeps.refl _ | apply State.modPart_keeps | apply State.modQueue_keeps | apply State.restore_keeps | apply State.stayBusy_keeps | apply Keeps.ite | apply Keeps.foldl | apply Keeps.advance)
    | (with_reducible first | exact Nat.le_refl _ | exact id | exact fun _ h => h | apply swf_sset | apply swf_swrite | apply swf_sstores | apply swf_filter | apply Mem.write_wf | apply Mem.restoreBlock_wf | apply Mem.restored_wf | apply Cores.boundary_retired | apply Cores.mem_place | apply Cores.mem_strike | apply List.mem_append_left)
    | (intro _; try dsimp only)
    | split
    | with_reducible apply Keeps.upd)

theorem stackFailure_keeps {s0 : State} (stack : Fin 16) (s : State) (hK : Keeps s0 s) : Keeps s0 (stackFailure stack s) := by
  unfold stackFailure
  try dsimp only
  repeat' (first
    | (with_reducible first | assumption | exact Keeps.refl _ | apply State.drift_keeps | apply State.failCmd_keeps | apply State.health_keeps | apply State.modEntry_keeps | apply State.modPart_keeps | apply State.refuse_keeps | apply State.replace_keeps | apply Keeps.ite | apply Keeps.foldl | apply Keeps.advance)
    | (with_reducible first | exact Nat.le_refl _ | exact id | exact fun _ h => h | apply swf_sset | apply swf_swrite | apply swf_sstores | apply swf_filter | apply Mem.write_wf | apply Mem.restoreBlock_wf | apply Mem.restored_wf | apply Cores.boundary_retired | apply Cores.mem_place | apply Cores.mem_strike | apply List.mem_append_left)
    | (intro _; try dsimp only)
    | split
    | with_reducible apply Keeps.upd)

theorem State.uncorrectable_keeps {s0 : State} (s : State) (stack : Nat) (f : ScrubFinding) (hK : Keeps s0 s) : Keeps s0 (State.uncorrectable s stack f) := by
  unfold State.uncorrectable
  try dsimp only
  repeat' (first
    | (with_reducible first | assumption | exact Keeps.refl _ | apply State.lifeNote_keeps | apply State.repairRow_keeps | apply State.tally_keeps | apply Keeps.ite | apply Keeps.foldl | apply Keeps.advance)
    | (with_reducible first | exact Nat.le_refl _ | exact id | exact fun _ h => h | apply swf_sset | apply swf_swrite | apply swf_sstores | apply swf_filter | apply Mem.write_wf | apply Mem.restoreBlock_wf | apply Mem.restored_wf | apply Cores.boundary_retired | apply Cores.mem_place | apply Cores.mem_strike | apply List.mem_append_left)
    | (intro _; try dsimp only)
    | split
    | with_reducible apply Keeps.upd)

theorem State.corrected_keeps {s0 : State} (s : State) (stack : Nat) (f : ScrubFinding) (again : Bool) (hK : Keeps s0 s) : Keeps s0 (State.corrected s stack f again) := by
  unfold State.corrected
  try dsimp only
  repeat' (first
    | (with_reducible first | assumption | exact Keeps.refl _ | apply State.repairRow_keeps | apply State.tally_keeps | apply Keeps.ite | apply Keeps.foldl | apply Keeps.advance)
    | (with_reducible first | exact Nat.le_refl _ | exact id | exact fun _ h => h | apply swf_sset | apply swf_swrite | apply swf_sstores | apply swf_filter | apply Mem.write_wf | apply Mem.restoreBlock_wf | apply Mem.restored_wf | apply Cores.boundary_retired | apply Cores.mem_place | apply Cores.mem_strike | apply List.mem_append_left)
    | (intro _; try dsimp only)
    | split
    | with_reducible apply Keeps.upd)

theorem State.beyond_keeps {s0 : State} (s : State) (stack : Nat) (f : ScrubFinding) (hK : Keeps s0 s) : Keeps s0 (State.beyond s stack f) := by
  unfold State.beyond
  try dsimp only
  repeat' (first
    | (with_reducible first | assumption | exact Keeps.refl _ | apply State.uncorrectable_keeps | apply Keeps.ite | apply Keeps.foldl | apply Keeps.advance)
    | (with_reducible first | exact Nat.le_refl _ | exact id | exact fun _ h => h | apply swf_sset | apply swf_swrite | apply swf_sstores | apply swf_filter | apply Mem.write_wf | apply Mem.restoreBlock_wf | apply Mem.restored_wf | apply Cores.boundary_retired | apply Cores.mem_place | apply Cores.mem_strike | apply List.mem_append_left)
    | (intro _; try dsimp only)
    | split
    | with_reducible apply Keeps.upd)

theorem State.scrub_keeps {s0 : State} (stack : Nat) : ∀ (l : List ScrubFinding) (seen : List Nat) (s : State), Keeps s0 s →
    Keeps s0 (State.scrub s stack seen l)
  | [], _, _, hK => hK
  | f :: r, seen, s, hK => by
    unfold State.scrub
    refine Keeps.ite (fun _ => State.scrub_keeps stack r _ _ hK) (fun _ => ?_)
    split
    · exact State.scrub_keeps stack r _ _ (State.corrected_keeps _ _ _ _ hK)
    · exact State.scrub_keeps stack r _ _ (State.uncorrectable_keeps _ _ _ hK)
    · exact State.scrub_keeps stack r _ _ (State.beyond_keeps _ _ _ hK)

theorem patrolScrub_keeps {s0 : State} (stack : Fin 16) (found : List ScrubFinding) (s : State) (hK : Keeps s0 s) :
    Keeps s0 (patrolScrub stack found s) :=
  State.scrub_keeps _ _ _ _ hK


theorem State.retryCmd_keeps {s0 : State} (s : State) (c : Cid) (e : Entry) (hK : Keeps s0 s) : Keeps s0 (State.retryCmd s c e) := by
  unfold State.retryCmd
  try dsimp only
  repeat' (first
    | (with_reducible first | assumption | exact Keeps.refl _ | apply State.collOpen_keeps | apply State.collRegion_keeps | apply State.collSettle_keeps | apply State.copyEnd_keeps | apply State.engineResume_keeps | apply State.finishRest_keeps | apply State.pressEnd_keeps | apply State.pressUnit_keeps | apply Keeps.ite | apply Keeps.foldl | apply Keeps.advance)
    | (with_reducible first | exact Nat.le_refl _ | exact id | exact fun _ h => h | apply swf_sset | apply swf_swrite | apply swf_sstores | apply swf_filter | apply Mem.write_wf | apply Mem.restoreBlock_wf | apply Mem.restored_wf | apply Cores.boundary_retired | apply Cores.mem_place | apply Cores.mem_strike | apply List.mem_append_left)
    | (intro _; try dsimp only)
    | split
    | with_reducible apply Keeps.upd)

theorem State.retry_keeps {s0 : State} (s : State) (x : Stall) (hK : Keeps s0 s) : Keeps s0 (State.retry s x) := by
  unfold State.retry
  try dsimp only
  repeat' (first
    | (with_reducible first | assumption | exact Keeps.refl _ | apply State.retryCmd_keeps | apply copyOut_keeps | apply rowBwd_keeps | apply rowFwd_keeps | apply sweep_keeps | apply Keeps.ite | apply Keeps.foldl | apply Keeps.advance)
    | (with_reducible first | exact Nat.le_refl _ | exact id | exact fun _ h => h | apply swf_sset | apply swf_swrite | apply swf_sstores | apply swf_filter | apply Mem.write_wf | apply Mem.restoreBlock_wf | apply Mem.restored_wf | apply Cores.boundary_retired | apply Cores.mem_place | apply Cores.mem_strike | apply List.mem_append_left)
    | (intro _; try dsimp only)
    | split
    | with_reducible apply Keeps.upd)

theorem shadowBlockFreed_keeps {s0 : State} (p : Fin 4) (s : State) (hK : Keeps s0 s) : Keeps s0 (shadowBlockFreed p s) := by
  unfold shadowBlockFreed
  dsimp only
  split
  · exact hK
  · rename_i y hy
    obtain ⟨x, _, rfl⟩ := List.mem_map.1 (List.mem_of_find?_eq_some hy)
    exact State.retry_keeps _ _ (State.modPart_keeps _ _ _ hK)


end Sys2Proof.Machine
end

