-- ==== Sys2Proof/Laws/KeepsSeam.lean ====
section
/-! SUPPORT. What the operations of Machine/Seam.lean keep (Laws/Keeps.lean). -/

namespace Sys2Proof.Machine

theorem State.modSeam_keeps {s0 : State} (s : State) (i : Fin 12) (f : Seam → Seam) (hK : Keeps s0 s) : Keeps s0 (State.modSeam s i f) := by
  unfold State.modSeam
  try dsimp only
  repeat' (first
    | (with_reducible first | assumption | exact Keeps.refl _ | apply Keeps.ite | apply Keeps.foldl | apply Keeps.advance)
    | (with_reducible first | exact Nat.le_refl _ | exact id | exact fun _ h => h | apply swf_sset | apply swf_swrite | apply swf_sstores | apply swf_filter | apply Mem.write_wf | apply Mem.restoreBlock_wf | apply Mem.restored_wf | apply Cores.boundary_retired | apply Cores.mem_place | apply Cores.mem_strike | apply List.mem_append_left)
    | (intro _; try dsimp only)
    | split
    | with_reducible apply Keeps.upd)

theorem seamFlitReceive_keeps {s0 : State} (i : Fin 12) (d : Dir) (f : Flit) (s : State) (hK : Keeps s0 s) : Keeps s0 (seamFlitReceive i d f s) := by
  unfold seamFlitReceive
  try dsimp only
  repeat' (first
    | (with_reducible first | assumption | exact Keeps.refl _ | apply State.emit_keeps | apply State.modSeam_keeps | apply State.tally_keeps | apply Keeps.ite | apply Keeps.foldl | apply Keeps.advance)
    | (with_reducible first | exact Nat.le_refl _ | exact id | exact fun _ h => h | apply swf_sset | apply swf_swrite | apply swf_sstores | apply swf_filter | apply Mem.write_wf | apply Mem.restoreBlock_wf | apply Mem.restored_wf | apply Cores.boundary_retired | apply Cores.mem_place | apply Cores.mem_strike | apply List.mem_append_left)
    | (intro _; try dsimp only)
    | split
    | with_reducible apply Keeps.upd)

theorem seamAckTimer_keeps {s0 : State} (i : Fin 12) (d : Dir) (s : State) (hK : Keeps s0 s) : Keeps s0 (seamAckTimer i d s) := by
  unfold seamAckTimer
  try dsimp only
  repeat' (first
    | (with_reducible first | assumption | exact Keeps.refl _ | apply State.emit_keeps | apply State.modSeam_keeps | apply Keeps.ite | apply Keeps.foldl | apply Keeps.advance)
    | (with_reducible first | exact Nat.le_refl _ | exact id | exact fun _ h => h | apply swf_sset | apply swf_swrite | apply swf_sstores | apply swf_filter | apply Mem.write_wf | apply Mem.restoreBlock_wf | apply Mem.restored_wf | apply Cores.boundary_retired | apply Cores.mem_place | apply Cores.mem_strike | apply List.mem_append_left)
    | (intro _; try dsimp only)
    | split
    | with_reducible apply Keeps.upd)

theorem seamAckReceive_keeps {s0 : State} (i : Fin 12) (d : Dir) (seq : Nat) (s : State) (hK : Keeps s0 s) : Keeps s0 (seamAckReceive i d seq s) := by
  unfold seamAckReceive
  try dsimp only
  repeat' (first
    | (with_reducible first | assumption | exact Keeps.refl _ | apply State.modSeam_keeps | apply State.retry_keeps | apply Keeps.ite | apply Keeps.foldl | apply Keeps.advance)
    | (with_reducible first | exact Nat.le_refl _ | exact id | exact fun _ h => h | apply swf_sset | apply swf_swrite | apply swf_sstores | apply swf_filter | apply Mem.write_wf | apply Mem.restoreBlock_wf | apply Mem.restored_wf | apply Cores.boundary_retired | apply Cores.mem_place | apply Cores.mem_strike | apply List.mem_append_left)
    | (intro _; try dsimp only)
    | split
    | with_reducible apply Keeps.upd)

theorem seamNackReceive_keeps {s0 : State} (i : Fin 12) (d : Dir) (seq : Nat) (s : State) (hK : Keeps s0 s) : Keeps s0 (seamNackReceive i d seq s) := by
  unfold seamNackReceive
  try dsimp only
  repeat' (first
    | (with_reducible first | assumption | exact Keeps.refl _ | apply State.emit_keeps | apply State.modSeam_keeps | apply State.retry_keeps | apply State.tally_keeps | apply Keeps.ite | apply Keeps.foldl | apply Keeps.advance)
    | (with_reducible first | exact Nat.le_refl _ | exact id | exact fun _ h => h | apply swf_sset | apply swf_swrite | apply swf_sstores | apply swf_filter | apply Mem.write_wf | apply Mem.restoreBlock_wf | apply Mem.restored_wf | apply Cores.boundary_retired | apply Cores.mem_place | apply Cores.mem_strike | apply List.mem_append_left)
    | (intro _; try dsimp only)
    | split
    | with_reducible apply Keeps.upd)

theorem State.seamFault_keeps {s0 : State} (s : State) (i : Fin 12) (hK : Keeps s0 s) : Keeps s0 (State.seamFault s i) := by
  unfold State.seamFault
  try dsimp only
  repeat' (first
    | (with_reducible first | assumption | exact Keeps.refl _ | apply State.drift_keeps | apply State.modSeam_keeps | apply Keeps.ite | apply Keeps.foldl | apply Keeps.advance)
    | (with_reducible first | exact Nat.le_refl _ | exact id | exact fun _ h => h | apply swf_sset | apply swf_swrite | apply swf_sstores | apply swf_filter | apply Mem.write_wf | apply Mem.restoreBlock_wf | apply Mem.restored_wf | apply Cores.boundary_retired | apply Cores.mem_place | apply Cores.mem_strike | apply List.mem_append_left)
    | (intro _; try dsimp only)
    | split
    | with_reducible apply Keeps.upd)

theorem seamRetryExhausted_keeps {s0 : State} (i : Fin 12) (d : Dir) (s : State) (hK : Keeps s0 s) : Keeps s0 (seamRetryExhausted i d s) := by
  unfold seamRetryExhausted
  try dsimp only
  repeat' (first
    | (with_reducible first | assumption | exact Keeps.refl _ | apply State.retry_keeps | apply State.seamFault_keeps | apply Keeps.ite | apply Keeps.foldl | apply Keeps.advance)
    | (with_reducible first | exact Nat.le_refl _ | exact id | exact fun _ h => h | apply swf_sset | apply swf_swrite | apply swf_sstores | apply swf_filter | apply Mem.write_wf | apply Mem.restoreBlock_wf | apply Mem.restored_wf | apply Cores.boundary_retired | apply Cores.mem_place | apply Cores.mem_strike | apply List.mem_append_left)
    | (intro _; try dsimp only)
    | split
    | with_reducible apply Keeps.upd)

theorem controlWordReceive_keeps {s0 : State} (i : Fin 12) (d : Dir) (w : BitVec 40) (s : State) (hK : Keeps s0 s) : Keeps s0 (controlWordReceive i d w s) := by
  unfold controlWordReceive
  try dsimp only
  repeat' (first
    | (with_reducible first | assumption | exact Keeps.refl _ | apply State.modSeam_keeps | apply State.seamFault_keeps | apply State.tally_keeps | apply Keeps.ite | apply Keeps.foldl | apply Keeps.advance)
    | (with_reducible first | exact Nat.le_refl _ | exact id | exact fun _ h => h | apply swf_sset | apply swf_swrite | apply swf_sstores | apply swf_filter | apply Mem.write_wf | apply Mem.restoreBlock_wf | apply Mem.restored_wf | apply Cores.boundary_retired | apply Cores.mem_place | apply Cores.mem_strike | apply List.mem_append_left)
    | (intro _; try dsimp only)
    | split
    | with_reducible apply Keeps.upd)

theorem State.noteRepairs_keeps {s0 : State} (s : State) (die : Nat) (l : List Repair) (hK : Keeps s0 s) : Keeps s0 (State.noteRepairs s die l) := by
  unfold State.noteRepairs
  try dsimp only
  repeat' (first
    | (with_reducible first | assumption | exact Keeps.refl _ | apply State.lifeNote_keeps | apply Keeps.ite | apply Keeps.foldl | apply Keeps.advance)
    | (with_reducible first | exact Nat.le_refl _ | exact id | exact fun _ h => h | apply swf_sset | apply swf_swrite | apply swf_sstores | apply swf_filter | apply Mem.write_wf | apply Mem.restoreBlock_wf | apply Mem.restored_wf | apply Cores.boundary_retired | apply Cores.mem_place | apply Cores.mem_strike | apply List.mem_append_left)
    | (intro _; try dsimp only)
    | split
    | with_reducible apply Keeps.upd)

theorem State.checkPorts_keeps {s0 : State} (s : State) (hK : Keeps s0 s) : Keeps s0 (State.checkPorts s) := by
  unfold State.checkPorts
  try dsimp only
  repeat' (first
    | (with_reducible first | assumption | exact Keeps.refl _ | apply State.replace_keeps | apply Keeps.ite | apply Keeps.foldl | apply Keeps.advance)
    | (with_reducible first | exact Nat.le_refl _ | exact id | exact fun _ h => h | apply swf_sset | apply swf_swrite | apply swf_sstores | apply swf_filter | apply Mem.write_wf | apply Mem.restoreBlock_wf | apply Mem.restored_wf | apply Cores.boundary_retired | apply Cores.mem_place | apply Cores.mem_strike | apply List.mem_append_left)
    | (intro _; try dsimp only)
    | split
    | with_reducible apply Keeps.upd)

theorem State.seamUp_keeps {s0 : State} (s : State) (i : Fin 12) (hK : Keeps s0 s) : Keeps s0 (State.seamUp s i) := by
  unfold State.seamUp
  try dsimp only
  repeat' (first
    | (with_reducible first | assumption | exact Keeps.refl _ | apply State.checkPorts_keeps | apply State.drift_keeps | apply State.fallBack_keeps | apply State.modSeam_keeps | apply State.replace_keeps | apply Keeps.ite | apply Keeps.foldl | apply Keeps.advance)
    | (with_reducible first | exact Nat.le_refl _ | exact id | exact fun _ h => h | apply swf_sset | apply swf_swrite | apply swf_sstores | apply swf_filter | apply Mem.write_wf | apply Mem.restoreBlock_wf | apply Mem.restored_wf | apply Cores.boundary_retired | apply Cores.mem_place | apply Cores.mem_strike | apply List.mem_append_left)
    | (intro _; try dsimp only)
    | split
    | with_reducible apply Keeps.upd)

theorem seamRetraining_keeps {s0 : State} (i : Fin 12) (failing : List LaneResult) (s : State) (hK : Keeps s0 s) : Keeps s0 (seamRetraining i failing s) := by
  unfold seamRetraining
  try dsimp only
  repeat' (first
    | (with_reducible first | assumption | exact Keeps.refl _ | apply State.modSeam_keeps | apply State.noteRepairs_keeps | apply State.recoverMany_keeps | apply State.seamUp_keeps | apply State.tally_keeps | apply Keeps.ite | apply Keeps.foldl | apply Keeps.advance)
    | (with_reducible first | exact Nat.le_refl _ | exact id | exact fun _ h => h | apply swf_sset | apply swf_swrite | apply swf_sstores | apply swf_filter | apply Mem.write_wf | apply Mem.restoreBlock_wf | apply Mem.restored_wf | apply Cores.boundary_retired | apply Cores.mem_place | apply Cores.mem_strike | apply List.mem_append_left)
    | (intro _; try dsimp only)
    | split
    | with_reducible apply Keeps.upd)

theorem laneMapProposal_keeps {s0 : State} (i : Fin 12) (s : State) (hK : Keeps s0 s) : Keeps s0 (laneMapProposal i s) := by
  unfold laneMapProposal
  try dsimp only
  repeat' (first
    | (with_reducible first | assumption | exact Keeps.refl _ | apply State.emit_keeps | apply State.modSeam_keeps | apply Keeps.ite | apply Keeps.foldl | apply Keeps.advance)
    | (with_reducible first | exact Nat.le_refl _ | exact id | exact fun _ h => h | apply swf_sset | apply swf_swrite | apply swf_sstores | apply swf_filter | apply Mem.write_wf | apply Mem.restoreBlock_wf | apply Mem.restored_wf | apply Cores.boundary_retired | apply Cores.mem_place | apply Cores.mem_strike | apply List.mem_append_left)
    | (intro _; try dsimp only)
    | split
    | with_reducible apply Keeps.upd)

theorem laneMapCommit_keeps {s0 : State} (i : Fin 12) (s : State) (hK : Keeps s0 s) : Keeps s0 (laneMapCommit i s) := by
  unfold laneMapCommit
  try dsimp only
  repeat' (first
    | (with_reducible first | assumption | exact Keeps.refl _ | apply State.modSeam_keeps | apply State.noteRepairs_keeps | apply Keeps.ite | apply Keeps.foldl | apply Keeps.advance)
    | (with_reducible first | exact Nat.le_refl _ | exact id | exact fun _ h => h | apply swf_sset | apply swf_swrite | apply swf_sstores | apply swf_filter | apply Mem.write_wf | apply Mem.restoreBlock_wf | apply Mem.restored_wf | apply Cores.boundary_retired | apply Cores.mem_place | apply Cores.mem_strike | apply List.mem_append_left)
    | (intro _; try dsimp only)
    | split
    | with_reducible apply Keeps.upd)

theorem backgroundLaneTestEnd_keeps {s0 : State} (i : Fin 12) (failing : List LaneResult) (s : State) (hK : Keeps s0 s) : Keeps s0 (backgroundLaneTestEnd i failing s) := by
  unfold backgroundLaneTestEnd
  try dsimp only
  repeat' (first
    | (with_reducible first | assumption | exact Keeps.refl _ | apply State.emit_keeps | apply State.modSeam_keeps | apply State.noteRepairs_keeps | apply Keeps.ite | apply Keeps.foldl | apply Keeps.advance)
    | (with_reducible first | exact Nat.le_refl _ | exact id | exact fun _ h => h | apply swf_sset | apply swf_swrite | apply swf_sstores | apply swf_filter | apply Mem.write_wf | apply Mem.restoreBlock_wf | apply Mem.restored_wf | apply Cores.boundary_retired | apply Cores.mem_place | apply Cores.mem_strike | apply List.mem_append_left)
    | (intro _; try dsimp only)
    | split
    | with_reducible apply Keeps.upd)

theorem State.resetAdapter_keeps {s0 : State} (s : State) (i : Fin 12) (atB : Bool) (hK : Keeps s0 s) : Keeps s0 (State.resetAdapter s i atB) := by
  unfold State.resetAdapter
  try dsimp only
  repeat' (first
    | (with_reducible first | assumption | exact Keeps.refl _ | apply State.modSeam_keeps | apply State.seamFault_keeps | apply Keeps.ite | apply Keeps.foldl | apply Keeps.advance)
    | (with_reducible first | exact Nat.le_refl _ | exact id | exact fun _ h => h | apply swf_sset | apply swf_swrite | apply swf_sstores | apply swf_filter | apply Mem.write_wf | apply Mem.restoreBlock_wf | apply Mem.restored_wf | apply Cores.boundary_retired | apply Cores.mem_place | apply Cores.mem_strike | apply List.mem_append_left)
    | (intro _; try dsimp only)
    | split
    | with_reducible apply Keeps.upd)

end Sys2Proof.Machine
end

