-- ==== Sys2Proof/Laws/KeepsLink.lean ====
section
/-! SUPPORT. What the operations of Machine/Link.lean keep (Laws/Keeps.lean). -/

namespace Sys2Proof.Machine

theorem State.linkResend_keeps {s0 : State} (s : State) (i seq : Nat) (hK : Keeps s0 s) : Keeps s0 (State.linkResend s i seq) := by
  unfold State.linkResend
  try dsimp only
  repeat' (first
    | (with_reducible first | assumption | exact Keeps.refl _ | apply State.emit_keeps | apply State.modPort_keeps | apply State.retry_keeps | apply State.tele_keeps | apply Keeps.ite | apply Keeps.foldl | apply Keeps.advance)
    | (with_reducible first | exact Nat.le_refl _ | exact id | exact fun _ h => h | apply swf_sset | apply swf_swrite | apply swf_sstores | apply swf_filter | apply Mem.write_wf | apply Mem.restoreBlock_wf | apply Mem.restored_wf | apply Cores.boundary_retired | apply Cores.mem_place | apply Cores.mem_strike | apply List.mem_append_left)
    | (intro _; try dsimp only)
    | split
    | with_reducible apply Keeps.upd)

theorem linkFrameReceive_keeps {s0 : State} (i : Fin 32) (f : Frame) (s : State) (hK : Keeps s0 s) : Keeps s0 (linkFrameReceive i f s) := by
  unfold linkFrameReceive
  try dsimp only
  repeat' (first
    | (with_reducible first | assumption | exact Keeps.refl _ | apply State.linkResend_keeps | apply State.modPort_keeps | apply State.pump_keeps | apply State.tele_keeps | apply Keeps.ite | apply Keeps.foldl | apply Keeps.advance)
    | (with_reducible first | exact Nat.le_refl _ | exact id | exact fun _ h => h | apply swf_sset | apply swf_swrite | apply swf_sstores | apply swf_filter | apply Mem.write_wf | apply Mem.restoreBlock_wf | apply Mem.restored_wf | apply Cores.boundary_retired | apply Cores.mem_place | apply Cores.mem_strike | apply List.mem_append_left)
    | (intro _; try dsimp only)
    | split
    | with_reducible apply Keeps.upd)

theorem linkAckTimer_keeps {s0 : State} (i : Fin 32) (s : State) (hK : Keeps s0 s) : Keeps s0 (linkAckTimer i s) := by
  unfold linkAckTimer
  try dsimp only
  repeat' (first
    | (with_reducible first | assumption | exact Keeps.refl _ | apply State.modPort_keeps | apply State.pump_keeps | apply Keeps.ite | apply Keeps.foldl | apply Keeps.advance)
    | (with_reducible first | exact Nat.le_refl _ | exact id | exact fun _ h => h | apply swf_sset | apply swf_swrite | apply swf_sstores | apply swf_filter | apply Mem.write_wf | apply Mem.restoreBlock_wf | apply Mem.restored_wf | apply Cores.boundary_retired | apply Cores.mem_place | apply Cores.mem_strike | apply List.mem_append_left)
    | (intro _; try dsimp only)
    | split
    | with_reducible apply Keeps.upd)

theorem linkNackReceive_keeps {s0 : State} (i : Fin 32) (seq : Nat) (s : State) (hK : Keeps s0 s) : Keeps s0 (linkNackReceive i seq s) := by
  unfold linkNackReceive
  try dsimp only
  repeat' (first
    | (with_reducible first | assumption | exact Keeps.refl _ | apply State.linkResend_keeps | apply Keeps.ite | apply Keeps.foldl | apply Keeps.advance)
    | (with_reducible first | exact Nat.le_refl _ | exact id | exact fun _ h => h | apply swf_sset | apply swf_swrite | apply swf_sstores | apply swf_filter | apply Mem.write_wf | apply Mem.restoreBlock_wf | apply Mem.restored_wf | apply Cores.boundary_retired | apply Cores.mem_place | apply Cores.mem_strike | apply List.mem_append_left)
    | (intro _; try dsimp only)
    | split
    | with_reducible apply Keeps.upd)

theorem State.dropLink_keeps {s0 : State} (s : State) (i : Nat) (hK : Keeps s0 s) : Keeps s0 (State.dropLink s i) := by
  unfold State.dropLink
  try dsimp only
  repeat' (first
    | (with_reducible first | assumption | exact Keeps.refl _ | apply State.drift_keeps | apply State.modPort_keeps | apply State.tele_keeps | apply Keeps.ite | apply Keeps.foldl | apply Keeps.advance)
    | (with_reducible first | exact Nat.le_refl _ | exact id | exact fun _ h => h | apply swf_sset | apply swf_swrite | apply swf_sstores | apply swf_filter | apply Mem.write_wf | apply Mem.restoreBlock_wf | apply Mem.restored_wf | apply Cores.boundary_retired | apply Cores.mem_place | apply Cores.mem_strike | apply List.mem_append_left)
    | (intro _; try dsimp only)
    | split
    | with_reducible apply Keeps.upd)

theorem linkDrop_keeps {s0 : State} (i : Fin 32) (s : State) (hK : Keeps s0 s) : Keeps s0 (linkDrop i s) := by
  unfold linkDrop
  try dsimp only
  repeat' (first
    | (with_reducible first | assumption | exact Keeps.refl _ | apply State.dropLink_keeps | apply State.retry_keeps | apply Keeps.ite | apply Keeps.foldl | apply Keeps.advance)
    | (with_reducible first | exact Nat.le_refl _ | exact id | exact fun _ h => h | apply swf_sset | apply swf_swrite | apply swf_sstores | apply swf_filter | apply Mem.write_wf | apply Mem.restoreBlock_wf | apply Mem.restored_wf | apply Cores.boundary_retired | apply Cores.mem_place | apply Cores.mem_strike | apply List.mem_append_left)
    | (intro _; try dsimp only)
    | split
    | with_reducible apply Keeps.upd)

theorem portTrained_keeps {s0 : State} (i : Fin 32) (s : State) (hK : Keeps s0 s) : Keeps s0 (portTrained i s) := by
  unfold portTrained
  try dsimp only
  repeat' (first
    | (with_reducible first | assumption | exact Keeps.refl _ | apply State.emit_keeps | apply State.modPort_keeps | apply Keeps.ite | apply Keeps.foldl | apply Keeps.advance)
    | (with_reducible first | exact Nat.le_refl _ | exact id | exact fun _ h => h | apply swf_sset | apply swf_swrite | apply swf_sstores | apply swf_filter | apply Mem.write_wf | apply Mem.restoreBlock_wf | apply Mem.restored_wf | apply Cores.boundary_retired | apply Cores.mem_place | apply Cores.mem_strike | apply List.mem_append_left)
    | (intro _; try dsimp only)
    | split
    | with_reducible apply Keeps.upd)

theorem State.openPort_keeps {s0 : State} (s : State) (i : Nat) (hK : Keeps s0 s) : Keeps s0 (State.openPort s i) := by
  unfold State.openPort
  try dsimp only
  repeat' (first
    | (with_reducible first | assumption | exact Keeps.refl _ | apply State.modPort_keeps | apply State.pump_keeps | apply Keeps.ite | apply Keeps.foldl | apply Keeps.advance)
    | (with_reducible first | exact Nat.le_refl _ | exact id | exact fun _ h => h | apply swf_sset | apply swf_swrite | apply swf_sstores | apply swf_filter | apply Mem.write_wf | apply Mem.restoreBlock_wf | apply Mem.restored_wf | apply Cores.boundary_retired | apply Cores.mem_place | apply Cores.mem_strike | apply List.mem_append_left)
    | (intro _; try dsimp only)
    | split
    | with_reducible apply Keeps.upd)

theorem State.spdmSend_keeps {s0 : State} (s : State) (i : Nat) (hK : Keeps s0 s) : Keeps s0 (State.spdmSend s i) := by
  unfold State.spdmSend
  try dsimp only
  repeat' (first
    | (with_reducible first | assumption | exact Keeps.refl _ | apply State.modPort_keeps | apply State.transmit_keeps | apply Keeps.ite | apply Keeps.foldl | apply Keeps.advance)
    | (with_reducible first | exact Nat.le_refl _ | exact id | exact fun _ h => h | apply swf_sset | apply swf_swrite | apply swf_sstores | apply swf_filter | apply Mem.write_wf | apply Mem.restoreBlock_wf | apply Mem.restored_wf | apply Cores.boundary_retired | apply Cores.mem_place | apply Cores.mem_strike | apply List.mem_append_left)
    | (intro _; try dsimp only)
    | split
    | with_reducible apply Keeps.upd)

theorem helloReceive_keeps {s0 : State} (i : Fin 32) (h : Hello) (s : State) (hK : Keeps s0 s) : Keeps s0 (helloReceive i h s) := by
  unfold helloReceive
  try dsimp only
  repeat' (first
    | (with_reducible first | assumption | exact Keeps.refl _ | apply State.drift_keeps | apply State.modPort_keeps | apply State.openPort_keeps | apply State.pump_keeps | apply State.releaseHeld_keeps | apply State.spdmSend_keeps | apply Keeps.ite | apply Keeps.foldl | apply Keeps.advance)
    | (with_reducible first | exact Nat.le_refl _ | exact id | exact fun _ h => h | apply swf_sset | apply swf_swrite | apply swf_sstores | apply swf_filter | apply Mem.write_wf | apply Mem.restoreBlock_wf | apply Mem.restored_wf | apply Cores.boundary_retired | apply Cores.mem_place | apply Cores.mem_strike | apply List.mem_append_left)
    | (intro _; try dsimp only)
    | split
    | with_reducible apply Keeps.upd)

theorem State.faultPlans_keeps {s0 : State} (s : State) (port : Nat) (hK : Keeps s0 s) : Keeps s0 (State.faultPlans s port) := by
  unfold State.faultPlans
  try dsimp only
  repeat' (first
    | (with_reducible first | assumption | exact Keeps.refl _ | apply State.recoverPartId_keeps | apply State.recoverPart_keeps | apply Keeps.ite | apply Keeps.foldl | apply Keeps.advance)
    | (with_reducible first | exact Nat.le_refl _ | exact id | exact fun _ h => h | apply swf_sset | apply swf_swrite | apply swf_sstores | apply swf_filter | apply Mem.write_wf | apply Mem.restoreBlock_wf | apply Mem.restored_wf | apply Cores.boundary_retired | apply Cores.mem_place | apply Cores.mem_strike | apply List.mem_append_left)
    | (intro _; try dsimp only)
    | split
    | with_reducible apply Keeps.upd)

theorem portLost_keeps {s0 : State} (i : Fin 32) (s : State) (hK : Keeps s0 s) : Keeps s0 (portLost i s) := by
  unfold portLost
  try dsimp only
  repeat' (first
    | (with_reducible first | assumption | exact Keeps.refl _ | apply State.checkPorts_keeps | apply State.drift_keeps | apply State.faultPlans_keeps | apply State.lifeNote_keeps | apply State.modPort_keeps | apply Keeps.ite | apply Keeps.foldl | apply Keeps.advance)
    | (with_reducible first | exact Nat.le_refl _ | exact id | exact fun _ h => h | apply swf_sset | apply swf_swrite | apply swf_sstores | apply swf_filter | apply Mem.write_wf | apply Mem.restoreBlock_wf | apply Mem.restored_wf | apply Cores.boundary_retired | apply Cores.mem_place | apply Cores.mem_strike | apply List.mem_append_left)
    | (intro _; try dsimp only)
    | split
    | with_reducible apply Keeps.upd)

theorem portEnableWrite_keeps {s0 : State} (fn : Fn) (i : Fin 32) (value : W32) (s : State) (hK : Keeps s0 s) : Keeps s0 (portEnableWrite fn i value s) := by
  unfold portEnableWrite
  try dsimp only
  repeat' (first
    | (with_reducible first | assumption | exact Keeps.refl _ | apply State.drift_keeps | apply State.modPort_keeps | apply Keeps.ite | apply Keeps.foldl | apply Keeps.advance)
    | (with_reducible first | exact Nat.le_refl _ | exact id | exact fun _ h => h | apply swf_sset | apply swf_swrite | apply swf_sstores | apply swf_filter | apply Mem.write_wf | apply Mem.restoreBlock_wf | apply Mem.restored_wf | apply Cores.boundary_retired | apply Cores.mem_place | apply Cores.mem_strike | apply List.mem_append_left)
    | (intro _; try dsimp only)
    | split
    | with_reducible apply Keeps.upd)

theorem portQuotaWrite_keeps {s0 : State} (fn : Fn) (i : Fin 32) (value : W32) (s : State) (hK : Keeps s0 s) : Keeps s0 (portQuotaWrite fn i value s) := by
  unfold portQuotaWrite
  try dsimp only
  repeat' (first
    | (with_reducible first | assumption | exact Keeps.refl _ | apply State.modPort_keeps | apply Keeps.ite | apply Keeps.foldl | apply Keeps.advance)
    | (with_reducible first | exact Nat.le_refl _ | exact id | exact fun _ h => h | apply swf_sset | apply swf_swrite | apply swf_sstores | apply swf_filter | apply Mem.write_wf | apply Mem.restoreBlock_wf | apply Mem.restored_wf | apply Cores.boundary_retired | apply Cores.mem_place | apply Cores.mem_strike | apply List.mem_append_left)
    | (intro _; try dsimp only)
    | split
    | with_reducible apply Keeps.upd)

theorem telemetryClearMax_keeps {s0 : State} (fn : Fn) (s : State) (hK : Keeps s0 s) : Keeps s0 (telemetryClearMax fn s) := by
  unfold telemetryClearMax
  try dsimp only
  repeat' (first
    | (with_reducible first | assumption | exact Keeps.refl _ | apply State.modPort_keeps | apply Keeps.ite | apply Keeps.foldl | apply Keeps.advance)
    | (with_reducible first | exact Nat.le_refl _ | exact id | exact fun _ h => h | apply swf_sset | apply swf_swrite | apply swf_sstores | apply swf_filter | apply Mem.write_wf | apply Mem.restoreBlock_wf | apply Mem.restored_wf | apply Cores.boundary_retired | apply Cores.mem_place | apply Cores.mem_strike | apply List.mem_append_left)
    | (intro _; try dsimp only)
    | split
    | with_reducible apply Keeps.upd)

theorem fabricStall_keeps {s0 : State} (i : Fin 32) (stream cls : Nat) (s : State) (hK : Keeps s0 s) : Keeps s0 (fabricStall i stream cls s) := by
  unfold fabricStall
  try dsimp only
  repeat' (first
    | (with_reducible first | assumption | exact Keeps.refl _ | apply State.health_keeps | apply State.modPort_keeps | apply Keeps.ite | apply Keeps.foldl | apply Keeps.advance)
    | (with_reducible first | exact Nat.le_refl _ | exact id | exact fun _ h => h | apply swf_sset | apply swf_swrite | apply swf_sstores | apply swf_filter | apply Mem.write_wf | apply Mem.restoreBlock_wf | apply Mem.restored_wf | apply Cores.boundary_retired | apply Cores.mem_place | apply Cores.mem_strike | apply List.mem_append_left)
    | (intro _; try dsimp only)
    | split
    | with_reducible apply Keeps.upd)

theorem keySlotSwitch_keeps {s0 : State} (i : Fin 32) (tx : Bool) (s : State) (hK : Keeps s0 s) : Keeps s0 (keySlotSwitch i tx s) := by
  unfold keySlotSwitch
  try dsimp only
  repeat' (first
    | (with_reducible first | assumption | exact Keeps.refl _ | apply State.modPort_keeps | apply Keeps.ite | apply Keeps.foldl | apply Keeps.advance)
    | (with_reducible first | exact Nat.le_refl _ | exact id | exact fun _ h => h | apply swf_sset | apply swf_swrite | apply swf_sstores | apply swf_filter | apply Mem.write_wf | apply Mem.restoreBlock_wf | apply Mem.restored_wf | apply Cores.boundary_retired | apply Cores.mem_place | apply Cores.mem_strike | apply List.mem_append_left)
    | (intro _; try dsimp only)
    | split
    | with_reducible apply Keeps.upd)

theorem State.installKeys_keeps {s0 : State} (s : State) (i : Nat) (hK : Keeps s0 s) : Keeps s0 (State.installKeys s i) := by
  unfold State.installKeys
  try dsimp only
  repeat' (first
    | (with_reducible first | assumption | exact Keeps.refl _ | apply State.modPort_keeps | apply Keeps.ite | apply Keeps.foldl | apply Keeps.advance)
    | (with_reducible first | exact Nat.le_refl _ | exact id | exact fun _ h => h | apply swf_sset | apply swf_swrite | apply swf_sstores | apply swf_filter | apply Mem.write_wf | apply Mem.restoreBlock_wf | apply Mem.restored_wf | apply Cores.boundary_retired | apply Cores.mem_place | apply Cores.mem_strike | apply List.mem_append_left)
    | (intro _; try dsimp only)
    | split
    | with_reducible apply Keeps.upd)

end Sys2Proof.Machine
end

