-- ==== Sys2Proof/Laws/KeepsFabric.lean ====
section
/-! SUPPORT. What the operations of Machine/Fabric.lean keep (Laws/Keeps.lean). -/

namespace Sys2Proof.Machine

theorem State.pegArrival_keeps {s0 : State} (s : State) (i : Nat) (pkt : Packet) (hK : Keeps s0 s) : Keeps s0 (State.pegArrival s i pkt) := by
  unfold State.pegArrival
  try dsimp only
  repeat' (first
    | (with_reducible first | assumption | exact Keeps.refl _ | apply State.tele_keeps | apply peg_keeps | apply Keeps.ite | apply Keeps.foldl | apply Keeps.advance)
    | (with_reducible first | exact Nat.le_refl _ | exact id | exact fun _ h => h | apply swf_sset | apply swf_swrite | apply swf_sstores | apply swf_filter | apply Mem.write_wf | apply Mem.restoreBlock_wf | apply Mem.restored_wf | apply Cores.boundary_retired | apply Cores.mem_place | apply Cores.mem_strike | apply List.mem_append_left)
    | (intro _; try dsimp only)
    | split
    | with_reducible apply Keeps.upd)

theorem State.authFailure_keeps {s0 : State} (s : State) (i : Nat) (hK : Keeps s0 s) : Keeps s0 (State.authFailure s i) := by
  unfold State.authFailure
  try dsimp only
  repeat' (first
    | (with_reducible first | assumption | exact Keeps.refl _ | apply State.dropLink_keeps | apply State.tele_keeps | apply Keeps.ite | apply Keeps.foldl | apply Keeps.advance)
    | (with_reducible first | exact Nat.le_refl _ | exact id | exact fun _ h => h | apply swf_sset | apply swf_swrite | apply swf_sstores | apply swf_filter | apply Mem.write_wf | apply Mem.restoreBlock_wf | apply Mem.restored_wf | apply Cores.boundary_retired | apply Cores.mem_place | apply Cores.mem_strike | apply List.mem_append_left)
    | (intro _; try dsimp only)
    | split
    | with_reducible apply Keeps.upd)

theorem State.countAt_keeps {s0 : State} (s : State) (at' : Option Nat) (k : Nat) (hK : Keeps s0 s) : Keeps s0 (State.countAt s at' k) := by
  unfold State.countAt
  try dsimp only
  repeat' (first
    | (with_reducible first | assumption | exact Keeps.refl _ | apply State.tele_keeps | apply Keeps.ite | apply Keeps.foldl | apply Keeps.advance)
    | (with_reducible first | exact Nat.le_refl _ | exact id | exact fun _ h => h | apply swf_sset | apply swf_swrite | apply swf_sstores | apply swf_filter | apply Mem.write_wf | apply Mem.restoreBlock_wf | apply Mem.restored_wf | apply Cores.boundary_retired | apply Cores.mem_place | apply Cores.mem_strike | apply List.mem_append_left)
    | (intro _; try dsimp only)
    | split
    | with_reducible apply Keeps.upd)

theorem State.sendAck_keeps {s0 : State} (s : State) (p : Fin 4) (flow src status expected : Nat) (hK : Keeps s0 s) : Keeps s0 (State.sendAck s p flow src status expected) := by
  unfold State.sendAck
  try dsimp only
  repeat' (first
    | (with_reducible first | assumption | exact Keeps.refl _ | apply State.inject_keeps | apply Keeps.ite | apply Keeps.foldl | apply Keeps.advance)
    | (with_reducible first | exact Nat.le_refl _ | exact id | exact fun _ h => h | apply swf_sset | apply swf_swrite | apply swf_sstores | apply swf_filter | apply Mem.write_wf | apply Mem.restoreBlock_wf | apply Mem.restored_wf | apply Cores.boundary_retired | apply Cores.mem_place | apply Cores.mem_strike | apply List.mem_append_left)
    | (intro _; try dsimp only)
    | split
    | with_reducible apply Keeps.upd)

theorem State.applyPacket_keeps {s0 : State} (s : State) (a : Arrival) (pkt : Packet) (hK : Keeps s0 s) : Keeps s0 (State.applyPacket s a pkt) := by
  unfold State.applyPacket
  try dsimp only
  repeat' (first
    | (with_reducible first | assumption | exact Keeps.refl _ | apply State.arrive_keeps | apply State.modPart_keeps | apply State.refreshMaps_keeps | apply State.windowWrite_keeps | apply Keeps.ite | apply Keeps.foldl | apply Keeps.advance)
    | (with_reducible first | exact Nat.le_refl _ | exact id | exact fun _ h => h | apply swf_sset | apply swf_swrite | apply swf_sstores | apply swf_filter | apply Mem.write_wf | apply Mem.restoreBlock_wf | apply Mem.restored_wf | apply Cores.boundary_retired | apply Cores.mem_place | apply Cores.mem_strike | apply List.mem_append_left)
    | (intro _; try dsimp only)
    | split
    | with_reducible apply Keeps.upd)

theorem State.ackLater_keeps {s0 : State} (s : State) (a : Arrival) (expected : Nat) (hK : Keeps s0 s) : Keeps s0 (State.ackLater s a expected) := by
  unfold State.ackLater
  try dsimp only
  repeat' (first
    | (with_reducible first | assumption | exact Keeps.refl _ | apply State.modPart_keeps | apply State.sendAck_keeps | apply Keeps.ite | apply Keeps.foldl | apply Keeps.advance)
    | (with_reducible first | exact Nat.le_refl _ | exact id | exact fun _ h => h | apply swf_sset | apply swf_swrite | apply swf_sstores | apply swf_filter | apply Mem.write_wf | apply Mem.restoreBlock_wf | apply Mem.restored_wf | apply Cores.boundary_retired | apply Cores.mem_place | apply Cores.mem_strike | apply List.mem_append_left)
    | (intro _; try dsimp only)
    | split
    | with_reducible apply Keeps.upd)

theorem State.deliver_keeps {s0 : State} (s : State) (a : Arrival) (pkt : Packet) (at' : Option Nat) (hK : Keeps s0 s) : Keeps s0 (State.deliver s a pkt at') := by
  unfold State.deliver
  try dsimp only
  repeat' (first
    | (with_reducible first | assumption | exact Keeps.refl _ | apply State.ackLater_keeps | apply State.applyPacket_keeps | apply State.countAt_keeps | apply State.refuse_keeps | apply State.sendAck_keeps | apply State.setFlowEntry_keeps | apply Keeps.ite | apply Keeps.foldl | apply Keeps.advance)
    | (with_reducible first | exact Nat.le_refl _ | exact id | exact fun _ h => h | apply swf_sset | apply swf_swrite | apply swf_sstores | apply swf_filter | apply Mem.write_wf | apply Mem.restoreBlock_wf | apply Mem.restored_wf | apply Cores.boundary_retired | apply Cores.mem_place | apply Cores.mem_strike | apply List.mem_append_left)
    | (intro _; try dsimp only)
    | split
    | with_reducible apply Keeps.upd)

theorem State.controlWait_keeps {s0 : State} (s : State) (i : Nat) (pkt : Packet) (hK : Keeps s0 s) : Keeps s0 (State.controlWait s i pkt) := by
  unfold State.controlWait
  try dsimp only
  repeat' (first
    | (with_reducible first | assumption | exact Keeps.refl _ | apply State.modPort_keeps | apply State.tele_keeps | apply Keeps.ite | apply Keeps.foldl | apply Keeps.advance)
    | (with_reducible first | exact Nat.le_refl _ | exact id | exact fun _ h => h | apply swf_sset | apply swf_swrite | apply swf_sstores | apply swf_filter | apply Mem.write_wf | apply Mem.restoreBlock_wf | apply Mem.restored_wf | apply Cores.boundary_retired | apply Cores.mem_place | apply Cores.mem_strike | apply List.mem_append_left)
    | (intro _; try dsimp only)
    | split
    | with_reducible apply Keeps.upd)

theorem State.portIn_keeps {s0 : State} (s : State) (i : Fin 32) (pkt : Packet) (hK : Keeps s0 s) :
    Keeps s0 (s.portIn i pkt).1 := by
  unfold State.portIn
  split
  · exact hK.upd (Nat.le_refl _) id id (Nat.le_refl _) fun _ h => h
  · split
    · exact hK
    · extract_lets encrypted t pkt'
      have ht : Keeps s0 t := State.pump_keeps _ _ (State.modPort_keeps _ _ _ hK)
      clear_value t
      split
      · exact State.authFailure_keeps _ _ ht
      · exact State.pegArrival_keeps _ _ _ (State.tele_keeps _ _ _ _ (State.tele_keeps _ _ _ _ ht))


theorem packetReceive_keeps {s0 : State} (i : Fin 32) (pkt : Packet) (s : State) (hK : Keeps s0 s) : Keeps s0 (packetReceive i pkt s) := by
  unfold packetReceive
  refine Keeps.ite (fun _ => hK) (fun _ => ?_)
  have h1 : Keeps s0 (s.portIn i pkt).1 := State.portIn_keeps s i pkt hK
  generalize s.portIn i pkt = x at h1 ⊢
  obtain ⟨t, a⟩ := x
  cases a with
  | none => exact h1
  | some a =>
    clear hK
    dsimp only at h1 ⊢
    repeat' (first
      | (with_reducible first | assumption | exact Keeps.refl _ | apply State.controlWait_keeps | apply State.countAt_keeps | apply State.deliver_keeps | apply State.modPort_keeps | apply State.tele_keeps | apply State.transmit_keeps | apply Keeps.ite | apply Keeps.foldl | apply Keeps.advance)
      | (with_reducible first | exact Nat.le_refl _ | exact id | exact fun _ h => h | apply swf_sset | apply swf_swrite | apply swf_sstores | apply swf_filter | apply Mem.write_wf | apply Mem.restoreBlock_wf | apply Mem.restored_wf | apply Cores.boundary_retired | apply Cores.mem_place | apply Cores.mem_strike | apply List.mem_append_left)
      | (intro _; try dsimp only)
      | split
      | with_reducible apply Keeps.upd)

theorem packetForward_keeps {s0 : State} (i : Fin 32) (pkt : Packet) (s : State) (hK : Keeps s0 s) : Keeps s0 (packetForward i pkt s) := by
  unfold packetForward
  refine Keeps.ite (fun _ => hK) (fun _ => ?_)
  have h1 : Keeps s0 (s.portIn i pkt).1 := State.portIn_keeps s i pkt hK
  generalize s.portIn i pkt = x at h1 ⊢
  obtain ⟨t, a⟩ := x
  cases a with
  | none => exact h1
  | some a =>
    clear hK
    dsimp only at h1 ⊢
    repeat' (first
      | (with_reducible first | assumption | exact Keeps.refl _ | apply State.controlWait_keeps | apply State.countAt_keeps | apply State.deliver_keeps | apply State.modPort_keeps | apply State.tele_keeps | apply State.transmit_keeps | apply Keeps.ite | apply Keeps.foldl | apply Keeps.advance)
      | (with_reducible first | exact Nat.le_refl _ | exact id | exact fun _ h => h | apply swf_sset | apply swf_swrite | apply swf_sstores | apply swf_filter | apply Mem.write_wf | apply Mem.restoreBlock_wf | apply Mem.restored_wf | apply Cores.boundary_retired | apply Cores.mem_place | apply Cores.mem_strike | apply List.mem_append_left)
      | (intro _; try dsimp only)
      | split
      | with_reducible apply Keeps.upd)

theorem circuitPacket_keeps {s0 : State} (i : Fin 32) (pkt : Packet) (s : State) (hK : Keeps s0 s) : Keeps s0 (circuitPacket i pkt s) := by
  unfold circuitPacket
  refine Keeps.ite (fun _ => hK) (fun _ => ?_)
  have h1 : Keeps s0 (s.portIn i pkt).1 := State.portIn_keeps s i pkt hK
  generalize s.portIn i pkt = x at h1 ⊢
  obtain ⟨t, a⟩ := x
  cases a with
  | none => exact h1
  | some a =>
    clear hK
    dsimp only at h1 ⊢
    repeat' (first
      | (with_reducible first | assumption | exact Keeps.refl _ | apply State.controlWait_keeps | apply State.countAt_keeps | apply State.deliver_keeps | apply State.modPort_keeps | apply State.tele_keeps | apply State.transmit_keeps | apply Keeps.ite | apply Keeps.foldl | apply Keeps.advance)
      | (with_reducible first | exact Nat.le_refl _ | exact id | exact fun _ h => h | apply swf_sset | apply swf_swrite | apply swf_sstores | apply swf_filter | apply Mem.write_wf | apply Mem.restoreBlock_wf | apply Mem.restored_wf | apply Cores.boundary_retired | apply Cores.mem_place | apply Cores.mem_strike | apply List.mem_append_left)
      | (intro _; try dsimp only)
      | split
      | with_reducible apply Keeps.upd)

theorem e2eAckTimer_keeps {s0 : State} (p : Fin 4) (flow : Nat) (s : State) (hK : Keeps s0 s) : Keeps s0 (e2eAckTimer p flow s) := by
  unfold e2eAckTimer
  try dsimp only
  repeat' (first
    | (with_reducible first | assumption | exact Keeps.refl _ | apply State.modPart_keeps | apply State.sendAck_keeps | apply Keeps.ite | apply Keeps.foldl | apply Keeps.advance)
    | (with_reducible first | exact Nat.le_refl _ | exact id | exact fun _ h => h | apply swf_sset | apply swf_swrite | apply swf_sstores | apply swf_filter | apply Mem.write_wf | apply Mem.restoreBlock_wf | apply Mem.restored_wf | apply Cores.boundary_retired | apply Cores.mem_place | apply Cores.mem_strike | apply List.mem_append_left)
    | (intro _; try dsimp only)
    | split
    | with_reducible apply Keeps.upd)

theorem ackReceive_keeps {s0 : State} (pkt : Packet) (s : State) (hK : Keeps s0 s) : Keeps s0 (ackReceive pkt s) := by
  unfold ackReceive
  try dsimp only
  repeat' (first
    | (with_reducible first | assumption | exact Keeps.refl _ | apply State.recoverPartId_keeps | apply State.failSend_keeps | apply State.modPart_keeps | apply State.recoverPart_keeps | apply deviceReady_keeps | apply Keeps.ite | apply Keeps.foldl | apply Keeps.advance)
    | (with_reducible first | exact Nat.le_refl _ | exact id | exact fun _ h => h | apply swf_sset | apply swf_swrite | apply swf_sstores | apply swf_filter | apply Mem.write_wf | apply Mem.restoreBlock_wf | apply Mem.restored_wf | apply Cores.boundary_retired | apply Cores.mem_place | apply Cores.mem_strike | apply List.mem_append_left)
    | (intro _; try dsimp only)
    | split
    | with_reducible apply Keeps.upd)

theorem ackTimeout_keeps {s0 : State} (p : Fin 4) (flow : Nat) (s : State) (hK : Keeps s0 s) : Keeps s0 (ackTimeout p flow s) := by
  unfold ackTimeout
  try dsimp only
  repeat' (first
    | (with_reducible first | assumption | exact Keeps.refl _ | apply State.recoverPartId_keeps | apply State.failSend_keeps | apply State.modPart_keeps | apply State.recoverPart_keeps | apply Keeps.ite | apply Keeps.foldl | apply Keeps.advance)
    | (with_reducible first | exact Nat.le_refl _ | exact id | exact fun _ h => h | apply swf_sset | apply swf_swrite | apply swf_sstores | apply swf_filter | apply Mem.write_wf | apply Mem.restoreBlock_wf | apply Mem.restored_wf | apply Cores.boundary_retired | apply Cores.mem_place | apply Cores.mem_strike | apply List.mem_append_left)
    | (intro _; try dsimp only)
    | split
    | with_reducible apply Keeps.upd)

theorem State.reloadWindows_keeps {s0 : State} (s : State) (p : Fin 4) (hK : Keeps s0 s) : Keeps s0 (State.reloadWindows s p) := by
  unfold State.reloadWindows
  try dsimp only
  repeat' (first
    | (with_reducible first | assumption | exact Keeps.refl _ | apply State.modPart_keeps | apply Keeps.ite | apply Keeps.foldl | apply Keeps.advance)
    | (with_reducible first | exact Nat.le_refl _ | exact id | exact fun _ h => h | apply swf_sset | apply swf_swrite | apply swf_sstores | apply swf_filter | apply Mem.write_wf | apply Mem.restoreBlock_wf | apply Mem.restored_wf | apply Cores.boundary_retired | apply Cores.mem_place | apply Cores.mem_strike | apply List.mem_append_left)
    | (intro _; try dsimp only)
    | split
    | with_reducible apply Keeps.upd)

theorem windowTableReload_keeps {s0 : State} (fn : Fn) (p : Fin 4) (value : W64) (s : State) (hK : Keeps s0 s) : Keeps s0 (windowTableReload fn p value s) := by
  unfold windowTableReload
  try dsimp only
  repeat' (first
    | (with_reducible first | assumption | exact Keeps.refl _ | apply State.modPart_keeps | apply State.reloadWindows_keeps | apply Keeps.ite | apply Keeps.foldl | apply Keeps.advance)
    | (with_reducible first | exact Nat.le_refl _ | exact id | exact fun _ h => h | apply swf_sset | apply swf_swrite | apply swf_sstores | apply swf_filter | apply Mem.write_wf | apply Mem.restoreBlock_wf | apply Mem.restored_wf | apply Cores.boundary_retired | apply Cores.mem_place | apply Cores.mem_strike | apply List.mem_append_left)
    | (intro _; try dsimp only)
    | split
    | with_reducible apply Keeps.upd)

theorem fabTableDataHighWrite_keeps {s0 : State} (fn : Fn) (value : W64) (s : State) (hK : Keeps s0 s) : Keeps s0 (fabTableDataHighWrite fn value s) := by
  unfold fabTableDataHighWrite
  try dsimp only
  repeat' (first
    | (with_reducible first | assumption | exact Keeps.refl _ | apply Keeps.ite | apply Keeps.foldl | apply Keeps.advance)
    | (with_reducible first | exact Nat.le_refl _ | exact id | exact fun _ h => h | apply swf_sset | apply swf_swrite | apply swf_sstores | apply swf_filter | apply Mem.write_wf | apply Mem.restoreBlock_wf | apply Mem.restored_wf | apply Cores.boundary_retired | apply Cores.mem_place | apply Cores.mem_strike | apply List.mem_append_left)
    | (intro _; try dsimp only)
    | split
    | with_reducible apply Keeps.upd)

theorem fabTableCommit_keeps {s0 : State} (fn : Fn) (value : W64) (s : State) (hK : Keeps s0 s) : Keeps s0 (fabTableCommit fn value s) := by
  unfold fabTableCommit
  try dsimp only
  repeat' (first
    | (with_reducible first | assumption | exact Keeps.refl _ | apply State.releaseHeld_keeps | apply Keeps.ite | apply Keeps.foldl | apply Keeps.advance)
    | (with_reducible first | exact Nat.le_refl _ | exact id | exact fun _ h => h | apply swf_sset | apply swf_swrite | apply swf_sstores | apply swf_filter | apply Mem.write_wf | apply Mem.restoreBlock_wf | apply Mem.restored_wf | apply Cores.boundary_retired | apply Cores.mem_place | apply Cores.mem_strike | apply List.mem_append_left)
    | (intro _; try dsimp only)
    | split
    | with_reducible apply Keeps.upd)

theorem planLoad_keeps {s0 : State} (fn : Fn) (plan : Fin 16) (s : State) (hK : Keeps s0 s) : Keeps s0 (planLoad fn plan s) := by
  unfold planLoad
  try dsimp only
  repeat' (first
    | (with_reducible first | assumption | exact Keeps.refl _ | apply Keeps.ite | apply Keeps.foldl | apply Keeps.advance)
    | (with_reducible first | exact Nat.le_refl _ | exact id | exact fun _ h => h | apply swf_sset | apply swf_swrite | apply swf_sstores | apply swf_filter | apply Mem.write_wf | apply Mem.restoreBlock_wf | apply Mem.restored_wf | apply Cores.boundary_retired | apply Cores.mem_place | apply Cores.mem_strike | apply List.mem_append_left)
    | (intro _; try dsimp only)
    | split
    | with_reducible apply Keeps.upd)

theorem planClear_keeps {s0 : State} (fn : Fn) (plan : Fin 16) (s : State) (hK : Keeps s0 s) : Keeps s0 (planClear fn plan s) := by
  unfold planClear
  try dsimp only
  repeat' (first
    | (with_reducible first | assumption | exact Keeps.refl _ | apply Keeps.ite | apply Keeps.foldl | apply Keeps.advance)
    | (with_reducible first | exact Nat.le_refl _ | exact id | exact fun _ h => h | apply swf_sset | apply swf_swrite | apply swf_sstores | apply swf_filter | apply Mem.write_wf | apply Mem.restoreBlock_wf | apply Mem.restored_wf | apply Cores.boundary_retired | apply Cores.mem_place | apply Cores.mem_strike | apply List.mem_append_left)
    | (intro _; try dsimp only)
    | split
    | with_reducible apply Keeps.upd)

theorem circuitSetup_keeps {s0 : State} (i : Fin 32) (pkt : Packet) (s : State) (hK : Keeps s0 s) : Keeps s0 (circuitSetup i pkt s) := by
  unfold circuitSetup
  try dsimp only
  repeat' (first
    | (with_reducible first | assumption | exact Keeps.refl _ | apply State.inject_keeps | apply State.tele_keeps | apply State.transmit_keeps | apply deviceReady_keeps | apply Keeps.ite | apply Keeps.foldl | apply Keeps.advance)
    | (with_reducible first | exact Nat.le_refl _ | exact id | exact fun _ h => h | apply swf_sset | apply swf_swrite | apply swf_sstores | apply swf_filter | apply Mem.write_wf | apply Mem.restoreBlock_wf | apply Mem.restored_wf | apply Cores.boundary_retired | apply Cores.mem_place | apply Cores.mem_strike | apply List.mem_append_left)
    | (intro _; try dsimp only)
    | split
    | with_reducible apply Keeps.upd)

end Sys2Proof.Machine
end

