-- ==== Sys2Proof/Laws/KeepsHostIf.lean ====
section
/-! SUPPORT. What the operations of Machine/HostIf.lean keep (Laws/Keeps.lean). -/

namespace Sys2Proof.Machine

theorem Mem.zeroFrame_wf (m : Mem) (key : Nat) (h : swf 0 m.bytes = true) : swf 0 (m.zeroFrame key).bytes = true :=
  swf_filter 0 _ m.bytes h


theorem State.requestDone_keeps {s0 : State} (s : State) (st : Status) (detail : Nat) (hK : Keeps s0 s) : Keeps s0 (State.requestDone s st detail) := by
  unfold State.requestDone
  try dsimp only
  repeat' (first
    | (with_reducible first | assumption | exact Keeps.refl _ | apply Keeps.ite | apply Keeps.foldl | apply Keeps.advance)
    | (with_reducible first | exact Nat.le_refl _ | exact id | exact fun _ h => h | apply swf_sset | apply swf_swrite | apply swf_sstores | apply swf_filter | apply Mem.write_wf | apply Mem.restoreBlock_wf | apply Mem.zeroFrame_wf | apply Mem.restored_wf | apply Cores.boundary_retired | apply Cores.mem_place | apply Cores.mem_strike | apply List.mem_append_left)
    | (intro _; try dsimp only)
    | split
    | with_reducible apply Keeps.upd)

theorem State.joinFrame_keeps {s0 : State} (s : State) (p : Fin 4) (key : Nat) (hK : Keeps s0 s) : Keeps s0 (State.joinFrame s p key) := by
  unfold State.joinFrame
  try dsimp only
  repeat' (first
    | (with_reducible first | assumption | exact Keeps.refl _ | apply State.modPart_keeps | apply Keeps.ite | apply Keeps.foldl | apply Keeps.advance)
    | (with_reducible first | exact Nat.le_refl _ | exact id | exact fun _ h => h | apply swf_sset | apply swf_swrite | apply swf_sstores | apply swf_filter | apply Mem.write_wf | apply Mem.restoreBlock_wf | apply Mem.zeroFrame_wf | apply Mem.restored_wf | apply Cores.boundary_retired | apply Cores.mem_place | apply Cores.mem_strike | apply List.mem_append_left)
    | (intro _; try dsimp only)
    | split
    | with_reducible apply Keeps.upd)

theorem State.leaveFrame_keeps {s0 : State} (s : State) (p : Fin 4) (key : Nat) (hK : Keeps s0 s) : Keeps s0 (State.leaveFrame s p key) := by
  unfold State.leaveFrame
  try dsimp only
  repeat' (first
    | (with_reducible first | assumption | exact Keeps.refl _ | apply Keeps.ite | apply Keeps.foldl | apply Keeps.advance)
    | (with_reducible first | exact Nat.le_refl _ | exact id | exact fun _ h => h | apply swf_sset | apply swf_swrite | apply swf_sstores | apply swf_filter | apply Mem.write_wf | apply Mem.restoreBlock_wf | apply Mem.zeroFrame_wf | apply Mem.restored_wf | apply Cores.boundary_retired | apply Cores.mem_place | apply Cores.mem_strike | apply List.mem_append_left)
    | (intro _; try dsimp only)
    | split
    | with_reducible apply Keeps.upd)

/-- A request keeps what its effect keeps. -/
theorem State.selvage_keeps {s0 : State} (s : State) (kind : Nat) (host : HostStores) (form : State → Request → Option Nat)
    (reach : State → Fin 4 → Request → Option Nat) (effect : State → Fin 4 → Request → State)
    (he : ∀ t p r, Keeps s0 t → Keeps s0 (effect t p r)) (hK : Keeps s0 s) :
    Keeps s0 (State.selvage s kind host form reach effect) := by
  unfold State.selvage
  extract_lets t r p
  have ht : Keeps s0 t := hK.upd (Nat.le_refl _) (swf_sstores host s.host) id (Nat.le_refl _) fun _ h => h
  refine Keeps.ite (fun _ => State.requestDone_keeps _ _ _ ht) (fun _ => Keeps.ite (fun _ => ht) (fun _ =>
    Keeps.ite (fun _ => State.requestDone_keeps _ _ _ ht) (fun _ => ?_)))
  split
  · exact State.requestDone_keeps _ _ _ ht
  · refine Keeps.ite (fun _ => State.requestDone_keeps _ _ _ ht) (fun _ => ?_)
    split
    · exact State.requestDone_keeps _ _ _ ht
    · exact State.requestDone_keeps _ _ _ (he _ _ _ ht)


theorem assignCores_keeps {s0 : State} (host : HostStores) (s : State) (hK : Keeps s0 s) : Keeps s0 (assignCores host s) := by
  unfold assignCores
  try dsimp only
  repeat' (first
    | (with_reducible first | assumption | exact Keeps.refl _ | apply State.drift_keeps | apply State.modPart_keeps | apply State.selvage_keeps | apply Keeps.ite | apply Keeps.foldl | apply Keeps.advance)
    | (with_reducible first | exact Nat.le_refl _ | exact id | exact fun _ h => h | apply swf_sset | apply swf_swrite | apply swf_sstores | apply swf_filter | apply Mem.write_wf | apply Mem.restoreBlock_wf | apply Mem.zeroFrame_wf | apply Mem.restored_wf | apply Cores.boundary_retired | apply Cores.mem_place | apply Cores.mem_strike | apply List.mem_append_left)
    | (intro _; try dsimp only)
    | split
    | with_reducible apply Keeps.upd)

theorem assignFrames_keeps {s0 : State} (host : HostStores) (s : State) (hK : Keeps s0 s) : Keeps s0 (assignFrames host s) := by
  unfold assignFrames
  try dsimp only
  repeat' (first
    | (with_reducible first | assumption | exact Keeps.refl _ | apply State.joinFrame_keeps | apply State.selvage_keeps | apply Keeps.ite | apply Keeps.foldl | apply Keeps.advance)
    | (with_reducible first | exact Nat.le_refl _ | exact id | exact fun _ h => h | apply swf_sset | apply swf_swrite | apply swf_sstores | apply swf_filter | apply Mem.write_wf | apply Mem.restoreBlock_wf | apply Mem.zeroFrame_wf | apply Mem.restored_wf | apply Cores.boundary_retired | apply Cores.mem_place | apply Cores.mem_strike | apply List.mem_append_left)
    | (intro _; try dsimp only)
    | split
    | with_reducible apply Keeps.upd)

theorem releaseFrames_keeps {s0 : State} (host : HostStores) (s : State) (hK : Keeps s0 s) : Keeps s0 (releaseFrames host s) := by
  unfold releaseFrames
  try dsimp only
  repeat' (first
    | (with_reducible first | assumption | exact Keeps.refl _ | apply State.leaveFrame_keeps | apply State.modPart_keeps | apply State.selvage_keeps | apply Keeps.ite | apply Keeps.foldl | apply Keeps.advance)
    | (with_reducible first | exact Nat.le_refl _ | exact id | exact fun _ h => h | apply swf_sset | apply swf_swrite | apply swf_sstores | apply swf_filter | apply Mem.write_wf | apply Mem.restoreBlock_wf | apply Mem.zeroFrame_wf | apply Mem.restored_wf | apply Cores.boundary_retired | apply Cores.mem_place | apply Cores.mem_strike | apply List.mem_append_left)
    | (intro _; try dsimp only)
    | split
    | with_reducible apply Keeps.upd)

theorem setEndpoints_keeps {s0 : State} (host : HostStores) (s : State) (hK : Keeps s0 s) : Keeps s0 (setEndpoints host s) := by
  unfold setEndpoints
  try dsimp only
  repeat' (first
    | (with_reducible first | assumption | exact Keeps.refl _ | apply State.modPart_keeps | apply State.selvage_keeps | apply Keeps.ite | apply Keeps.foldl | apply Keeps.advance)
    | (with_reducible first | exact Nat.le_refl _ | exact id | exact fun _ h => h | apply swf_sset | apply swf_swrite | apply swf_sstores | apply swf_filter | apply Mem.write_wf | apply Mem.restoreBlock_wf | apply Mem.zeroFrame_wf | apply Mem.restored_wf | apply Cores.boundary_retired | apply Cores.mem_place | apply Cores.mem_strike | apply List.mem_append_left)
    | (intro _; try dsimp only)
    | split
    | with_reducible apply Keeps.upd)

theorem Mem.zeroFrames_wf (l : SMap Nat) (m : Mem) (h : swf 0 m.bytes = true) :
    swf 0 (l.foldl (fun (m : Mem) (x : Nat × Nat) => m.zeroFrame x.1) m).bytes = true :=
  foldl_inv (fun (m : Mem) => swf 0 m.bytes = true) _ (fun m x h => Mem.zeroFrame_wf m x.1 h) l m h

theorem memoryEncryption_keeps {s0 : State} (host : HostStores) (s : State) (hK : Keeps s0 s) : Keeps s0 (memoryEncryption host s) := by
  unfold memoryEncryption
  refine State.selvage_keeps _ _ _ _ _ _ (fun t p r h => ?_) hK
  dsimp only
  refine Keeps.ite (fun _ => h) (fun _ => State.modPart_keeps _ _ _ ?_)
  exact h.upd (Nat.le_refl _) id (Mem.zeroFrames_wf _ _) (Nat.le_refl _) fun _ h => h


theorem bar2Read_keeps {s0 : State} (fn : Fn) (offset length : Nat) (s : State) (hK : Keeps s0 s) : Keeps s0 (bar2Read fn offset length s) := by
  unfold bar2Read
  try dsimp only
  repeat' (first
    | (with_reducible first | assumption | exact Keeps.refl _ | apply State.aer_keeps | apply State.emit_keeps | apply Keeps.ite | apply Keeps.foldl | apply Keeps.advance)
    | (with_reducible first | exact Nat.le_refl _ | exact id | exact fun _ h => h | apply swf_sset | apply swf_swrite | apply swf_sstores | apply swf_filter | apply Mem.write_wf | apply Mem.restoreBlock_wf | apply Mem.zeroFrame_wf | apply Mem.restored_wf | apply Cores.boundary_retired | apply Cores.mem_place | apply Cores.mem_strike | apply List.mem_append_left)
    | (intro _; try dsimp only)
    | split
    | with_reducible apply Keeps.upd)

theorem bar2Write_keeps {s0 : State} (fn : Fn) (offset : Nat) (data : Bytes) (s : State) (hK : Keeps s0 s) : Keeps s0 (bar2Write fn offset data s) := by
  unfold bar2Write
  try dsimp only
  repeat' (first
    | (with_reducible first | assumption | exact Keeps.refl _ | apply State.aer_keeps | apply State.emit_keeps | apply State.writeOutside_keeps | apply Keeps.ite | apply Keeps.foldl | apply Keeps.advance)
    | (with_reducible first | exact Nat.le_refl _ | exact id | exact fun _ h => h | apply swf_sset | apply swf_swrite | apply swf_sstores | apply swf_filter | apply Mem.write_wf | apply Mem.restoreBlock_wf | apply Mem.zeroFrame_wf | apply Mem.restored_wf | apply Cores.boundary_retired | apply Cores.mem_place | apply Cores.mem_strike | apply List.mem_append_left)
    | (intro _; try dsimp only)
    | split
    | with_reducible apply Keeps.upd)

theorem State.setMsixControl_keeps {s0 : State} (s : State) (fn : Fn) (enable mask : Bool) (hK : Keeps s0 s) : Keeps s0 (State.setMsixControl s fn enable mask) := by
  unfold State.setMsixControl
  try dsimp only
  repeat' (first
    | (with_reducible first | assumption | exact Keeps.refl _ | apply State.sendMsix_keeps | apply Keeps.ite | apply Keeps.foldl | apply Keeps.advance)
    | (with_reducible first | exact Nat.le_refl _ | exact id | exact fun _ h => h | apply swf_sset | apply swf_swrite | apply swf_sstores | apply swf_filter | apply Mem.write_wf | apply Mem.restoreBlock_wf | apply Mem.zeroFrame_wf | apply Mem.restored_wf | apply Cores.boundary_retired | apply Cores.mem_place | apply Cores.mem_strike | apply List.mem_append_left)
    | (intro _; try dsimp only)
    | split
    | with_reducible apply Keeps.upd)

theorem configRequest_keeps {s0 : State} (fn : Fn) (req : CfgReq) (s : State) (hK : Keeps s0 s) : Keeps s0 (configRequest fn req s) := by
  unfold configRequest
  try dsimp only
  repeat' (first
    | (with_reducible first | assumption | exact Keeps.refl _ | apply State.emit_keeps | apply State.setMsixControl_keeps | apply deviceReady_keeps | apply Keeps.ite | apply Keeps.foldl | apply Keeps.advance)
    | (with_reducible first | exact Nat.le_refl _ | exact id | exact fun _ h => h | apply swf_sset | apply swf_swrite | apply swf_sstores | apply swf_filter | apply Mem.write_wf | apply Mem.restoreBlock_wf | apply Mem.zeroFrame_wf | apply Mem.restored_wf | apply Cores.boundary_retired | apply Cores.mem_place | apply Cores.mem_strike | apply List.mem_append_left)
    | (intro _; try dsimp only)
    | split
    | with_reducible apply Keeps.upd)

theorem tlbInvalidate_keeps {s0 : State} (fn : Fn) (p : Fin 4) (s : State) (hK : Keeps s0 s) : Keeps s0 (tlbInvalidate fn p s) := by
  unfold tlbInvalidate
  try dsimp only
  repeat' (first
    | (with_reducible first | assumption | exact Keeps.refl _ | apply State.modPart_keeps | apply Keeps.ite | apply Keeps.foldl | apply Keeps.advance)
    | (with_reducible first | exact Nat.le_refl _ | exact id | exact fun _ h => h | apply swf_sset | apply swf_swrite | apply swf_sstores | apply swf_filter | apply Mem.write_wf | apply Mem.restoreBlock_wf | apply Mem.zeroFrame_wf | apply Mem.restored_wf | apply Cores.boundary_retired | apply Cores.mem_place | apply Cores.mem_strike | apply List.mem_append_left)
    | (intro _; try dsimp only)
    | split
    | with_reducible apply Keeps.upd)

theorem streamPriorityWrite_keeps {s0 : State} (fn : Fn) (p : Fin 4) (value : W32) (s : State) (hK : Keeps s0 s) : Keeps s0 (streamPriorityWrite fn p value s) := by
  unfold streamPriorityWrite
  try dsimp only
  repeat' (first
    | (with_reducible first | assumption | exact Keeps.refl _ | apply State.modPart_keeps | apply Keeps.ite | apply Keeps.foldl | apply Keeps.advance)
    | (with_reducible first | exact Nat.le_refl _ | exact id | exact fun _ h => h | apply swf_sset | apply swf_swrite | apply swf_sstores | apply swf_filter | apply Mem.write_wf | apply Mem.restoreBlock_wf | apply Mem.zeroFrame_wf | apply Mem.restored_wf | apply Cores.boundary_retired | apply Cores.mem_place | apply Cores.mem_strike | apply List.mem_append_left)
    | (intro _; try dsimp only)
    | split
    | with_reducible apply Keeps.upd)

theorem streamShareWrite_keeps {s0 : State} (fn : Fn) (p : Fin 4) (high : Bool) (value : W32) (s : State) (hK : Keeps s0 s) : Keeps s0 (streamShareWrite fn p high value s) := by
  unfold streamShareWrite
  try dsimp only
  repeat' (first
    | (with_reducible first | assumption | exact Keeps.refl _ | apply State.setPart_keeps | apply Keeps.ite | apply Keeps.foldl | apply Keeps.advance)
    | (with_reducible first | exact Nat.le_refl _ | exact id | exact fun _ h => h | apply swf_sset | apply swf_swrite | apply swf_sstores | apply swf_filter | apply Mem.write_wf | apply Mem.restoreBlock_wf | apply Mem.zeroFrame_wf | apply Mem.restored_wf | apply Cores.boundary_retired | apply Cores.mem_place | apply Cores.mem_strike | apply List.mem_append_left)
    | (intro _; try dsimp only)
    | split
    | with_reducible apply Keeps.upd)

theorem Mem.restoreAll_wf (l : List Shadow) (m : Mem) (h : swf 0 m.bytes = true) : swf 0 (l.foldl Mem.restoreBlock m).bytes = true :=
  foldl_inv (fun (m : Mem) => swf 0 m.bytes = true) _ (fun m x h => Mem.restoreBlock_wf m x h) l m h

theorem State.resetPart_keeps {s0 : State} (s : State) (p : Fin 4) (hK : Keeps s0 s) : Keeps s0 (State.resetPart s p) := by
  unfold State.resetPart
  extract_lets a P m k f0 b runs m2 c f
  have ha : Keeps s0 a := State.drift_keeps _ hK
  have hb : Keeps s0 b := ha.upd (Nat.le_refl _) id (Mem.restoreAll_wf _ _) (Nat.le_refl _) fun _ h => h
  have hc : Keeps s0 c := hb.upd (Nat.le_refl _) id (swf_filter 0 _ _) (Nat.le_refl _) fun _ h => h
  exact State.setPart_keeps _ _ _ (hc.upd (Nat.le_refl _) id id (Nat.le_refl _) fun _ h => h)


theorem partitionReset_keeps {s0 : State} (fn : Fn) (p : Fin 4) (s : State) (hK : Keeps s0 s) : Keeps s0 (partitionReset fn p s) := by
  unfold partitionReset
  try dsimp only
  repeat' (first
    | (with_reducible first | assumption | exact Keeps.refl _ | apply State.resetPart_keeps | apply Keeps.ite | apply Keeps.foldl | apply Keeps.advance)
    | (with_reducible first | exact Nat.le_refl _ | exact id | exact fun _ h => h | apply swf_sset | apply swf_swrite | apply swf_sstores | apply swf_filter | apply Mem.write_wf | apply Mem.restoreBlock_wf | apply Mem.zeroFrame_wf | apply Mem.restored_wf | apply Cores.boundary_retired | apply Cores.mem_place | apply Cores.mem_strike | apply List.mem_append_left)
    | (intro _; try dsimp only)
    | split
    | with_reducible apply Keeps.upd)

theorem partitionResetDone_keeps {s0 : State} (p : Fin 4) (s : State) (hK : Keeps s0 s) : Keeps s0 (partitionResetDone p s) := by
  unfold partitionResetDone
  try dsimp only
  repeat' (first
    | (with_reducible first | assumption | exact Keeps.refl _ | apply State.modPart_keeps | apply Keeps.ite | apply Keeps.foldl | apply Keeps.advance)
    | (with_reducible first | exact Nat.le_refl _ | exact id | exact fun _ h => h | apply swf_sset | apply swf_swrite | apply swf_sstores | apply swf_filter | apply Mem.write_wf | apply Mem.restoreBlock_wf | apply Mem.zeroFrame_wf | apply Mem.restored_wf | apply Cores.boundary_retired | apply Cores.mem_place | apply Cores.mem_strike | apply List.mem_append_left)
    | (intro _; try dsimp only)
    | split
    | with_reducible apply Keeps.upd)

theorem pfFunctionLevelReset_keeps {s0 : State} (s : State) (hK : Keeps s0 s) : Keeps s0 (pfFunctionLevelReset s) := by
  unfold pfFunctionLevelReset
  try dsimp only
  repeat' (first
    | (with_reducible first | assumption | exact Keeps.refl _ | apply State.modPort_keeps | apply State.resetPart_keeps | apply Keeps.ite | apply Keeps.foldl | apply Keeps.advance)
    | (with_reducible first | exact Nat.le_refl _ | exact id | exact fun _ h => h | apply swf_sset | apply swf_swrite | apply swf_sstores | apply swf_filter | apply Mem.write_wf | apply Mem.restoreBlock_wf | apply Mem.zeroFrame_wf | apply Mem.restored_wf | apply Cores.boundary_retired | apply Cores.mem_place | apply Cores.mem_strike | apply List.mem_append_left)
    | (intro _; try dsimp only)
    | split
    | with_reducible apply Keeps.upd)

theorem State.partialDone_keeps {s0 : State} (s : State) (target index : Nat) (atB : Bool) (st : Status) (hK : Keeps s0 s) : Keeps s0 (State.partialDone s target index atB st) := by
  unfold State.partialDone
  try dsimp only
  repeat' (first
    | (with_reducible first | assumption | exact Keeps.refl _ | apply Keeps.ite | apply Keeps.foldl | apply Keeps.advance)
    | (with_reducible first | exact Nat.le_refl _ | exact id | exact fun _ h => h | apply swf_sset | apply swf_swrite | apply swf_sstores | apply swf_filter | apply Mem.write_wf | apply Mem.restoreBlock_wf | apply Mem.zeroFrame_wf | apply Mem.restored_wf | apply Cores.boundary_retired | apply Cores.mem_place | apply Cores.mem_strike | apply List.mem_append_left)
    | (intro _; try dsimp only)
    | split
    | with_reducible apply Keeps.upd)

theorem partialResetVelac_keeps {s0 : State} (index : Nat) (s : State) (hK : Keeps s0 s) : Keeps s0 (partialResetVelac index s) := by
  unfold partialResetVelac
  try dsimp only
  repeat' (first
    | (with_reducible first | assumption | exact Keeps.refl _ | apply State.dropLink_keeps | apply State.modPort_keeps | apply State.partialDone_keeps | apply Keeps.ite | apply Keeps.foldl | apply Keeps.advance)
    | (with_reducible first | exact Nat.le_refl _ | exact id | exact fun _ h => h | apply swf_sset | apply swf_swrite | apply swf_sstores | apply swf_filter | apply Mem.write_wf | apply Mem.restoreBlock_wf | apply Mem.zeroFrame_wf | apply Mem.restored_wf | apply Cores.boundary_retired | apply Cores.mem_place | apply Cores.mem_strike | apply List.mem_append_left)
    | (intro _; try dsimp only)
    | split
    | with_reducible apply Keeps.upd)

theorem partialResetSeamAdapter_keeps {s0 : State} (index : Nat) (atB : Bool) (s : State) (hK : Keeps s0 s) : Keeps s0 (partialResetSeamAdapter index atB s) := by
  unfold partialResetSeamAdapter
  try dsimp only
  repeat' (first
    | (with_reducible first | assumption | exact Keeps.refl _ | apply State.partialDone_keeps | apply State.resetAdapter_keeps | apply Keeps.ite | apply Keeps.foldl | apply Keeps.advance)
    | (with_reducible first | exact Nat.le_refl _ | exact id | exact fun _ h => h | apply swf_sset | apply swf_swrite | apply swf_sstores | apply swf_filter | apply Mem.write_wf | apply Mem.restoreBlock_wf | apply Mem.zeroFrame_wf | apply Mem.restored_wf | apply Cores.boundary_retired | apply Cores.mem_place | apply Cores.mem_strike | apply List.mem_append_left)
    | (intro _; try dsimp only)
    | split
    | with_reducible apply Keeps.upd)

theorem State.vacate_keeps {s0 : State} (s : State) (l spare : Nat) (hK : Keeps s0 s) : Keeps s0 (State.vacate s l spare) := by
  unfold State.vacate
  try dsimp only
  repeat' (first
    | (with_reducible first | assumption | exact Keeps.refl _ | apply State.health_keeps | apply State.lifeNote_keeps | apply Keeps.ite | apply Keeps.foldl | apply Keeps.advance)
    | (with_reducible first | exact Nat.le_refl _ | exact id | exact fun _ h => h | apply swf_sset | apply swf_swrite | apply swf_sstores | apply swf_filter | apply Mem.write_wf | apply Mem.restoreBlock_wf | apply Mem.zeroFrame_wf | apply Mem.restored_wf | apply Cores.boundary_retired | apply Cores.mem_place | apply Cores.mem_strike | apply List.mem_append_left)
    | (intro _; try dsimp only)
    | split
    | with_reducible apply Keeps.upd)

theorem State.failTest_keeps {s0 : State} (s : State) (l phys : Nat) (hK : Keeps s0 s) : Keeps s0 (State.failTest s l phys) := by
  unfold State.failTest
  try dsimp only
  repeat' (first
    | (with_reducible first | assumption | exact Keeps.refl _ | apply State.health_keeps | apply State.lifeNote_keeps | apply Keeps.ite | apply Keeps.foldl | apply Keeps.advance)
    | (with_reducible first | exact Nat.le_refl _ | exact id | exact fun _ h => h | apply swf_sset | apply swf_swrite | apply swf_sstores | apply swf_filter | apply Mem.write_wf | apply Mem.restoreBlock_wf | apply Mem.zeroFrame_wf | apply Mem.restored_wf | apply Cores.boundary_retired | apply Cores.mem_place | apply Cores.mem_strike | apply List.mem_append_left)
    | (intro _; try dsimp only)
    | split
    | with_reducible apply Keeps.upd)

theorem State.coreResetWait_keeps {s0 : State} (s : State) (index : Nat) (hK : Keeps s0 s) : Keeps s0 (State.coreResetWait s index) := by
  unfold State.coreResetWait
  try dsimp only
  repeat' (first
    | (with_reducible first | assumption | exact Keeps.refl _ | apply Keeps.ite | apply Keeps.foldl | apply Keeps.advance)
    | (with_reducible first | exact Nat.le_refl _ | exact id | exact fun _ h => h | apply swf_sset | apply swf_swrite | apply swf_sstores | apply swf_filter | apply Mem.write_wf | apply Mem.restoreBlock_wf | apply Mem.zeroFrame_wf | apply Mem.restored_wf | apply Cores.boundary_retired | apply Cores.mem_place | apply Cores.mem_strike | apply List.mem_append_left)
    | (intro _; try dsimp only)
    | split
    | with_reducible apply Keeps.upd)

theorem State.coreResetDone_keeps {s0 : State} (s : State) (b : Background) (st : Status) (hK : Keeps s0 s) : Keeps s0 (State.coreResetDone s b st) := by
  unfold State.coreResetDone
  try dsimp only
  repeat' (first
    | (with_reducible first | assumption | exact Keeps.refl _ | apply State.partialDone_keeps | apply Keeps.ite | apply Keeps.foldl | apply Keeps.advance)
    | (with_reducible first | exact Nat.le_refl _ | exact id | exact fun _ h => h | apply swf_sset | apply swf_swrite | apply swf_sstores | apply swf_filter | apply Mem.write_wf | apply Mem.restoreBlock_wf | apply Mem.zeroFrame_wf | apply Mem.restored_wf | apply Cores.boundary_retired | apply Cores.mem_place | apply Cores.mem_strike | apply List.mem_append_left)
    | (intro _; try dsimp only)
    | split
    | with_reducible apply Keeps.upd)

theorem State.coreResetStart_keeps {s0 : State} (s : State) (b : Background) (spare : Nat) (hK : Keeps s0 s) : Keeps s0 (State.coreResetStart s b spare) := by
  unfold State.coreResetStart
  try dsimp only
  repeat' (first
    | (with_reducible first | assumption | exact Keeps.refl _ | apply State.drift_keeps | apply State.replace_keeps | apply State.vacate_keeps | apply Keeps.ite | apply Keeps.foldl | apply Keeps.advance)
    | (with_reducible first | exact Nat.le_refl _ | exact id | exact fun _ h => h | apply swf_sset | apply swf_swrite | apply swf_sstores | apply swf_filter | apply Mem.write_wf | apply Mem.restoreBlock_wf | apply Mem.zeroFrame_wf | apply Mem.restored_wf | apply Cores.boundary_retired | apply Cores.mem_place | apply Cores.mem_strike | apply List.mem_append_left)
    | (intro _; try dsimp only)
    | split
    | with_reducible apply Keeps.upd)

theorem State.coreResetEnd_keeps {s0 : State} (s : State) (b : Background) (passed : Bool) (hK : Keeps s0 s) : Keeps s0 (State.coreResetEnd s b passed) := by
  unfold State.coreResetEnd
  try dsimp only
  repeat' (first
    | (with_reducible first | assumption | exact Keeps.refl _ | apply State.clockStop_keeps | apply State.coreResetDone_keeps | apply State.drift_keeps | apply State.failTest_keeps | apply Keeps.ite | apply Keeps.foldl | apply Keeps.advance)
    | (with_reducible first | exact Nat.le_refl _ | exact id | exact fun _ h => h | apply swf_sset | apply swf_swrite | apply swf_sstores | apply swf_filter | apply Mem.write_wf | apply Mem.restoreBlock_wf | apply Mem.zeroFrame_wf | apply Mem.restored_wf | apply Cores.boundary_retired | apply Cores.mem_place | apply Cores.mem_strike | apply List.mem_append_left)
    | (intro _; try dsimp only)
    | split
    | with_reducible apply Keeps.upd)

theorem partialResetCore_keeps {s0 : State} (index : Nat) (passed : Bool) (s : State) (hK : Keeps s0 s) : Keeps s0 (partialResetCore index passed s) := by
  unfold partialResetCore
  try dsimp only
  repeat' (first
    | (with_reducible first | assumption | exact Keeps.refl _ | apply State.coreResetDone_keeps | apply State.coreResetEnd_keeps | apply State.coreResetStart_keeps | apply State.coreResetWait_keeps | apply State.partialDone_keeps | apply Keeps.ite | apply Keeps.foldl | apply Keeps.advance)
    | (with_reducible first | exact Nat.le_refl _ | exact id | exact fun _ h => h | apply swf_sset | apply swf_swrite | apply swf_sstores | apply swf_filter | apply Mem.write_wf | apply Mem.restoreBlock_wf | apply Mem.zeroFrame_wf | apply Mem.restored_wf | apply Cores.boundary_retired | apply Cores.mem_place | apply Cores.mem_strike | apply List.mem_append_left)
    | (intro _; try dsimp only)
    | split
    | with_reducible apply Keeps.upd)

end Sys2Proof.Machine
end

