-- ==== Sys2Proof/Laws/KeepsObserve.lean ====
section
/-! SUPPORT. What the operations of Machine/Observe.lean keep (Laws/Keeps.lean). -/

namespace Sys2Proof.Machine

theorem State.pkgImage_keeps {s0 : State} (s : State) (image : SMap Nat) (drifts : List Drift) (h : ImageHead) (hK : Keeps s0 s) : Keeps s0 (State.pkgImage s image drifts h) := by
  unfold State.pkgImage
  try dsimp only
  repeat' (first
    | (with_reducible first | assumption | exact Keeps.refl _ | apply State.hostWrite_keeps | apply Keeps.ite | apply Keeps.foldl | apply Keeps.advance)
    | (with_reducible first | exact Nat.le_refl _ | exact id | exact fun _ h => h | apply swf_sset | apply swf_swrite | apply swf_sstores | apply swf_filter | apply Mem.write_wf | apply Mem.restoreBlock_wf | apply Mem.zeroFrame_wf | apply Mem.restored_wf | apply Cores.boundary_retired | apply Cores.mem_place | apply Cores.mem_strike | apply List.mem_append_left)
    | (intro _; try dsimp only)
    | split
    | with_reducible apply Keeps.upd)

theorem State.obsPut_keeps {s0 : State} (s : State) (p : Fin 4) (va : Nat) (b : Bytes) (hK : Keeps s0 s) : Keeps s0 (State.obsPut s p va b) := by
  unfold State.obsPut
  try dsimp only
  repeat' (first
    | (with_reducible first | assumption | exact Keeps.refl _ | apply State.obsWrite_keeps | apply Keeps.ite | apply Keeps.foldl | apply Keeps.advance)
    | (with_reducible first | exact Nat.le_refl _ | exact id | exact fun _ h => h | apply swf_sset | apply swf_swrite | apply swf_sstores | apply swf_filter | apply Mem.write_wf | apply Mem.restoreBlock_wf | apply Mem.zeroFrame_wf | apply Mem.restored_wf | apply Cores.boundary_retired | apply Cores.mem_place | apply Cores.mem_strike | apply List.mem_append_left)
    | (intro _; try dsimp only)
    | split
    | with_reducible apply Keeps.upd)

theorem State.snapshotPiece_keeps {s0 : State} (s : State) (p : Fin 4) (xs : List Xlat) (pc : Piece) (hK : Keeps s0 s) : Keeps s0 (State.snapshotPiece s p xs pc) := by
  unfold State.snapshotPiece
  try dsimp only
  repeat' (first
    | (with_reducible first | assumption | exact Keeps.refl _ | apply State.modPart_keeps | apply State.obsWrite_keeps | apply Keeps.ite | apply Keeps.foldl | apply Keeps.advance)
    | (with_reducible first | exact Nat.le_refl _ | exact id | exact fun _ h => h | apply swf_sset | apply swf_swrite | apply swf_sstores | apply swf_filter | apply Mem.write_wf | apply Mem.restoreBlock_wf | apply Mem.zeroFrame_wf | apply Mem.restored_wf | apply Cores.boundary_retired | apply Cores.mem_place | apply Cores.mem_strike | apply List.mem_append_left)
    | (intro _; try dsimp only)
    | split
    | with_reducible apply Keeps.upd)

theorem State.partImage_keeps {s0 : State} (s : State) (p : Fin 4) (image : SMap Nat) (drifts : List Drift) (h : ImageHead) (hK : Keeps s0 s) :
    Keeps s0 (s.partImage p image drifts h).2 := by
  unfold State.partImage
  dsimp only
  exact State.modPart_keeps _ _ _ hK


theorem snapshot_keeps {s0 : State} (p : Fin 4) (s : State) (hK : Keeps s0 s) : Keeps s0 (snapshot p s) := by
  unfold snapshot
  refine State.commandRow_keeps _ _ _ _ _ _ (fun c e t h => ?_) hK
  dsimp only
  exact State.executed_keeps _ _ _ (Keeps.foldl (fun _ _ h => State.snapshotPiece_keeps _ _ _ _ h)
    (State.partImage_keeps _ _ _ _ _ (State.drift_keeps _ h.advance)))


theorem packageSnapshot_keeps {s0 : State} (fn : Fn) (s : State) (hK : Keeps s0 s) : Keeps s0 (packageSnapshot fn s) := by
  unfold packageSnapshot
  try dsimp only
  repeat' (first
    | (with_reducible first | assumption | exact Keeps.refl _ | apply State.drift_keeps | apply State.pkgImage_keeps | apply Keeps.ite | apply Keeps.foldl | apply Keeps.advance)
    | (with_reducible first | exact Nat.le_refl _ | exact id | exact fun _ h => h | apply swf_sset | apply swf_swrite | apply swf_sstores | apply swf_filter | apply Mem.write_wf | apply Mem.restoreBlock_wf | apply Mem.zeroFrame_wf | apply Mem.restored_wf | apply Cores.boundary_retired | apply Cores.mem_place | apply Cores.mem_strike | apply List.mem_append_left)
    | (intro _; try dsimp only)
    | split
    | with_reducible apply Keeps.upd)

theorem State.chargedPut_keeps {s0 : State} (p : Fin 4) : ∀ (n t va : Nat) (b : Bytes) (s : State), Keeps s0 s →
    Keeps s0 (State.chargedPut s p n t va b).1
  | 0, _, _, _, _, hK => hK
  | _ + 1, _, _, [], _, hK => hK
  | n + 1, t, va, x :: b, s, hK => by
    unfold State.chargedPut
    split
    · exact State.chargedPut_keeps p n _ _ _ _ hK
    · dsimp only
      exact State.chargedPut_keeps p n _ _ _ _ (State.obsWrite_keeps _ _ _
        (hK.upd (Nat.le_refl _) id id (Nat.le_refl _) fun _ h => h))

theorem State.periodicWrite_keeps {s0 : State} (s : State) (p : Fin 4) (hK : Keeps s0 s) : Keeps s0 (State.periodicWrite s p) := by
  unfold State.periodicWrite
  extract_lets P slot img size w
  have h1 : Keeps s0 img.2 := State.partImage_keeps _ _ _ _ _ hK
  clear_value img
  exact State.modPart_keeps _ _ _ (State.chargedPut_keeps _ _ _ _ _ _ h1)


theorem periodicSnapshot_keeps {s0 : State} (p : Fin 4) (s : State) (hK : Keeps s0 s) : Keeps s0 (periodicSnapshot p s) := by
  unfold periodicSnapshot
  try dsimp only
  repeat' (first
    | (with_reducible first | assumption | exact Keeps.refl _ | apply State.drift_keeps | apply State.modPart_keeps | apply State.periodicWrite_keeps | apply State.tally_keeps | apply Keeps.ite | apply Keeps.foldl | apply Keeps.advance)
    | (with_reducible first | exact Nat.le_refl _ | exact id | exact fun _ h => h | apply swf_sset | apply swf_swrite | apply swf_sstores | apply swf_filter | apply Mem.write_wf | apply Mem.restoreBlock_wf | apply Mem.zeroFrame_wf | apply Mem.restored_wf | apply Cores.boundary_retired | apply Cores.mem_place | apply Cores.mem_strike | apply List.mem_append_left)
    | (intro _; try dsimp only)
    | split
    | with_reducible apply Keeps.upd)

theorem traceStream_keeps {s0 : State} (p : Fin 4) (s : State) (hK : Keeps s0 s) : Keeps s0 (traceStream p s) := by
  unfold traceStream
  try dsimp only
  repeat' (first
    | (with_reducible first | assumption | exact Keeps.refl _ | apply State.hostWrite_keeps | apply State.modPart_keeps | apply State.sendAddressed_keeps | apply Keeps.ite | apply Keeps.foldl | apply Keeps.advance)
    | (with_reducible first | exact Nat.le_refl _ | exact id | exact fun _ h => h | apply swf_sset | apply swf_swrite | apply swf_sstores | apply swf_filter | apply Mem.write_wf | apply Mem.restoreBlock_wf | apply Mem.zeroFrame_wf | apply Mem.restored_wf | apply Cores.boundary_retired | apply Cores.mem_place | apply Cores.mem_strike | apply List.mem_append_left)
    | (intro _; try dsimp only)
    | split
    | with_reducible apply Keeps.upd)

theorem State.modPeg_keeps {s0 : State} (s : State) (f : Peg → Peg) (hK : Keeps s0 s) : Keeps s0 (State.modPeg s f) := by
  unfold State.modPeg
  try dsimp only
  repeat' (first
    | (with_reducible first | assumption | exact Keeps.refl _ | apply peg_keeps | apply Keeps.ite | apply Keeps.foldl | apply Keeps.advance)
    | (with_reducible first | exact Nat.le_refl _ | exact id | exact fun _ h => h | apply swf_sset | apply swf_swrite | apply swf_sstores | apply swf_filter | apply Mem.write_wf | apply Mem.restoreBlock_wf | apply Mem.zeroFrame_wf | apply Mem.restored_wf | apply Cores.boundary_retired | apply Cores.mem_place | apply Cores.mem_strike | apply List.mem_append_left)
    | (intro _; try dsimp only)
    | split
    | with_reducible apply Keeps.upd)

theorem State.halt_keeps {s0 : State} (s : State) (who : BitVec 4) (hK : Keeps s0 s) : Keeps s0 (State.halt s who) := by
  unfold State.halt
  try dsimp only
  repeat' (first
    | (with_reducible first | assumption | exact Keeps.refl _ | apply State.modPart_keeps | apply State.modPeg_keeps | apply Keeps.ite | apply Keeps.foldl | apply Keeps.advance)
    | (with_reducible first | exact Nat.le_refl _ | exact id | exact fun _ h => h | apply swf_sset | apply swf_swrite | apply swf_sstores | apply swf_filter | apply Mem.write_wf | apply Mem.restoreBlock_wf | apply Mem.zeroFrame_wf | apply Mem.restored_wf | apply Cores.boundary_retired | apply Cores.mem_place | apply Cores.mem_strike | apply List.mem_append_left)
    | (intro _; try dsimp only)
    | split
    | with_reducible apply Keeps.upd)

theorem State.pegRecord_keeps {s0 : State} (s : State) (p : Fin 4) (hK : Keeps s0 s) : Keeps s0 (State.pegRecord s p) := by
  unfold State.pegRecord
  try dsimp only
  repeat' (first
    | (with_reducible first | assumption | exact Keeps.refl _ | apply State.halt_keeps | apply State.trace_keeps | apply peg_keeps | apply Keeps.ite | apply Keeps.foldl | apply Keeps.advance)
    | (with_reducible first | exact Nat.le_refl _ | exact id | exact fun _ h => h | apply swf_sset | apply swf_swrite | apply swf_sstores | apply swf_filter | apply Mem.write_wf | apply Mem.restoreBlock_wf | apply Mem.zeroFrame_wf | apply Mem.restored_wf | apply Cores.boundary_retired | apply Cores.mem_place | apply Cores.mem_strike | apply List.mem_append_left)
    | (intro _; try dsimp only)
    | split
    | with_reducible apply Keeps.upd)

theorem State.pegCapture_keeps {s0 : State} (s : State) (hK : Keeps s0 s) : Keeps s0 (State.pegCapture s) := by
  unfold State.pegCapture
  dsimp only
  refine Keeps.ite (fun _ => hK) (fun _ => Keeps.foldl (fun t p h => ?_)
    (Keeps.foldl (fun _ _ h => State.pegRecord_keeps _ _ h)
      (State.halt_keeps _ _ (State.modPeg_keeps _ _ (State.drift_keeps _ hK.advance)))))
  exact Keeps.ite (fun _ => h) (fun _ => State.obsPut_keeps _ _ _ _ (State.partImage_keeps _ _ _ _ _ h))


theorem pegCapture_keeps {s0 : State} (s : State) (hK : Keeps s0 s) : Keeps s0 (pegCapture s) := by
  unfold pegCapture
  try dsimp only
  repeat' (first
    | (with_reducible first | assumption | exact Keeps.refl _ | apply State.pegCapture_keeps | apply Keeps.ite | apply Keeps.foldl | apply Keeps.advance)
    | (with_reducible first | exact Nat.le_refl _ | exact id | exact fun _ h => h | apply swf_sset | apply swf_swrite | apply swf_sstores | apply swf_filter | apply Mem.write_wf | apply Mem.restoreBlock_wf | apply Mem.zeroFrame_wf | apply Mem.restored_wf | apply Cores.boundary_retired | apply Cores.mem_place | apply Cores.mem_strike | apply List.mem_append_left)
    | (intro _; try dsimp only)
    | split
    | with_reducible apply Keeps.upd)

theorem pegWindowClose_keeps {s0 : State} (s : State) (hK : Keeps s0 s) : Keeps s0 (pegWindowClose s) := by
  unfold pegWindowClose
  try dsimp only
  repeat' (first
    | (with_reducible first | assumption | exact Keeps.refl _ | apply State.modPeg_keeps | apply State.pegCapture_keeps | apply State.pkgImage_keeps | apply peg_keeps | apply pegCapture_keeps | apply Keeps.ite | apply Keeps.foldl | apply Keeps.advance)
    | (with_reducible first | exact Nat.le_refl _ | exact id | exact fun _ h => h | apply swf_sset | apply swf_swrite | apply swf_sstores | apply swf_filter | apply Mem.write_wf | apply Mem.restoreBlock_wf | apply Mem.zeroFrame_wf | apply Mem.restored_wf | apply Cores.boundary_retired | apply Cores.mem_place | apply Cores.mem_strike | apply List.mem_append_left)
    | (intro _; try dsimp only)
    | split
    | with_reducible apply Keeps.upd)

theorem State.pegDetail_keeps {s0 : State} (s : State) (c : Cid) (hK : Keeps s0 s) : Keeps s0 (State.pegDetail s c) := by
  unfold State.pegDetail
  try dsimp only
  repeat' (first
    | (with_reducible first | assumption | exact Keeps.refl _ | apply State.modEntry_keeps | apply peg_keeps | apply Keeps.ite | apply Keeps.foldl | apply Keeps.advance)
    | (with_reducible first | exact Nat.le_refl _ | exact id | exact fun _ h => h | apply swf_sset | apply swf_swrite | apply swf_sstores | apply swf_filter | apply Mem.write_wf | apply Mem.restoreBlock_wf | apply Mem.zeroFrame_wf | apply Mem.restored_wf | apply Cores.boundary_retired | apply Cores.mem_place | apply Cores.mem_strike | apply List.mem_append_left)
    | (intro _; try dsimp only)
    | split
    | with_reducible apply Keeps.upd)

theorem State.pegRun_keeps {s0 : State} (s : State) (p : Fin 4) (c : Cid) (e : Entry) (hK : Keeps s0 s) : Keeps s0 (State.pegRun s p c e) := by
  unfold State.pegRun
  try dsimp only
  repeat' (first
    | (with_reducible first | assumption | exact Keeps.refl _ | apply State.begin_keeps | apply State.executed_keeps | apply State.modPeg_keeps | apply State.pegDetail_keeps | apply State.pegTrigger_keeps | apply State.refuse_keeps | apply peg_keeps | apply pegTrigger_keeps | apply Keeps.ite | apply Keeps.foldl | apply Keeps.advance)
    | (with_reducible first | exact Nat.le_refl _ | exact id | exact fun _ h => h | apply swf_sset | apply swf_swrite | apply swf_sstores | apply swf_filter | apply Mem.write_wf | apply Mem.restoreBlock_wf | apply Mem.zeroFrame_wf | apply Mem.restored_wf | apply Cores.boundary_retired | apply Cores.mem_place | apply Cores.mem_strike | apply List.mem_append_left)
    | (intro _; try dsimp only)
    | split
    | with_reducible apply Keeps.upd)

theorem peg_keeps {s0 : State} (p : Fin 4) (s : State) (hK : Keeps s0 s) : Keeps s0 (peg p s) := by
  unfold peg
  try dsimp only
  repeat' (first
    | (with_reducible first | assumption | exact Keeps.refl _ | apply State.acceptHead_keeps | apply State.accepted_keeps | apply State.begin_keeps | apply State.pegRun_keeps | apply State.refuse_keeps | apply Keeps.ite | apply Keeps.foldl | apply Keeps.advance)
    | (with_reducible first | exact Nat.le_refl _ | exact id | exact fun _ h => h | apply swf_sset | apply swf_swrite | apply swf_sstores | apply swf_filter | apply Mem.write_wf | apply Mem.restoreBlock_wf | apply Mem.zeroFrame_wf | apply Mem.restored_wf | apply Cores.boundary_retired | apply Cores.mem_place | apply Cores.mem_strike | apply List.mem_append_left)
    | (intro _; try dsimp only)
    | split
    | with_reducible apply Keeps.upd)

theorem pegTrigger_keeps {s0 : State} (fn : Fn) (halt fabric : Bool) (s : State) (hK : Keeps s0 s) : Keeps s0 (pegTrigger fn halt fabric s) := by
  unfold pegTrigger
  try dsimp only
  repeat' (first
    | (with_reducible first | assumption | exact Keeps.refl _ | apply State.halt_keeps | apply State.pegTrigger_keeps | apply Keeps.ite | apply Keeps.foldl | apply Keeps.advance)
    | (with_reducible first | exact Nat.le_refl _ | exact id | exact fun _ h => h | apply swf_sset | apply swf_swrite | apply swf_sstores | apply swf_filter | apply Mem.write_wf | apply Mem.restoreBlock_wf | apply Mem.zeroFrame_wf | apply Mem.restored_wf | apply Cores.boundary_retired | apply Cores.mem_place | apply Cores.mem_strike | apply List.mem_append_left)
    | (intro _; try dsimp only)
    | split
    | with_reducible apply Keeps.upd)

theorem pegResume_keeps {s0 : State} (fn : Fn) (fabric : Bool) (s : State) (hK : Keeps s0 s) : Keeps s0 (pegResume fn fabric s) := by
  unfold pegResume
  try dsimp only
  repeat' (first
    | (with_reducible first | assumption | exact Keeps.refl _ | apply State.accepted_keeps | apply State.flood_keeps | apply State.modPeg_keeps | apply peg_keeps | apply Keeps.ite | apply Keeps.foldl | apply Keeps.advance)
    | (with_reducible first | exact Nat.le_refl _ | exact id | exact fun _ h => h | apply swf_sset | apply swf_swrite | apply swf_sstores | apply swf_filter | apply Mem.write_wf | apply Mem.restoreBlock_wf | apply Mem.zeroFrame_wf | apply Mem.restored_wf | apply Cores.boundary_retired | apply Cores.mem_place | apply Cores.mem_strike | apply List.mem_append_left)
    | (intro _; try dsimp only)
    | split
    | with_reducible apply Keeps.upd)

theorem State.controlTaken_keeps {s0 : State} (s : State) (i kind : Nat) (payload : Bytes) (hK : Keeps s0 s) : Keeps s0 (State.controlTaken s i kind payload) := by
  unfold State.controlTaken
  try dsimp only
  repeat' (first
    | (with_reducible first | assumption | exact Keeps.refl _ | apply State.modPort_keeps | apply Keeps.ite | apply Keeps.foldl | apply Keeps.advance)
    | (with_reducible first | exact Nat.le_refl _ | exact id | exact fun _ h => h | apply swf_sset | apply swf_swrite | apply swf_sstores | apply swf_filter | apply Mem.write_wf | apply Mem.restoreBlock_wf | apply Mem.zeroFrame_wf | apply Mem.restored_wf | apply Cores.boundary_retired | apply Cores.mem_place | apply Cores.mem_strike | apply List.mem_append_left)
    | (intro _; try dsimp only)
    | split
    | with_reducible apply Keeps.upd)

theorem State.pegForward_keeps {s0 : State} (s : State) (i : Nat) (payload : Bytes) (hK : Keeps s0 s) : Keeps s0 (State.pegForward s i payload) := by
  unfold State.pegForward
  try dsimp only
  repeat' (first
    | (with_reducible first | assumption | exact Keeps.refl _ | apply State.flood_keeps | apply Keeps.ite | apply Keeps.foldl | apply Keeps.advance)
    | (with_reducible first | exact Nat.le_refl _ | exact id | exact fun _ h => h | apply swf_sset | apply swf_swrite | apply swf_sstores | apply swf_filter | apply Mem.write_wf | apply Mem.restoreBlock_wf | apply Mem.zeroFrame_wf | apply Mem.restored_wf | apply Cores.boundary_retired | apply Cores.mem_place | apply Cores.mem_strike | apply List.mem_append_left)
    | (intro _; try dsimp only)
    | split
    | with_reducible apply Keeps.upd)

theorem pegPacketReceive_keeps {s0 : State} (i : Fin 32) (payload : Bytes) (s : State) (hK : Keeps s0 s) : Keeps s0 (pegPacketReceive i payload s) := by
  unfold pegPacketReceive
  try dsimp only
  repeat' (first
    | (with_reducible first | assumption | exact Keeps.refl _ | apply State.accepted_keeps | apply State.controlTaken_keeps | apply State.halt_keeps | apply State.modPeg_keeps | apply State.pegForward_keeps | apply deviceReady_keeps | apply peg_keeps | apply Keeps.ite | apply Keeps.foldl | apply Keeps.advance)
    | (with_reducible first | exact Nat.le_refl _ | exact id | exact fun _ h => h | apply swf_sset | apply swf_swrite | apply swf_sstores | apply swf_filter | apply Mem.write_wf | apply Mem.restoreBlock_wf | apply Mem.zeroFrame_wf | apply Mem.restored_wf | apply Cores.boundary_retired | apply Cores.mem_place | apply Cores.mem_strike | apply List.mem_append_left)
    | (intro _; try dsimp only)
    | split
    | with_reducible apply Keeps.upd)

theorem counterSelectWrite_keeps {s0 : State} (fn : Fn) (p : Fin 4) (index : Nat) (value : W32) (s : State) (hK : Keeps s0 s) : Keeps s0 (counterSelectWrite fn p index value s) := by
  unfold counterSelectWrite
  try dsimp only
  repeat' (first
    | (with_reducible first | assumption | exact Keeps.refl _ | apply State.modPart_keeps | apply Keeps.ite | apply Keeps.foldl | apply Keeps.advance)
    | (with_reducible first | exact Nat.le_refl _ | exact id | exact fun _ h => h | apply swf_sset | apply swf_swrite | apply swf_sstores | apply swf_filter | apply Mem.write_wf | apply Mem.restoreBlock_wf | apply Mem.zeroFrame_wf | apply Mem.restored_wf | apply Cores.boundary_retired | apply Cores.mem_place | apply Cores.mem_strike | apply List.mem_append_left)
    | (intro _; try dsimp only)
    | split
    | with_reducible apply Keeps.upd)

theorem counterSelectApply_keeps {s0 : State} (p : Fin 4) (s : State) (hK : Keeps s0 s) : Keeps s0 (counterSelectApply p s) := by
  unfold counterSelectApply
  try dsimp only
  repeat' (first
    | (with_reducible first | assumption | exact Keeps.refl _ | apply State.drift_keeps | apply State.modPart_keeps | apply Keeps.ite | apply Keeps.foldl | apply Keeps.advance)
    | (with_reducible first | exact Nat.le_refl _ | exact id | exact fun _ h => h | apply swf_sset | apply swf_swrite | apply swf_sstores | apply swf_filter | apply Mem.write_wf | apply Mem.restoreBlock_wf | apply Mem.zeroFrame_wf | apply Mem.restored_wf | apply Cores.boundary_retired | apply Cores.mem_place | apply Cores.mem_strike | apply List.mem_append_left)
    | (intro _; try dsimp only)
    | split
    | with_reducible apply Keeps.upd)

theorem obsModeWrite_keeps {s0 : State} (fn : Fn) (p : Fin 4) (value : W32) (s : State) (hK : Keeps s0 s) : Keeps s0 (obsModeWrite fn p value s) := by
  unfold obsModeWrite
  try dsimp only
  repeat' (first
    | (with_reducible first | assumption | exact Keeps.refl _ | apply State.modPart_keeps | apply Keeps.ite | apply Keeps.foldl | apply Keeps.advance)
    | (with_reducible first | exact Nat.le_refl _ | exact id | exact fun _ h => h | apply swf_sset | apply swf_swrite | apply swf_sstores | apply swf_filter | apply Mem.write_wf | apply Mem.restoreBlock_wf | apply Mem.zeroFrame_wf | apply Mem.restored_wf | apply Cores.boundary_retired | apply Cores.mem_place | apply Cores.mem_strike | apply List.mem_append_left)
    | (intro _; try dsimp only)
    | split
    | with_reducible apply Keeps.upd)

end Sys2Proof.Machine
end

