-- ==== Sys2Proof/Laws/KeepsLife.lean ====
section
/-! SUPPORT. What the operations of Machine/Life.lean keep (Laws/Keeps.lean). -/

namespace Sys2Proof.Machine

theorem Life.addWear_rollback (l : Life) (k : Nat) : (l.addWear k).rollbackCounter = l.rollbackCounter := rfl

theorem Life.cycle_rollback (l : Life) (die t : Nat) : (l.cycle die t).rollbackCounter = l.rollbackCounter := by
  unfold Life.cycle
  dsimp only
  split
  · split <;> rfl
  · split <;> rfl







theorem deviceReady_keeps {s0 : State} (s : State) (hK : Keeps s0 s) : Keeps s0 (deviceReady s) := by
  unfold deviceReady
  try dsimp only
  repeat' (first
    | (with_reducible first | assumption | exact Keeps.refl _ | apply State.bootLine_keeps | apply State.openPort_keeps | apply Keeps.ite | apply Keeps.foldl | apply Keeps.advance)
    | (with_reducible first | exact Nat.le_refl _ | exact id | exact fun _ h => h | apply swf_sset | apply swf_swrite | apply swf_sstores | apply swf_filter | apply Mem.write_wf | apply Mem.restoreBlock_wf | apply Mem.zeroFrame_wf | apply Mem.restored_wf | apply Cores.boundary_retired | apply Cores.mem_place | apply Cores.mem_strike | apply List.mem_append_left)
    | (intro _; try dsimp only)
    | split
    | with_reducible apply Keeps.upd)

theorem timeBaseCompare_keeps {s0 : State} (die : Fin 9) (difference : Int) (s : State) (hK : Keeps s0 s) : Keeps s0 (timeBaseCompare die difference s) := by
  unfold timeBaseCompare
  try dsimp only
  repeat' (first
    | (with_reducible first | assumption | exact Keeps.refl _ | apply Keeps.ite | apply Keeps.foldl | apply Keeps.advance)
    | (with_reducible first | exact Nat.le_refl _ | exact id | exact fun _ h => h | apply swf_sset | apply swf_swrite | apply swf_sstores | apply swf_filter | apply Mem.write_wf | apply Mem.restoreBlock_wf | apply Mem.zeroFrame_wf | apply Mem.restored_wf | apply Cores.boundary_retired | apply Cores.mem_place | apply Cores.mem_strike | apply List.mem_append_left)
    | (intro _; try dsimp only)
    | split
    | with_reducible apply Keeps.upd)

theorem timeSyncSend_keeps {s0 : State} (s : State) (hK : Keeps s0 s) : Keeps s0 (timeSyncSend s) := by
  unfold timeSyncSend
  try dsimp only
  repeat' (first
    | (with_reducible first | assumption | exact Keeps.refl _ | apply State.transmit_keeps | apply Keeps.ite | apply Keeps.foldl | apply Keeps.advance)
    | (with_reducible first | exact Nat.le_refl _ | exact id | exact fun _ h => h | apply swf_sset | apply swf_swrite | apply swf_sstores | apply swf_filter | apply Mem.write_wf | apply Mem.restoreBlock_wf | apply Mem.zeroFrame_wf | apply Mem.restored_wf | apply Cores.boundary_retired | apply Cores.mem_place | apply Cores.mem_strike | apply List.mem_append_left)
    | (intro _; try dsimp only)
    | split
    | with_reducible apply Keeps.upd)

theorem State.chooseParent_keeps {s0 : State} (s : State) (hK : Keeps s0 s) : Keeps s0 (State.chooseParent s) := by
  unfold State.chooseParent
  try dsimp only
  repeat' (first
    | (with_reducible first | assumption | exact Keeps.refl _ | apply Keeps.ite | apply Keeps.foldl | apply Keeps.advance)
    | (with_reducible first | exact Nat.le_refl _ | exact id | exact fun _ h => h | apply swf_sset | apply swf_swrite | apply swf_sstores | apply swf_filter | apply Mem.write_wf | apply Mem.restoreBlock_wf | apply Mem.zeroFrame_wf | apply Mem.restored_wf | apply Cores.boundary_retired | apply Cores.mem_place | apply Cores.mem_strike | apply List.mem_append_left)
    | (intro _; try dsimp only)
    | split
    | with_reducible apply Keeps.upd)

theorem State.steer_keeps {s0 : State} (s : State) (offset : Int) (hK : Keeps s0 s) : Keeps s0 (State.steer s offset) := by
  unfold State.steer
  extract_lets l offs a
  have ha : Keeps s0 a := hK.upd (Nat.le_refl _) id id (Nat.le_refl _) fun _ h => h
  exact Keeps.ite (fun _ => ha.upd (Nat.le_add_right _ _) id id (Nat.le_refl _) fun _ h => h)
    (fun _ => ha.upd (Nat.le_refl _) id id (Nat.le_refl _) fun _ h => h)


theorem timeSyncReceive_keeps {s0 : State} (i : Fin 32) (payload : Bytes) (s : State) (hK : Keeps s0 s) : Keeps s0 (timeSyncReceive i payload s) := by
  unfold timeSyncReceive
  try dsimp only
  repeat' (first
    | (with_reducible first | assumption | exact Keeps.refl _ | apply State.chooseParent_keeps | apply State.controlWait_keeps | apply State.modPort_keeps | apply State.steer_keeps | apply deviceReady_keeps | apply Keeps.ite | apply Keeps.foldl | apply Keeps.advance)
    | (with_reducible first | exact Nat.le_refl _ | exact id | exact fun _ h => h | apply swf_sset | apply swf_swrite | apply swf_sstores | apply swf_filter | apply Mem.write_wf | apply Mem.restoreBlock_wf | apply Mem.zeroFrame_wf | apply Mem.restored_wf | apply Cores.boundary_retired | apply Cores.mem_place | apply Cores.mem_strike | apply List.mem_append_left)
    | (intro _; try dsimp only)
    | split
    | with_reducible apply Keeps.upd)

theorem State.discoveryTake_keeps {s0 : State} (s : State) (i : Fin 32) (payload : Bytes) (hK : Keeps s0 s) : Keeps s0 (State.discoveryTake s i payload) := by
  unfold State.discoveryTake
  try dsimp only
  repeat' (first
    | (with_reducible first | assumption | exact Keeps.refl _ | apply State.controlTaken_keeps | apply State.installKeys_keeps | apply State.modPort_keeps | apply State.openPort_keeps | apply State.spdmSend_keeps | apply State.transmit_keeps | apply Keeps.ite | apply Keeps.foldl | apply Keeps.advance)
    | (with_reducible first | exact Nat.le_refl _ | exact id | exact fun _ h => h | apply swf_sset | apply swf_swrite | apply swf_sstores | apply swf_filter | apply Mem.write_wf | apply Mem.restoreBlock_wf | apply Mem.zeroFrame_wf | apply Mem.restored_wf | apply Cores.boundary_retired | apply Cores.mem_place | apply Cores.mem_strike | apply List.mem_append_left)
    | (intro _; try dsimp only)
    | split
    | with_reducible apply Keeps.upd)

theorem discoveryReceive_keeps {s0 : State} (i : Fin 32) (payload : Bytes) (s : State) (hK : Keeps s0 s) : Keeps s0 (discoveryReceive i payload s) := by
  unfold discoveryReceive
  try dsimp only
  repeat' (first
    | (with_reducible first | assumption | exact Keeps.refl _ | apply State.controlWait_keeps | apply State.discoveryTake_keeps | apply deviceReady_keeps | apply Keeps.ite | apply Keeps.foldl | apply Keeps.advance)
    | (with_reducible first | exact Nat.le_refl _ | exact id | exact fun _ h => h | apply swf_sset | apply swf_swrite | apply swf_sstores | apply swf_filter | apply Mem.write_wf | apply Mem.restoreBlock_wf | apply Mem.zeroFrame_wf | apply Mem.restored_wf | apply Cores.boundary_retired | apply Cores.mem_place | apply Cores.mem_strike | apply List.mem_append_left)
    | (intro _; try dsimp only)
    | split
    | with_reducible apply Keeps.upd)

theorem State.workWait_keeps {s0 : State} (s : State) (c : Cid) (e : Entry) (xs : List Xlat) (hK : Keeps s0 s) : Keeps s0 (State.workWait s c e xs) := by
  unfold State.workWait
  try dsimp only
  repeat' (first
    | (with_reducible first | assumption | exact Keeps.refl _ | apply Keeps.ite | apply Keeps.foldl | apply Keeps.advance)
    | (with_reducible first | exact Nat.le_refl _ | exact id | exact fun _ h => h | apply swf_sset | apply swf_swrite | apply swf_sstores | apply swf_filter | apply Mem.write_wf | apply Mem.restoreBlock_wf | apply Mem.zeroFrame_wf | apply Mem.restored_wf | apply Cores.boundary_retired | apply Cores.mem_place | apply Cores.mem_strike | apply List.mem_append_left)
    | (intro _; try dsimp only)
    | split
    | with_reducible apply Keeps.upd)

theorem State.workStart_keeps {s0 : State} (s : State) (b : Background) (hK : Keeps s0 s) : Keeps s0 (State.workStart s b) := by
  unfold State.workStart
  try dsimp only
  repeat' (first
    | (with_reducible first | assumption | exact Keeps.refl _ | apply State.drift_keeps | apply State.replace_keeps | apply State.vacate_keeps | apply Keeps.ite | apply Keeps.foldl | apply Keeps.advance)
    | (with_reducible first | exact Nat.le_refl _ | exact id | exact fun _ h => h | apply swf_sset | apply swf_swrite | apply swf_sstores | apply swf_filter | apply Mem.write_wf | apply Mem.restoreBlock_wf | apply Mem.zeroFrame_wf | apply Mem.restored_wf | apply Cores.boundary_retired | apply Cores.mem_place | apply Cores.mem_strike | apply List.mem_append_left)
    | (intro _; try dsimp only)
    | split
    | with_reducible apply Keeps.upd)

theorem State.workDefer_keeps {s0 : State} (s : State) (c : Cid) (b : Background) (hK : Keeps s0 s) : Keeps s0 (State.workDefer s c b) := by
  unfold State.workDefer
  try dsimp only
  repeat' (first
    | (with_reducible first | assumption | exact Keeps.refl _ | apply State.refuse_keeps | apply Keeps.ite | apply Keeps.foldl | apply Keeps.advance)
    | (with_reducible first | exact Nat.le_refl _ | exact id | exact fun _ h => h | apply swf_sset | apply swf_swrite | apply swf_sstores | apply swf_filter | apply Mem.write_wf | apply Mem.restoreBlock_wf | apply Mem.zeroFrame_wf | apply Mem.restored_wf | apply Cores.boundary_retired | apply Cores.mem_place | apply Cores.mem_strike | apply List.mem_append_left)
    | (intro _; try dsimp only)
    | split
    | with_reducible apply Keeps.upd)

theorem State.workGo_keeps {s0 : State} (s : State) (c : Cid) (hK : Keeps s0 s) : Keeps s0 (State.workGo s c) := by
  unfold State.workGo
  try dsimp only
  repeat' (first
    | (with_reducible first | assumption | exact Keeps.refl _ | apply State.begin_keeps | apply State.executed_keeps | apply State.workDefer_keeps | apply State.workStart_keeps | apply Keeps.ite | apply Keeps.foldl | apply Keeps.advance)
    | (with_reducible first | exact Nat.le_refl _ | exact id | exact fun _ h => h | apply swf_sset | apply swf_swrite | apply swf_sstores | apply swf_filter | apply Mem.write_wf | apply Mem.restoreBlock_wf | apply Mem.zeroFrame_wf | apply Mem.restored_wf | apply Cores.boundary_retired | apply Cores.mem_place | apply Cores.mem_strike | apply List.mem_append_left)
    | (intro _; try dsimp only)
    | split
    | with_reducible apply Keeps.upd)

theorem State.workRow_keeps {s0 : State} (s : State) (p : Fin 4) (kind : Nat) (hK : Keeps s0 s) : Keeps s0 (State.workRow s p kind) := by
  unfold State.workRow
  try dsimp only
  repeat' (first
    | (with_reducible first | assumption | exact Keeps.refl _ | apply State.acceptHead_keeps | apply State.accepted_keeps | apply State.begin_keeps | apply State.executed_keeps | apply State.refuse_keeps | apply State.refusePoisoned_keeps | apply State.workGo_keeps | apply State.workWait_keeps | apply Keeps.ite | apply Keeps.foldl | apply Keeps.advance)
    | (with_reducible first | exact Nat.le_refl _ | exact id | exact fun _ h => h | apply swf_sset | apply swf_swrite | apply swf_sstores | apply swf_filter | apply Mem.write_wf | apply Mem.restoreBlock_wf | apply Mem.zeroFrame_wf | apply Mem.restored_wf | apply Cores.boundary_retired | apply Cores.mem_place | apply Cores.mem_strike | apply List.mem_append_left)
    | (intro _; try dsimp only)
    | split
    | with_reducible apply Keeps.upd)

theorem selfTest_keeps {s0 : State} (p : Fin 4) (s : State) (hK : Keeps s0 s) : Keeps s0 (selfTest p s) := by
  unfold selfTest
  try dsimp only
  repeat' (first
    | (with_reducible first | assumption | exact Keeps.refl _ | apply State.workRow_keeps | apply Keeps.ite | apply Keeps.foldl | apply Keeps.advance)
    | (with_reducible first | exact Nat.le_refl _ | exact id | exact fun _ h => h | apply swf_sset | apply swf_swrite | apply swf_sstores | apply swf_filter | apply Mem.write_wf | apply Mem.restoreBlock_wf | apply Mem.zeroFrame_wf | apply Mem.restored_wf | apply Cores.boundary_retired | apply Cores.mem_place | apply Cores.mem_strike | apply List.mem_append_left)
    | (intro _; try dsimp only)
    | split
    | with_reducible apply Keeps.upd)

theorem calibrate_keeps {s0 : State} (p : Fin 4) (s : State) (hK : Keeps s0 s) : Keeps s0 (calibrate p s) := by
  unfold calibrate
  try dsimp only
  repeat' (first
    | (with_reducible first | assumption | exact Keeps.refl _ | apply State.workRow_keeps | apply Keeps.ite | apply Keeps.foldl | apply Keeps.advance)
    | (with_reducible first | exact Nat.le_refl _ | exact id | exact fun _ h => h | apply swf_sset | apply swf_swrite | apply swf_sstores | apply swf_filter | apply Mem.write_wf | apply Mem.restoreBlock_wf | apply Mem.zeroFrame_wf | apply Mem.restored_wf | apply Cores.boundary_retired | apply Cores.mem_place | apply Cores.mem_strike | apply List.mem_append_left)
    | (intro _; try dsimp only)
    | split
    | with_reducible apply Keeps.upd)

theorem selfTestWindowExpiry_keeps {s0 : State} (p : Fin 4) (s : State) (hK : Keeps s0 s) : Keeps s0 (selfTestWindowExpiry p s) := by
  unfold selfTestWindowExpiry
  try dsimp only
  repeat' (first
    | (with_reducible first | assumption | exact Keeps.refl _ | apply State.accepted_keeps | apply State.begin_keeps | apply State.executed_keeps | apply State.workDefer_keeps | apply State.workStart_keeps | apply Keeps.ite | apply Keeps.foldl | apply Keeps.advance)
    | (with_reducible first | exact Nat.le_refl _ | exact id | exact fun _ h => h | apply swf_sset | apply swf_swrite | apply swf_sstores | apply swf_filter | apply Mem.write_wf | apply Mem.restoreBlock_wf | apply Mem.zeroFrame_wf | apply Mem.restored_wf | apply Cores.boundary_retired | apply Cores.mem_place | apply Cores.mem_strike | apply List.mem_append_left)
    | (intro _; try dsimp only)
    | split
    | with_reducible apply Keeps.upd)

theorem State.workResult_keeps {s0 : State} (s : State) (b : Background) (outcome : Nat) (hK : Keeps s0 s) : Keeps s0 (State.workResult s b outcome) := by
  unfold State.workResult
  try dsimp only
  repeat' (first
    | (with_reducible first | assumption | exact Keeps.refl _ | apply State.hostWrite_keeps | apply State.writeOutside_keeps | apply Keeps.ite | apply Keeps.foldl | apply Keeps.advance)
    | (with_reducible first | exact Nat.le_refl _ | exact id | exact fun _ h => h | apply swf_sset | apply swf_swrite | apply swf_sstores | apply swf_filter | apply Mem.write_wf | apply Mem.restoreBlock_wf | apply Mem.zeroFrame_wf | apply Mem.restored_wf | apply Cores.boundary_retired | apply Cores.mem_place | apply Cores.mem_strike | apply List.mem_append_left)
    | (intro _; try dsimp only)
    | split
    | with_reducible apply Keeps.upd)

theorem backgroundWorkDone_keeps {s0 : State} (index outcome : Nat) (s : State) (hK : Keeps s0 s) : Keeps s0 (backgroundWorkDone index outcome s) := by
  unfold backgroundWorkDone
  try dsimp only
  repeat' (first
    | (with_reducible first | assumption | exact Keeps.refl _ | apply State.clockStop_keeps | apply State.drift_keeps | apply State.failTest_keeps | apply State.workResult_keeps | apply stackFailure_keeps | apply Keeps.ite | apply Keeps.foldl | apply Keeps.advance)
    | (with_reducible first | exact Nat.le_refl _ | exact id | exact fun _ h => h | apply swf_sset | apply swf_swrite | apply swf_sstores | apply swf_filter | apply Mem.write_wf | apply Mem.restoreBlock_wf | apply Mem.zeroFrame_wf | apply Mem.restored_wf | apply Cores.boundary_retired | apply Cores.mem_place | apply Cores.mem_strike | apply List.mem_append_left)
    | (intro _; try dsimp only)
    | split
    | with_reducible apply Keeps.upd)

theorem State.wearDie_keeps {s0 : State} (s : State) (die : Nat) (hK : Keeps s0 s) : Keeps s0 (State.wearDie s die) := by
  unfold State.wearDie
  exact hK.upd (Nat.le_refl _) id id (Nat.le_of_eq ((Life.cycle_rollback _ _ _).trans (Life.addWear_rollback _ _)).symm) fun _ h => h


theorem wearSample_keeps {s0 : State} (s : State) (hK : Keeps s0 s) : Keeps s0 (wearSample s) := by
  unfold wearSample
  extract_lets a b
  have hb : Keeps s0 b := Keeps.foldl (fun _ _ h => State.wearDie_keeps _ _ h)
    (hK.upd (Nat.le_refl _) id id (Nat.le_of_eq (Life.addWear_rollback _ _).symm) fun _ h => h)
  exact Keeps.ite (fun _ => hK) (fun _ => Keeps.ite (fun _ => State.replace_keeps _ _ _ hb) (fun _ => hb))


theorem wearAccumulatorWrite_keeps {s0 : State} (s : State) (hK : Keeps s0 s) : Keeps s0 (wearAccumulatorWrite s) := by
  unfold wearAccumulatorWrite Life.saveWear
  exact Keeps.ite (fun _ => hK.upd (Nat.le_refl _) id id (Nat.le_refl _) fun _ h => h) (fun _ => hK)


theorem State.restartBasket_keeps {s0 : State} (s : State) (hK : Keeps s0 s) : Keeps s0 (State.restartBasket s) := by
  unfold State.restartBasket Life.startBasket
  exact State.health_keeps _ _ (hK.upd (Nat.le_refl _) id id (Nat.le_refl _) fun _ h => h)


theorem State.setCalendar_keeps {s0 : State} (s : State) (seconds : Nat) (hK : Keeps s0 s) : Keeps s0 (State.setCalendar s seconds) := by
  unfold State.setCalendar
  try dsimp only
  repeat' (first
    | (with_reducible first | assumption | exact Keeps.refl _ | apply State.lifeNote_keeps | apply Keeps.ite | apply Keeps.foldl | apply Keeps.advance)
    | (with_reducible first | exact Nat.le_refl _ | exact id | exact fun _ h => h | apply swf_sset | apply swf_swrite | apply swf_sstores | apply swf_filter | apply Mem.write_wf | apply Mem.restoreBlock_wf | apply Mem.zeroFrame_wf | apply Mem.restored_wf | apply Cores.boundary_retired | apply Cores.mem_place | apply Cores.mem_strike | apply List.mem_append_left)
    | (intro _; try dsimp only)
    | split
    | with_reducible apply Keeps.upd)

theorem State.mgmt_keeps {s0 : State} (s : State) (msg : MgmtMsg) (hK : Keeps s0 s) : Keeps s0 (State.mgmt s msg) := by
  unfold State.mgmt
  try dsimp only
  repeat' (first
    | (with_reducible first | assumption | exact Keeps.refl _ | apply State.lifeNote_keeps | apply State.setCalendar_keeps | apply Keeps.ite | apply Keeps.foldl | apply Keeps.advance)
    | (with_reducible first | exact Nat.le_refl _ | exact id | exact fun _ h => h | apply swf_sset | apply swf_swrite | apply swf_sstores | apply swf_filter | apply Mem.write_wf | apply Mem.restoreBlock_wf | apply Mem.zeroFrame_wf | apply Mem.restored_wf | apply Cores.boundary_retired | apply Cores.mem_place | apply Cores.mem_strike | apply List.mem_append_left)
    | (intro _; try dsimp only)
    | split
    | with_reducible apply Keeps.upd)

theorem State.mgmtWaited_keeps {s0 : State} (s : State) (hK : Keeps s0 s) : Keeps s0 (State.mgmtWaited s) := by
  unfold State.mgmtWaited
  try dsimp only
  repeat' (first
    | (with_reducible first | assumption | exact Keeps.refl _ | apply State.mgmt_keeps | apply Keeps.ite | apply Keeps.foldl | apply Keeps.advance)
    | (with_reducible first | exact Nat.le_refl _ | exact id | exact fun _ h => h | apply swf_sset | apply swf_swrite | apply swf_sstores | apply swf_filter | apply Mem.write_wf | apply Mem.restoreBlock_wf | apply Mem.zeroFrame_wf | apply Mem.restored_wf | apply Cores.boundary_retired | apply Cores.mem_place | apply Cores.mem_strike | apply List.mem_append_left)
    | (intro _; try dsimp only)
    | split
    | with_reducible apply Keeps.upd)

theorem basketHeartbeatCheck_keeps {s0 : State} (beat : Bool) (s : State) (hK : Keeps s0 s) : Keeps s0 (basketHeartbeatCheck beat s) := by
  unfold basketHeartbeatCheck
  try dsimp only
  repeat' (first
    | (with_reducible first | assumption | exact Keeps.refl _ | apply State.mgmtWaited_keeps | apply State.restartBasket_keeps | apply Keeps.ite | apply Keeps.foldl | apply Keeps.advance)
    | (with_reducible first | exact Nat.le_refl _ | exact id | exact fun _ h => h | apply swf_sset | apply swf_swrite | apply swf_sstores | apply swf_filter | apply Mem.write_wf | apply Mem.restoreBlock_wf | apply Mem.zeroFrame_wf | apply Mem.restored_wf | apply Cores.boundary_retired | apply Cores.mem_place | apply Cores.mem_strike | apply List.mem_append_left)
    | (intro _; try dsimp only)
    | split
    | with_reducible apply Keeps.upd)

theorem managementCoreFault_keeps {s0 : State} (s : State) (hK : Keeps s0 s) : Keeps s0 (managementCoreFault s) := by
  unfold managementCoreFault
  try dsimp only
  repeat' (first
    | (with_reducible first | assumption | exact Keeps.refl _ | apply State.restartBasket_keeps | apply Keeps.ite | apply Keeps.foldl | apply Keeps.advance)
    | (with_reducible first | exact Nat.le_refl _ | exact id | exact fun _ h => h | apply swf_sset | apply swf_swrite | apply swf_sstores | apply swf_filter | apply Mem.write_wf | apply Mem.restoreBlock_wf | apply Mem.zeroFrame_wf | apply Mem.restored_wf | apply Cores.boundary_retired | apply Cores.mem_place | apply Cores.mem_strike | apply List.mem_append_left)
    | (intro _; try dsimp only)
    | split
    | with_reducible apply Keeps.upd)

theorem basketRollbackRaise_keeps {s0 : State} (s : State) (hK : Keeps s0 s) : Keeps s0 (basketRollbackRaise s) := by
  unfold basketRollbackRaise
  extract_lets v a
  refine Keeps.ite (fun h => State.lifeNote_keeps _ _ _ _ ?_) (fun _ => hK)
  have hv : s.life.rollbackCounter < v := by
    simp only [Bool.and_eq_true, decide_eq_true_eq] at h
    exact h.2
  exact (hK.advance (t := s.life.basketStartedAt + 600000000000)).upd (Nat.le_refl _) id id (Nat.le_of_lt hv) fun _ h => h


theorem calendarSet_keeps {s0 : State} (fn : Fn) (value : W64) (s : State) (hK : Keeps s0 s) : Keeps s0 (calendarSet fn value s) := by
  unfold calendarSet
  try dsimp only
  repeat' (first
    | (with_reducible first | assumption | exact Keeps.refl _ | apply State.setCalendar_keeps | apply Keeps.ite | apply Keeps.foldl | apply Keeps.advance)
    | (with_reducible first | exact Nat.le_refl _ | exact id | exact fun _ h => h | apply swf_sset | apply swf_swrite | apply swf_sstores | apply swf_filter | apply Mem.write_wf | apply Mem.restoreBlock_wf | apply Mem.zeroFrame_wf | apply Mem.restored_wf | apply Cores.boundary_retired | apply Cores.mem_place | apply Cores.mem_strike | apply List.mem_append_left)
    | (intro _; try dsimp only)
    | split
    | with_reducible apply Keeps.upd)

theorem mctpMessage_keeps {s0 : State} (msg : MctpMsg) (s : State) (hK : Keeps s0 s) : Keeps s0 (mctpMessage msg s) := by
  unfold mctpMessage
  try dsimp only
  repeat' (first
    | (with_reducible first | assumption | exact Keeps.refl _ | apply State.mgmt_keeps | apply State.mgmtWaited_keeps | apply Keeps.ite | apply Keeps.foldl | apply Keeps.advance)
    | (with_reducible first | exact Nat.le_refl _ | exact id | exact fun _ h => h | apply swf_sset | apply swf_swrite | apply swf_sstores | apply swf_filter | apply Mem.write_wf | apply Mem.restoreBlock_wf | apply Mem.zeroFrame_wf | apply Mem.restored_wf | apply Cores.boundary_retired | apply Cores.mem_place | apply Cores.mem_strike | apply List.mem_append_left)
    | (intro _; try dsimp only)
    | split
    | with_reducible apply Keeps.upd)

theorem State.exportGo_keeps {s0 : State} (s : State) (fn : Fn) (region : Nat) (hK : Keeps s0 s) : Keeps s0 (State.exportGo s fn region) := by
  unfold State.exportGo
  try dsimp only
  repeat' (first
    | (with_reducible first | assumption | exact Keeps.refl _ | apply deviceReady_keeps | apply Keeps.ite | apply Keeps.foldl | apply Keeps.advance)
    | (with_reducible first | exact Nat.le_refl _ | exact id | exact fun _ h => h | apply swf_sset | apply swf_swrite | apply swf_sstores | apply swf_filter | apply Mem.write_wf | apply Mem.restoreBlock_wf | apply Mem.zeroFrame_wf | apply Mem.restored_wf | apply Cores.boundary_retired | apply Cores.mem_place | apply Cores.mem_strike | apply List.mem_append_left)
    | (intro _; try dsimp only)
    | split
    | with_reducible apply Keeps.upd)

theorem State.exportRun_keeps {s0 : State} (s : State) (hK : Keeps s0 s) : Keeps s0 (State.exportRun s) := by
  unfold State.exportRun
  try dsimp only
  repeat' (first
    | (with_reducible first | assumption | exact Keeps.refl _ | apply State.hostWrite_keeps | apply Keeps.ite | apply Keeps.foldl | apply Keeps.advance)
    | (with_reducible first | exact Nat.le_refl _ | exact id | exact fun _ h => h | apply swf_sset | apply swf_swrite | apply swf_sstores | apply swf_filter | apply Mem.write_wf | apply Mem.restoreBlock_wf | apply Mem.zeroFrame_wf | apply Mem.restored_wf | apply Cores.boundary_retired | apply Cores.mem_place | apply Cores.mem_strike | apply List.mem_append_left)
    | (intro _; try dsimp only)
    | split
    | with_reducible apply Keeps.upd)

theorem lifeExport_keeps {s0 : State} (fn : Fn) (region : Nat) (s : State) (hK : Keeps s0 s) : Keeps s0 (lifeExport fn region s) := by
  unfold lifeExport
  try dsimp only
  repeat' (first
    | (with_reducible first | assumption | exact Keeps.refl _ | apply State.exportGo_keeps | apply State.exportRun_keeps | apply Keeps.ite | apply Keeps.foldl | apply Keeps.advance)
    | (with_reducible first | exact Nat.le_refl _ | exact id | exact fun _ h => h | apply swf_sset | apply swf_swrite | apply swf_sstores | apply swf_filter | apply Mem.write_wf | apply Mem.restoreBlock_wf | apply Mem.zeroFrame_wf | apply Mem.restored_wf | apply Cores.boundary_retired | apply Cores.mem_place | apply Cores.mem_strike | apply List.mem_append_left)
    | (intro _; try dsimp only)
    | split
    | with_reducible apply Keeps.upd)

end Sys2Proof.Machine
end

