-- ==== Sys2Proof/Laws/KeepsIdle.lean ====
section
/-! SUPPORT. What the operations of Machine/Idle.lean keep (Laws/Keeps.lean). -/

namespace Sys2Proof.Machine

theorem State.timeTick_keeps {s0 : State} (s : State) (hK : Keeps s0 s) : Keeps s0 (State.timeTick s) := by
  unfold State.timeTick
  extract_lets l
  refine Keeps.ite (fun _ => ?_) (fun _ => Keeps.ite (fun _ => ?_) (fun _ => ?_))
  · exact hK.upd (Nat.le_add_right _ _) id id (Nat.le_refl _) fun _ h => h
  · exact hK.upd (Nat.le_add_right _ _) id id (Nat.le_refl _) fun _ h => h
  · exact hK.upd (Nat.le_refl _) id id (Nat.le_refl _) fun _ h => h


theorem State.slewDies_keeps {s0 : State} (s : State) (hK : Keeps s0 s) : Keeps s0 (State.slewDies s) := by
  refine hK.upd (Nat.le_refl _) id id (Nat.le_of_eq ?_) fun _ h => h
  refine (foldl_inv (fun (l : Life) => l.rollbackCounter = s.life.rollbackCounter) _ (fun l k h => ?_) _ _ rfl).symm
  dsimp only
  split
  · exact h
  · exact h


theorem idle_keeps {s0 : State} (s : State) (hK : Keeps s0 s) : Keeps s0 (idle s) :=
  Keeps.ite (fun _ => Keeps.foldl (fun _ _ h => State.retryDropped_keeps _ _ h)
    (State.bootTick_keeps _ (State.slewDies_keeps _ (State.timeTick_keeps _ hK)))) (fun _ => hK)


end Sys2Proof.Machine
end

