-- ==== Sys2Proof/Laws/KeepsRegisters.lean ====
section
/-! SUPPORT. What the operations of Machine/Registers.lean keep (Laws/Keeps.lean). -/

namespace Sys2Proof.Machine

theorem State.writePtCtrl_keeps {s0 : State} (fn : Fn) (p : Fin 4) (v : Nat) (s : State) (hK : Keeps s0 s) : Keeps s0 (State.writePtCtrl fn p v s) := by
  unfold State.writePtCtrl
  try dsimp only
  repeat' (first
    | (with_reducible first | assumption | exact Keeps.refl _ | apply partitionDisable_keeps | apply partitionEnable_keeps | apply partitionReset_keeps | apply Keeps.ite | apply Keeps.foldl | apply Keeps.advance)
    | (with_reducible first | exact Nat.le_refl _ | exact id | exact fun _ h => h | apply swf_sset | apply swf_swrite | apply swf_sstores | apply swf_filter | apply Mem.write_wf | apply Mem.restoreBlock_wf | apply Mem.zeroFrame_wf | apply Mem.restored_wf | apply Cores.boundary_retired | apply Cores.mem_place | apply Cores.mem_strike | apply List.mem_append_left)
    | (intro _; try dsimp only)
    | split
    | with_reducible apply Keeps.upd)

theorem State.writeGroupCtrl_keeps {s0 : State} (fn : Fn) (p : Fin 4) (g v : Nat) (s : State) (hK : Keeps s0 s) : Keeps s0 (State.writeGroupCtrl fn p g v s) := by
  unfold State.writeGroupCtrl
  try dsimp only
  repeat' (first
    | (with_reducible first | assumption | exact Keeps.refl _ | apply groupCreate_keeps | apply groupDestroy_keeps | apply Keeps.ite | apply Keeps.foldl | apply Keeps.advance)
    | (with_reducible first | exact Nat.le_refl _ | exact id | exact fun _ h => h | apply swf_sset | apply swf_swrite | apply swf_sstores | apply swf_filter | apply Mem.write_wf | apply Mem.restoreBlock_wf | apply Mem.zeroFrame_wf | apply Mem.restored_wf | apply Cores.boundary_retired | apply Cores.mem_place | apply Cores.mem_strike | apply List.mem_append_left)
    | (intro _; try dsimp only)
    | split
    | with_reducible apply Keeps.upd)

theorem State.writeQueueCtrl_keeps {s0 : State} (fn : Fn) (p : Fin 4) (q v : Nat) (s : State) (hK : Keeps s0 s) : Keeps s0 (State.writeQueueCtrl fn p q v s) := by
  unfold State.writeQueueCtrl
  try dsimp only
  repeat' (first
    | (with_reducible first | assumption | exact Keeps.refl _ | apply queueDisable_keeps | apply queueEnable_keeps | apply queueResume_keeps | apply Keeps.ite | apply Keeps.foldl | apply Keeps.advance)
    | (with_reducible first | exact Nat.le_refl _ | exact id | exact fun _ h => h | apply swf_sset | apply swf_swrite | apply swf_sstores | apply swf_filter | apply Mem.write_wf | apply Mem.restoreBlock_wf | apply Mem.zeroFrame_wf | apply Mem.restored_wf | apply Cores.boundary_retired | apply Cores.mem_place | apply Cores.mem_strike | apply List.mem_append_left)
    | (intro _; try dsimp only)
    | split
    | with_reducible apply Keeps.upd)

theorem State.writePart_keeps {s0 : State} (fn : Fn) (p : Fin 4) (r : PartReg) (v : Nat) (s : State) (hK : Keeps s0 s) : Keeps s0 (State.writePart fn p r v s) := by
  unfold State.writePart
  try dsimp only
  repeat' (first
    | (with_reducible first | assumption | exact Keeps.refl _ | apply State.modPart_keeps | apply State.sendsBegin_keeps | apply State.writeGroupCtrl_keeps | apply State.writePtCtrl_keeps | apply State.writeQueueCtrl_keeps | apply counterSelectWrite_keeps | apply obsModeWrite_keeps | apply streamPriorityWrite_keeps | apply streamShareWrite_keeps | apply tlbInvalidate_keeps | apply windowTableReload_keeps | apply Keeps.ite | apply Keeps.foldl | apply Keeps.advance)
    | (with_reducible first | exact Nat.le_refl _ | exact id | exact fun _ h => h | apply swf_sset | apply swf_swrite | apply swf_sstores | apply swf_filter | apply Mem.write_wf | apply Mem.restoreBlock_wf | apply Mem.zeroFrame_wf | apply Mem.restored_wf | apply Cores.boundary_retired | apply Cores.mem_place | apply Cores.mem_strike | apply List.mem_append_left)
    | (intro _; try dsimp only)
    | split
    | with_reducible apply Keeps.upd)

theorem State.selvageGo_keeps {s0 : State} (s : State) (hK : Keeps s0 s) : Keeps s0 (State.selvageGo s) := by
  unfold State.selvageGo
  try dsimp only
  repeat' (first
    | (with_reducible first | assumption | exact Keeps.refl _ | apply State.requestDone_keeps | apply deviceReady_keeps | apply Keeps.ite | apply Keeps.foldl | apply Keeps.advance)
    | (with_reducible first | exact Nat.le_refl _ | exact id | exact fun _ h => h | apply swf_sset | apply swf_swrite | apply swf_sstores | apply swf_filter | apply Mem.write_wf | apply Mem.restoreBlock_wf | apply Mem.zeroFrame_wf | apply Mem.restored_wf | apply Cores.boundary_retired | apply Cores.mem_place | apply Cores.mem_strike | apply List.mem_append_left)
    | (intro _; try dsimp only)
    | split
    | with_reducible apply Keeps.upd)

theorem State.writePartial_keeps {s0 : State} (s : State) (v : Nat) (hK : Keeps s0 s) : Keeps s0 (State.writePartial s v) := by
  unfold State.writePartial
  try dsimp only
  repeat' (first
    | (with_reducible first | assumption | exact Keeps.refl _ | apply State.coreResetWait_keeps | apply Keeps.ite | apply Keeps.foldl | apply Keeps.advance)
    | (with_reducible first | exact Nat.le_refl _ | exact id | exact fun _ h => h | apply swf_sset | apply swf_swrite | apply swf_sstores | apply swf_filter | apply Mem.write_wf | apply Mem.restoreBlock_wf | apply Mem.zeroFrame_wf | apply Mem.restored_wf | apply Cores.boundary_retired | apply Cores.mem_place | apply Cores.mem_strike | apply List.mem_append_left)
    | (intro _; try dsimp only)
    | split
    | with_reducible apply Keeps.upd)

theorem State.writePegCtrl_keeps {s0 : State} (fn : Fn) (v : Nat) (s : State) (hK : Keeps s0 s) : Keeps s0 (State.writePegCtrl fn v s) := by
  unfold State.writePegCtrl
  extract_lets a
  have ha : Keeps s0 a := Keeps.ite (fun _ => Sys2Proof.Machine.pegTrigger_keeps _ _ _ _ hK) (fun _ => hK)
  exact Keeps.ite (fun _ => Sys2Proof.Machine.pegResume_keeps _ _ _ ha) (fun _ => ha)


theorem State.writePlanCtrl_keeps {s0 : State} (fn : Fn) (v : Nat) (s : State) (hK : Keeps s0 s) : Keeps s0 (State.writePlanCtrl fn v s) := by
  unfold State.writePlanCtrl
  try dsimp only
  repeat' (first
    | (with_reducible first | assumption | exact Keeps.refl _ | apply planClear_keeps | apply planLoad_keeps | apply Keeps.ite | apply Keeps.foldl | apply Keeps.advance)
    | (with_reducible first | exact Nat.le_refl _ | exact id | exact fun _ h => h | apply swf_sset | apply swf_swrite | apply swf_sstores | apply swf_filter | apply Mem.write_wf | apply Mem.restoreBlock_wf | apply Mem.zeroFrame_wf | apply Mem.restored_wf | apply Cores.boundary_retired | apply Cores.mem_place | apply Cores.mem_strike | apply List.mem_append_left)
    | (intro _; try dsimp only)
    | split
    | with_reducible apply Keeps.upd)

theorem State.writeTelemetryCtrl_keeps {s0 : State} (fn : Fn) (v : Nat) (s : State) (hK : Keeps s0 s) : Keeps s0 (State.writeTelemetryCtrl fn v s) := by
  unfold State.writeTelemetryCtrl
  try dsimp only
  repeat' (first
    | (with_reducible first | assumption | exact Keeps.refl _ | apply telemetryClearMax_keeps | apply Keeps.ite | apply Keeps.foldl | apply Keeps.advance)
    | (with_reducible first | exact Nat.le_refl _ | exact id | exact fun _ h => h | apply swf_sset | apply swf_swrite | apply swf_sstores | apply swf_filter | apply Mem.write_wf | apply Mem.restoreBlock_wf | apply Mem.zeroFrame_wf | apply Mem.restored_wf | apply Cores.boundary_retired | apply Cores.mem_place | apply Cores.mem_strike | apply List.mem_append_left)
    | (intro _; try dsimp only)
    | split
    | with_reducible apply Keeps.upd)

theorem State.writeExportCtrl_keeps {s0 : State} (fn : Fn) (v : Nat) (s : State) (hK : Keeps s0 s) : Keeps s0 (State.writeExportCtrl fn v s) := by
  unfold State.writeExportCtrl
  try dsimp only
  repeat' (first
    | (with_reducible first | assumption | exact Keeps.refl _ | apply State.exportGo_keeps | apply Keeps.ite | apply Keeps.foldl | apply Keeps.advance)
    | (with_reducible first | exact Nat.le_refl _ | exact id | exact fun _ h => h | apply swf_sset | apply swf_swrite | apply swf_sstores | apply swf_filter | apply Mem.write_wf | apply Mem.restoreBlock_wf | apply Mem.zeroFrame_wf | apply Mem.restored_wf | apply Cores.boundary_retired | apply Cores.mem_place | apply Cores.mem_strike | apply List.mem_append_left)
    | (intro _; try dsimp only)
    | split
    | with_reducible apply Keeps.upd)

theorem State.writePkg_keeps {s0 : State} (r : PkgReg) (v : Nat) (s : State) (hK : Keeps s0 s) : Keeps s0 (State.writePkg r v s) := by
  unfold State.writePkg
  try dsimp only
  repeat' (first
    | (with_reducible first | assumption | exact Keeps.refl _ | apply State.chooseParent_keeps | apply State.modPeg_keeps | apply State.pegMatch_keeps | apply State.pkgStatusLine_keeps | apply State.selvageGo_keeps | apply State.settleBuckets_keeps | apply State.writeExportCtrl_keeps | apply State.writePartial_keeps | apply State.writePegCtrl_keeps | apply State.writePlanCtrl_keeps | apply State.writeTelemetryCtrl_keeps | apply calendarSet_keeps | apply fabTableCommit_keeps | apply fabTableDataHighWrite_keeps | apply memProtectRequest_keeps | apply packageSnapshot_keeps | apply portEnableWrite_keeps | apply portQuotaWrite_keeps | apply powerModeRequest_keeps | apply Keeps.ite | apply Keeps.foldl | apply Keeps.advance)
    | (with_reducible first | exact Nat.le_refl _ | exact id | exact fun _ h => h | apply swf_sset | apply swf_swrite | apply swf_sstores | apply swf_filter | apply Mem.write_wf | apply Mem.restoreBlock_wf | apply Mem.zeroFrame_wf | apply Mem.restored_wf | apply Cores.boundary_retired | apply Cores.mem_place | apply Cores.mem_strike | apply List.mem_append_left)
    | (intro _; try dsimp only)
    | split
    | with_reducible apply Keeps.upd)

theorem State.writeMsix_keeps {s0 : State} (fn : Fn) (k v : Nat) (s : State) (hK : Keeps s0 s) : Keeps s0 (State.writeMsix fn k v s) := by
  unfold State.writeMsix
  try dsimp only
  repeat' (first
    | (with_reducible first | assumption | exact Keeps.refl _ | apply deviceReady_keeps | apply msixVectorUnmask_keeps | apply Keeps.ite | apply Keeps.foldl | apply Keeps.advance)
    | (with_reducible first | exact Nat.le_refl _ | exact id | exact fun _ h => h | apply swf_sset | apply swf_swrite | apply swf_sstores | apply swf_filter | apply Mem.write_wf | apply Mem.restoreBlock_wf | apply Mem.zeroFrame_wf | apply Mem.restored_wf | apply Cores.boundary_retired | apply Cores.mem_place | apply Cores.mem_strike | apply List.mem_append_left)
    | (intro _; try dsimp only)
    | split
    | with_reducible apply Keeps.upd)

theorem State.writeReg_keeps {s0 : State} (fn : Fn) (r : Reg) (v : Nat) (s : State) (hK : Keeps s0 s) : Keeps s0 (State.writeReg fn r v s) := by
  unfold State.writeReg
  try dsimp only
  repeat' (first
    | (with_reducible first | assumption | exact Keeps.refl _ | apply State.writeMsix_keeps | apply State.writePart_keeps | apply State.writePkg_keeps | apply Keeps.ite | apply Keeps.foldl | apply Keeps.advance)
    | (with_reducible first | exact Nat.le_refl _ | exact id | exact fun _ h => h | apply swf_sset | apply swf_swrite | apply swf_sstores | apply swf_filter | apply Mem.write_wf | apply Mem.restoreBlock_wf | apply Mem.zeroFrame_wf | apply Mem.restored_wf | apply Cores.boundary_retired | apply Cores.mem_place | apply Cores.mem_strike | apply List.mem_append_left)
    | (intro _; try dsimp only)
    | split
    | with_reducible apply Keeps.upd)

theorem State.writeFour_keeps {s0 : State} (fn : Fn) (off v : Nat) (s : State) (hK : Keeps s0 s) : Keeps s0 (State.writeFour fn off v s) := by
  unfold State.writeFour
  try dsimp only
  repeat' (first
    | (with_reducible first | assumption | exact Keeps.refl _ | apply State.writeReg_keeps | apply Keeps.ite | apply Keeps.foldl | apply Keeps.advance)
    | (with_reducible first | exact Nat.le_refl _ | exact id | exact fun _ h => h | apply swf_sset | apply swf_swrite | apply swf_sstores | apply swf_filter | apply Mem.write_wf | apply Mem.restoreBlock_wf | apply Mem.zeroFrame_wf | apply Mem.restored_wf | apply Cores.boundary_retired | apply Cores.mem_place | apply Cores.mem_strike | apply List.mem_append_left)
    | (intro _; try dsimp only)
    | split
    | with_reducible apply Keeps.upd)

theorem registerWrite_keeps {s0 : State} (fn : Fn) (offset size : Nat) (value : W64) (s : State) (hK : Keeps s0 s) : Keeps s0 (registerWrite fn offset size value s) := by
  unfold registerWrite
  try dsimp only
  repeat' (first
    | (with_reducible first | assumption | exact Keeps.refl _ | apply State.writeFour_keeps | apply State.writeReg_keeps | apply Keeps.ite | apply Keeps.foldl | apply Keeps.advance)
    | (with_reducible first | exact Nat.le_refl _ | exact id | exact fun _ h => h | apply swf_sset | apply swf_swrite | apply swf_sstores | apply swf_filter | apply Mem.write_wf | apply Mem.restoreBlock_wf | apply Mem.zeroFrame_wf | apply Mem.restored_wf | apply Cores.boundary_retired | apply Cores.mem_place | apply Cores.mem_strike | apply List.mem_append_left)
    | (intro _; try dsimp only)
    | split
    | with_reducible apply Keeps.upd)

end Sys2Proof.Machine
end

