-- ==== Sys2Proof/Laws/KeepsReadback.lean ====
section
/-! SUPPORT. What the operations of Machine/Readback.lean keep (Laws/Keeps.lean). -/

namespace Sys2Proof.Machine

theorem State.blocked_keeps {s0 : State} (s : State) (hK : Keeps s0 s) : Keeps s0 (State.blocked s) := by
  unfold State.blocked
  try dsimp only
  repeat' (first
    | (with_reducible first | assumption | exact Keeps.refl _ | apply State.lifeNote_keeps | apply Keeps.ite | apply Keeps.foldl | apply Keeps.advance)
    | (with_reducible first | exact Nat.le_refl _ | exact id | exact fun _ h => h | apply swf_sset | apply swf_swrite | apply swf_sstores | apply swf_filter | apply Mem.write_wf | apply Mem.restoreBlock_wf | apply Mem.zeroFrame_wf | apply Mem.restored_wf | apply Cores.boundary_retired | apply Cores.mem_place | apply Cores.mem_strike | apply List.mem_append_left)
    | (intro _; try dsimp only)
    | split
    | with_reducible apply Keeps.upd)

theorem State.writeFlow_keeps {s0 : State} (s : State) (v : Nat) (hK : Keeps s0 s) : Keeps s0 (State.writeFlow s v) := by
  unfold State.writeFlow
  try dsimp only
  repeat' (first
    | (with_reducible first | assumption | exact Keeps.refl _ | apply Keeps.ite | apply Keeps.foldl | apply Keeps.advance)
    | (with_reducible first | exact Nat.le_refl _ | exact id | exact fun _ h => h | apply swf_sset | apply swf_swrite | apply swf_sstores | apply swf_filter | apply Mem.write_wf | apply Mem.restoreBlock_wf | apply Mem.zeroFrame_wf | apply Mem.restored_wf | apply Cores.boundary_retired | apply Cores.mem_place | apply Cores.mem_strike | apply List.mem_append_left)
    | (intro _; try dsimp only)
    | split
    | with_reducible apply Keeps.upd)

theorem State.basketWrite_keeps {s0 : State} (s : State) (off v : Nat) (hK : Keeps s0 s) : Keeps s0 (State.basketWrite s off v) := by
  unfold State.basketWrite
  try dsimp only
  repeat' (first
    | (with_reducible first | assumption | exact Keeps.refl _ | apply State.pegTrigger_keeps | apply State.requestMode_keeps | apply State.writeFlow_keeps | apply State.writePkg_keeps | apply pegTrigger_keeps | apply Keeps.ite | apply Keeps.foldl | apply Keeps.advance)
    | (with_reducible first | exact Nat.le_refl _ | exact id | exact fun _ h => h | apply swf_sset | apply swf_swrite | apply swf_sstores | apply swf_filter | apply Mem.write_wf | apply Mem.restoreBlock_wf | apply Mem.zeroFrame_wf | apply Mem.restored_wf | apply Cores.boundary_retired | apply Cores.mem_place | apply Cores.mem_strike | apply List.mem_append_left)
    | (intro _; try dsimp only)
    | split
    | with_reducible apply Keeps.upd)

theorem basketAccess_keeps {s0 : State} (req : BasketReq) (s : State) (hK : Keeps s0 s) : Keeps s0 (basketAccess req s) := by
  unfold basketAccess
  try dsimp only
  repeat' (first
    | (with_reducible first | assumption | exact Keeps.refl _ | apply State.basketWrite_keeps | apply State.blocked_keeps | apply State.emit_keeps | apply State.halt_keeps | apply State.lifeRecord_keeps | apply State.note_keeps | apply State.pegTrigger_keeps | apply State.transmit_keeps | apply pegTrigger_keeps | apply Keeps.ite | apply Keeps.foldl | apply Keeps.advance)
    | (with_reducible first | exact Nat.le_refl _ | exact id | exact fun _ h => h | apply swf_sset | apply swf_swrite | apply swf_sstores | apply swf_filter | apply Mem.write_wf | apply Mem.restoreBlock_wf | apply Mem.zeroFrame_wf | apply Mem.restored_wf | apply Cores.boundary_retired | apply Cores.mem_place | apply Cores.mem_strike | apply List.mem_append_left)
    | (intro _; try dsimp only)
    | split
    | with_reducible apply Keeps.upd)

end Sys2Proof.Machine
end

