-- ==== Sys2Proof/Laws/Resets.lean ====
section
/-! SUPPORT. What the rows that reset the block keep: a cold reset, a loss of power and a boot clear what the other
operations keep (Laws/Keeps.lean), but never the waiting commands, the rollback counter or the form of the memories. -/

namespace Sys2Proof.Machine

/-- What `t` keeps of `s` across any row but the two of VAUX. -/
structure Stays (s t : State) : Prop where
  pending : t.pending = s.pending
  host : swf 0 s.host = true → swf 0 t.host = true
  mem : swf 0 s.mem.bytes = true → swf 0 t.mem.bytes = true
  rollback : s.life.rollbackCounter ≤ t.life.rollbackCounter
  levels : s.levelsAgree → t.levelsAgree
  tick : s.tick ≤ t.tick

/-- What `t` keeps of `s` across any row. -/
structure Holds (s t : State) : Prop where
  pending : t.pending = s.pending
  host : swf 0 s.host = true → swf 0 t.host = true
  mem : swf 0 s.mem.bytes = true → swf 0 t.mem.bytes = true
  rollback : s.life.rollbackCounter ≤ t.life.rollbackCounter
  levels : s.levelsAgree → t.levelsAgree

theorem Stays.holds {s t : State} (h : Stays s t) : Holds s t := ⟨h.pending, h.host, h.mem, h.rollback, h.levels⟩

theorem State.levelsAgree_of_eq {s t : State} (hd : t.dieInfo = s.dieInfo) (hp : t.packageLevel = s.packageLevel)
    (h : s.levelsAgree) : t.levelsAgree := by
  unfold State.levelsAgree at h ⊢
  rw [hd, hp]
  exact h

theorem State.reset_levelsAgree : State.reset.levelsAgree := by
  unfold State.levelsAgree
  decide

theorem Keeps.stays {s t : State} (h : Keeps s t) : Stays s t := ⟨h.pending, h.host, h.mem, h.rollback, State.levelsAgree_of_eq h.dieInfo h.packageLevel, h.tick⟩

theorem Stays.refl (s : State) : Stays s s := (Keeps.refl s).stays

theorem Stays.trans {s t u : State} (h : Stays s t) (k : Stays t u) : Stays s u :=
  ⟨k.pending.trans h.pending, fun x => k.host (h.host x), fun x => k.mem (h.mem x), Nat.le_trans h.rollback k.rollback,
    fun x => k.levels (h.levels x), Nat.le_trans h.tick k.tick⟩

/-- A choice keeps what both its branches keep. -/
theorem Stays.ite {s a b : State} {c : Prop} [Decidable c] (ha : c → Stays s a) (hb : ¬c → Stays s b) :
    Stays s (if c then a else b) := by
  split
  · exact ha (by assumption)
  · exact hb (by assumption)

/-- An update of the other fields. -/
theorem Stays.upd {s e t : State} (h : Stays s e) (hp : t.pending = e.pending) (hh : t.host = e.host) (hm : t.mem = e.mem)
    (hl : t.life.rollbackCounter = e.life.rollbackCounter) (hd : t.dieInfo = e.dieInfo) (hv : t.packageLevel = e.packageLevel)
    (ht : t.tick = e.tick) : Stays s t :=
  h.trans ⟨hp, fun x => by rw [hh]; exact x, fun x => by rw [hm]; exact x, Nat.le_of_eq hl.symm, State.levelsAgree_of_eq hd hv,
    Nat.le_of_eq ht.symm⟩

theorem State.coldReset_stays (s : State) : Stays s s.coldReset := ⟨rfl, id, fun _ => rfl, Nat.le_refl _, fun _ => State.levelsAgree_of_eq (s := State.reset) rfl rfl State.reset_levelsAgree, Nat.le_refl _⟩

theorem State.losePower_stays (s : State) (cause : Nat) : Stays s (s.losePower cause) := by
  unfold State.losePower
  refine Stays.trans (Keeps.stays (State.lifeRecord_keeps _ _ _ _ ?_)) (State.coldReset_stays _)
  exact (Keeps.refl s).upd (Nat.le_refl _) id id (Nat.le_refl _) fun _ h => h

theorem State.shutdown_stays (s : State) (trip : Nat) : Stays s (s.shutdown trip) :=
  (State.losePower_stays s 2).upd rfl rfl rfl rfl rfl rfl rfl

theorem vauxGood_holds (s : State) : Holds s (vauxGood s) := by
  unfold vauxGood
  split
  · exact (Stays.refl s).holds
  · exact ⟨rfl, id, fun _ => rfl, Nat.le_refl _, fun _ => State.levelsAgree_of_eq (s := State.reset) rfl rfl State.reset_levelsAgree⟩

theorem vauxLoss_holds (s : State) : Holds s (vauxLoss s) := by
  unfold vauxLoss
  split
  · exact (Stays.refl s).holds
  · exact ⟨rfl, id, fun _ => rfl, Nat.le_refl _, fun _ => State.levelsAgree_of_eq (s := State.reset) rfl rfl State.reset_levelsAgree⟩

theorem perstNAssert_stays (s : State) : Stays s (perstNAssert s) := ⟨rfl, id, fun _ => rfl, Nat.le_refl _, fun _ => State.levelsAgree_of_eq (s := State.reset) rfl rfl State.reset_levelsAgree, Nat.le_refl _⟩

theorem vinMainLoss_stays (s : State) : Stays s (vinMainLoss s) := by
  unfold vinMainLoss
  extract_lets a
  have ha : Stays s a := Stays.ite (fun _ => State.losePower_stays s 1) (fun _ => Stays.refl s)
  exact Stays.ite (fun _ => Stays.refl s) (fun _ => ha.upd rfl rfl rfl rfl rfl rfl rfl)

theorem State.heat_stays (s : State) (index was t : Nat) : Stays s (s.heat index was t) := by
  unfold State.heat
  refine Stays.ite (fun _ => State.shutdown_stays _ _) (fun _ => ?_)
  split
  · exact (Stays.refl s).upd rfl rfl rfl rfl rfl rfl rfl
  · refine Stays.ite (fun _ => ?_) (fun _ => ?_)
    · exact (State.applyMode_keeps _ ((Keeps.refl s).upd (Nat.le_refl _) id id (Nat.le_refl _) fun _ h => h)).stays
    · refine Keeps.stays (State.recalibrate_keeps _ _ _ ?_)
      exact ⟨rfl, rfl, rfl, Nat.le_refl _, id, id, Nat.le_refl _, fun _ h => h⟩

theorem thermalSensorRead_stays (index : Fin 25) (temp : Nat) (valid : Bool) (s : State) :
    Stays s (thermalSensorRead index temp valid s) := by
  unfold thermalSensorRead
  extract_lets old w a
  have ha : Stays s a := (Stays.refl s).upd rfl rfl rfl rfl rfl rfl rfl
  exact Stays.ite (fun _ => Stays.refl s) (fun _ => Stays.ite (fun _ => ha.trans (State.heat_stays _ _ _ _)) (fun _ => ha))

theorem coolantSensorRead_stays (inlet outlet : Option Nat) (s : State) : Stays s (coolantSensorRead inlet outlet s) := by
  unfold coolantSensorRead
  extract_lets w1 a running b w
  have ha : Stays s a := (Stays.refl s).upd rfl rfl rfl rfl rfl rfl rfl
  have hb : Stays s b := ha.upd rfl rfl rfl rfl rfl rfl rfl
  have hm : Stays s b.applyMode := hb.trans (State.applyMode_keeps _ (Keeps.refl _)).stays
  refine Stays.ite (fun _ => Stays.refl s) (fun _ => Stays.ite (fun _ => ha) (fun _ =>
    Stays.ite (fun _ => hb.trans (State.shutdown_stays _ _)) (fun _ => Stays.ite (fun _ => hb.trans (State.shutdown_stays _ _))
      (fun _ => Stays.ite (fun _ => hm.trans (State.toPhase_keeps _ _ (Keeps.refl _)).stays) (fun _ => hm)))))

theorem fld_info (a b c : Nat) (ha : a < 256) (hb : b < 256) (hc : c < 256) :
    dieLevel (BitVec.ofNat 32 (a + b * 2 ^ 8 + c * 2 ^ 16)) = c := by
  unfold dieLevel fld
  simp only [BitVec.toNat_ofNat]
  omega

theorem foldl_min_lt : ∀ (l : List Nat) (a b : Nat), a < b → l.foldl min a < b
  | [], _, _, h => h
  | x :: r, a, b, h => foldl_min_lt r (min a x) b (by omega)

/-- A boot fixes the package level at the lowest level of its dies (10 R291). -/
theorem State.bootLevels_stays (s : State) (found : BootFindings) : Stays s (s.bootLevels found) := by
  unfold State.bootLevels
  extract_lets levels die
  refine ⟨rfl, id, id, Nat.le_refl _, fun _ => ?_, Nat.le_refl _⟩
  show (BitVec.ofNat 32 (levels.foldl min 255)).toNat = ((Vector.ofFn (fun (k : Fin 9) => die k)).toList.map dieLevel).foldl min 255
  have hl : ((Vector.ofFn (fun (k : Fin 9) => die k)).toList.map dieLevel) = levels := by
    rw [Vector.toList_ofFn]
    refine List.ext_getElem (by simp [levels]) (fun k h1 h2 => ?_)
    simp only [levels, List.length_map, List.length_range] at h2
    simp only [List.getElem_map, List.getElem_ofFn, die]
    rw [fld_info _ _ _ (Nat.mod_lt _ (by decide)) (Nat.mod_lt _ (by decide))]
    · simp [levels, List.getD_eq_getElem?_getD, h2]
    · simp [levels, List.getD_eq_getElem?_getD, h2, Nat.mod_lt]
  rw [hl, BitVec.toNat_ofNat]
  have := foldl_min_lt levels 255 256 (by decide)
  omega

theorem coldBoot_stays (found : BootFindings) (s : State) : Stays s (coldBoot found s) := by
  unfold coldBoot
  extract_lets w0 w o l h a
  have ha : Stays s a := (Stays.refl s).upd rfl rfl rfl rfl rfl rfl rfl
  clear_value a
  refine Stays.ite (fun _ => Stays.refl s) (fun _ => Stays.ite (fun _ => (Stays.refl s).upd rfl rfl rfl rfl rfl rfl rfl) (fun _ =>
    Stays.ite (fun _ => Stays.trans ?_ (State.applyMode_keeps _ (Keeps.refl _)).stays) (fun _ => ?_)))
  · exact ha.upd rfl rfl rfl rfl rfl rfl rfl
  refine Stays.trans ?_ (State.bootLevels_stays _ found)
  refine Stays.trans ?_ (State.applyMode_keeps _ (Keeps.refl _)).stays
  exact ha.upd rfl rfl rfl rfl rfl rfl rfl

end Sys2Proof.Machine
end

