-- ==== Sys2Proof/Laws/Rows.lean ====
section
/-! SUPPORT. What every row keeps, row by row: the lemmas of the Keeps files and of Resets.lean put together. -/

namespace Sys2Proof.Machine

theorem next_keeps {s a t : State} (h : (Host.Outcome.next a : Host.Outcome State Fault Refusal) = .next t) (hK : Keeps s a) :
    Keeps s t := by
  cases h
  exact hK

theorem next_keeps_ite {s a t : State} {c : Prop} [Decidable c] {f : Fault}
    (h : (if c then (Host.Outcome.next a : Host.Outcome State Fault Refusal) else .fault f) = .next t) (hK : Keeps s a) :
    Keeps s t := by
  split at h
  · exact next_keeps h hK
  · cases h

/-- Every row that is no reset keeps what Laws/Keeps.lean says. -/
theorem exec_keeps {s t : State} (i : Instr) (hc : i.resets = false) (h : exec i s = .next t) : Keeps s t := by
  cases i with
  | sweep p q => exact next_keeps h (sweep_keeps _ _ _ (Keeps.refl s))
  | copy p q => exact next_keeps h (copy_keeps _ _ _ (Keeps.refl s))
  | collective p q => exact next_keeps h (collective_keeps _ _ _ (Keeps.refl s))
  | planSwitch p q => exact next_keeps h (planSwitch_keeps _ _ _ (Keeps.refl s))
  | press p q => exact next_keeps h (press_keeps _ _ _ (Keeps.refl s))
  | signal p q => exact next_keeps h (signal_keeps _ _ _ (Keeps.refl s))
  | marker p q => exact next_keeps h (marker_keeps _ _ _ (Keeps.refl s))
  | counterWrite p => exact next_keeps h (counterWrite_keeps _ _ (Keeps.refl s))
  | selfTest p => exact next_keeps h (selfTest_keeps _ _ (Keeps.refl s))
  | calibrate p => exact next_keeps h (calibrate_keeps _ _ (Keeps.refl s))
  | peg p => exact next_keeps h (peg_keeps _ _ (Keeps.refl s))
  | snapshot p => exact next_keeps h (snapshot_keeps _ _ (Keeps.refl s))
  | copyIn i => exact next_keeps h (copyIn_keeps _ _ (Keeps.refl s))
  | copyOut i => exact next_keeps h (copyOut_keeps _ _ (Keeps.refl s))
  | copyMesh i => exact next_keeps h (copyMesh_keeps _ _ (Keeps.refl s))
  | arrayLoadB i => exact next_keeps h (arrayLoadB_keeps _ _ (Keeps.refl s))
  | arrayMma i => exact next_keeps h (arrayMma_keeps _ _ (Keeps.refl s))
  | accInit i => exact next_keeps h (accInit_keeps _ _ (Keeps.refl s))
  | chain i => exact next_keeps h (chain_keeps _ _ (Keeps.refl s))
  | rowFwd i => exact next_keeps h (rowFwd_keeps _ _ (Keeps.refl s))
  | rowBwd i => exact next_keeps h (rowBwd_keeps _ _ (Keeps.refl s))
  | wait i => exact next_keeps h (wait_keeps _ _ (Keeps.refl s))
  | waitSatisfied i => exact next_keeps h (waitSatisfied_keeps _ _ (Keeps.refl s))
  | signalAdd i => exact next_keeps h (signalAdd_keeps _ _ (Keeps.refl s))
  | signalSet i => exact next_keeps h (signalSet_keeps _ _ (Keeps.refl s))
  | barrier i => exact next_keeps h (barrier_keeps _ _ (Keeps.refl s))
  | commandFinish c => exact next_keeps h (commandFinish_keeps _ _ (Keeps.refl s))
  | placeNext core => exact next_keeps h (placeNext_keeps _ _ (Keeps.refl s))
  | threadRetire i => exact next_keeps h (threadRetire_keeps _ _ (Keeps.refl s))
  | shadowBlockFreed p => exact next_keeps h (shadowBlockFreed_keeps _ _ (Keeps.refl s))
  | collectiveRegionReady c region => exact next_keeps h (collectiveRegionReady_keeps _ _ _ (Keeps.refl s))
  | arrivalTimeout c => exact next_keeps h (arrivalTimeout_keeps _ _ (Keeps.refl s))
  | hostRequestError c => exact next_keeps h (hostRequestError_keeps _ _ (Keeps.refl s))
  | devicePoll p host => exact next_keeps h (devicePoll_keeps _ _ _ (Keeps.refl s))
  | commandAdmit p q => exact next_keeps h (commandAdmit_keeps _ _ _ (Keeps.refl s))
  | epochWatchdogClose p => exact next_keeps h (epochWatchdogClose_keeps _ _ (Keeps.refl s))
  | cutCapture p => exact next_keeps h (cutCapture_keeps _ _ (Keeps.refl s))
  | epochRelease p => exact next_keeps h (epochRelease_keeps _ _ (Keeps.refl s))
  | irqTimerExpiry p q => exact next_keeps h (irqTimerExpiry_keeps _ _ _ (Keeps.refl s))
  | msixVectorUnmask fn vector => exact next_keeps h (msixVectorUnmask_keeps _ _ _ (Keeps.refl s))
  | recover f => exact next_keeps h (recover_keeps _ _ (Keeps.refl s))
  | coreHang core => exact next_keeps h (coreHang_keeps _ _ (Keeps.refl s))
  | strikeLapse phys => exact next_keeps h (strikeLapse_keeps _ _ (Keeps.refl s))
  | stackFailure stack => exact next_keeps h (stackFailure_keeps _ _ (Keeps.refl s))
  | patrolScrub stack found => exact next_keeps h (patrolScrub_keeps _ _ _ (Keeps.refl s))
  | drainRollback p => exact next_keeps h (drainRollback_keeps _ _ (Keeps.refl s))
  | stepRecordWrite p => exact next_keeps h (stepRecordWrite_keeps _ _ (Keeps.refl s))
  | partitionEnable fn p => exact next_keeps h (partitionEnable_keeps _ _ _ (Keeps.refl s))
  | partitionDisable fn p => exact next_keeps h (partitionDisable_keeps _ _ _ (Keeps.refl s))
  | partitionReset fn p => exact next_keeps h (partitionReset_keeps _ _ _ (Keeps.refl s))
  | pfFunctionLevelReset => exact next_keeps h (pfFunctionLevelReset_keeps _ (Keeps.refl s))
  | groupCreate fn p g => exact next_keeps h (groupCreate_keeps _ _ _ _ (Keeps.refl s))
  | groupDestroy fn p g => exact next_keeps h (groupDestroy_keeps _ _ _ _ (Keeps.refl s))
  | queueEnable fn p q => exact next_keeps h (queueEnable_keeps _ _ _ _ (Keeps.refl s))
  | queueDisable fn p q => exact next_keeps h (queueDisable_keeps _ _ _ _ (Keeps.refl s))
  | queueResume fn p q => exact next_keeps h (queueResume_keeps _ _ _ _ (Keeps.refl s))
  | tlbInvalidate fn p => exact next_keeps h (tlbInvalidate_keeps _ _ _ (Keeps.refl s))
  | streamPriorityWrite fn p value => exact next_keeps h (streamPriorityWrite_keeps _ _ _ _ (Keeps.refl s))
  | streamShareWrite fn p high value => exact next_keeps h (streamShareWrite_keeps _ _ _ _ _ (Keeps.refl s))
  | assignCores host => exact next_keeps h (assignCores_keeps _ _ (Keeps.refl s))
  | assignFrames host => exact next_keeps h (assignFrames_keeps _ _ (Keeps.refl s))
  | releaseFrames host => exact next_keeps h (releaseFrames_keeps _ _ (Keeps.refl s))
  | setEndpoints host => exact next_keeps h (setEndpoints_keeps _ _ (Keeps.refl s))
  | memoryEncryption host => exact next_keeps h (memoryEncryption_keeps _ _ (Keeps.refl s))
  | partialResetVelac index => exact next_keeps h (partialResetVelac_keeps _ _ (Keeps.refl s))
  | partialResetSeamAdapter index atB => exact next_keeps h (partialResetSeamAdapter_keeps _ _ _ (Keeps.refl s))
  | partialResetCore index selfTestPassed => exact next_keeps h (partialResetCore_keeps _ _ _ (Keeps.refl s))
  | fabTableDataHighWrite fn value => exact next_keeps h (fabTableDataHighWrite_keeps _ _ _ (Keeps.refl s))
  | fabTableCommit fn value => exact next_keeps h (fabTableCommit_keeps _ _ _ (Keeps.refl s))
  | planLoad fn plan => exact next_keeps h (planLoad_keeps _ _ _ (Keeps.refl s))
  | planClear fn plan => exact next_keeps h (planClear_keeps _ _ _ (Keeps.refl s))
  | portQuotaWrite fn port value => exact next_keeps h (portQuotaWrite_keeps _ _ _ _ (Keeps.refl s))
  | portEnableWrite fn port value => exact next_keeps h (portEnableWrite_keeps _ _ _ _ (Keeps.refl s))
  | windowTableReload fn p value => exact next_keeps h (windowTableReload_keeps _ _ _ _ (Keeps.refl s))
  | telemetryClearMax fn => exact next_keeps h (telemetryClearMax_keeps _ _ (Keeps.refl s))
  | pegTrigger fn halt fabric => exact next_keeps h (pegTrigger_keeps _ _ _ _ (Keeps.refl s))
  | pegResume fn fabric => exact next_keeps h (pegResume_keeps _ _ _ (Keeps.refl s))
  | packageSnapshot fn => exact next_keeps h (packageSnapshot_keeps _ _ (Keeps.refl s))
  | lifeExport fn region => exact next_keeps h (lifeExport_keeps _ _ _ (Keeps.refl s))
  | calendarSet fn value => exact next_keeps h (calendarSet_keeps _ _ _ (Keeps.refl s))
  | powerModeRequest fn value => exact next_keeps h (powerModeRequest_keeps _ _ _ (Keeps.refl s))
  | memProtectRequest fn value => exact next_keeps h (memProtectRequest_keeps _ _ _ (Keeps.refl s))
  | counterSelectWrite fn p index value => exact next_keeps h (counterSelectWrite_keeps _ _ _ _ _ (Keeps.refl s))
  | counterSelectApply p => exact next_keeps h (counterSelectApply_keeps _ _ (Keeps.refl s))
  | obsModeWrite fn p value => exact next_keeps h (obsModeWrite_keeps _ _ _ _ (Keeps.refl s))
  | registerWrite fn offset size value => exact next_keeps h (registerWrite_keeps _ _ _ _ _ (Keeps.refl s))
  | bar2Read fn offset length => exact next_keeps h (bar2Read_keeps _ _ _ _ (Keeps.refl s))
  | bar2Write fn offset data => exact next_keeps h (bar2Write_keeps _ _ _ _ (Keeps.refl s))
  | configRequest fn req => exact next_keeps h (configRequest_keeps _ _ _ (Keeps.refl s))
  | seamFlitReceive seam dir flit => exact next_keeps_ite h (seamFlitReceive_keeps _ _ _ _ (Keeps.refl s))
  | seamAckTimer seam dir => exact next_keeps h (seamAckTimer_keeps _ _ _ (Keeps.refl s))
  | seamAckReceive seam dir seq => exact next_keeps h (seamAckReceive_keeps _ _ _ _ (Keeps.refl s))
  | seamNackReceive seam dir seq => exact next_keeps h (seamNackReceive_keeps _ _ _ _ (Keeps.refl s))
  | seamRetryExhausted seam dir => exact next_keeps h (seamRetryExhausted_keeps _ _ _ (Keeps.refl s))
  | controlWordReceive seam dir word => exact next_keeps h (controlWordReceive_keeps _ _ _ _ (Keeps.refl s))
  | seamRetraining seam failing => exact next_keeps h (seamRetraining_keeps _ _ _ (Keeps.refl s))
  | laneMapProposal seam => exact next_keeps h (laneMapProposal_keeps _ _ (Keeps.refl s))
  | laneMapCommit seam => exact next_keeps h (laneMapCommit_keeps _ _ (Keeps.refl s))
  | backgroundLaneTestEnd seam failing => exact next_keeps h (backgroundLaneTestEnd_keeps _ _ _ (Keeps.refl s))
  | linkFrameReceive port frame => exact next_keeps_ite h (linkFrameReceive_keeps _ _ _ (Keeps.refl s))
  | linkAckTimer port => exact next_keeps h (linkAckTimer_keeps _ _ (Keeps.refl s))
  | linkNackReceive port seq => exact next_keeps h (linkNackReceive_keeps _ _ _ (Keeps.refl s))
  | linkDrop port => exact next_keeps h (linkDrop_keeps _ _ (Keeps.refl s))
  | helloReceive port hello => exact next_keeps h (helloReceive_keeps _ _ _ (Keeps.refl s))
  | portLost port => exact next_keeps h (portLost_keeps _ _ (Keeps.refl s))
  | packetReceive port pkt => exact next_keeps_ite h (packetReceive_keeps _ _ _ (Keeps.refl s))
  | packetForward port pkt => exact next_keeps_ite h (packetForward_keeps _ _ _ (Keeps.refl s))
  | circuitPacket port pkt => exact next_keeps_ite h (circuitPacket_keeps _ _ _ (Keeps.refl s))
  | e2eAckTimer p flow => exact next_keeps h (e2eAckTimer_keeps _ _ _ (Keeps.refl s))
  | ackReceive pkt => exact next_keeps_ite h (ackReceive_keeps _ _ (Keeps.refl s))
  | ackTimeout p flow => exact next_keeps h (ackTimeout_keeps _ _ _ (Keeps.refl s))
  | fabricStall port stream cls => exact next_keeps h (fabricStall_keeps _ _ _ _ (Keeps.refl s))
  | circuitSetup port pkt => exact next_keeps_ite h (circuitSetup_keeps _ _ _ (Keeps.refl s))
  | keySlotSwitch port tx => exact next_keeps h (keySlotSwitch_keeps _ _ _ (Keeps.refl s))
  | timeSyncSend => exact next_keeps h (timeSyncSend_keeps _ (Keeps.refl s))
  | timeSyncReceive port payload => exact next_keeps h (timeSyncReceive_keeps _ _ _ (Keeps.refl s))
  | discoveryReceive port payload => exact next_keeps h (discoveryReceive_keeps _ _ _ (Keeps.refl s))
  | pegPacketReceive port payload => exact next_keeps h (pegPacketReceive_keeps _ _ _ (Keeps.refl s))
  | periodicSnapshot p => exact next_keeps h (periodicSnapshot_keeps _ _ (Keeps.refl s))
  | traceStream p => exact next_keeps h (traceStream_keeps _ _ (Keeps.refl s))
  | pegCapture => exact next_keeps h (pegCapture_keeps _ (Keeps.refl s))
  | pegWindowClose => exact next_keeps h (pegWindowClose_keeps _ (Keeps.refl s))
  | powerModeChangeover die => exact next_keeps h (powerModeChangeover_keeps _ _ (Keeps.refl s))
  | thermalThrottleStep die => exact next_keeps h (thermalThrottleStep_keeps _ _ (Keeps.refl s))
  | thermalSensorRead index temp valid => simp [Instr.resets] at hc
  | coolantSensorRead inlet outlet => simp [Instr.resets] at hc
  | brakeAssert => exact next_keeps h (brakeAssert_keeps _ (Keeps.refl s))
  | brakeRelease => exact next_keeps h (brakeRelease_keeps _ (Keeps.refl s))
  | vauxGood => simp [Instr.resets] at hc
  | vinMainLoss => simp [Instr.resets] at hc
  | coldBoot found => simp [Instr.resets] at hc
  | deviceReady => exact next_keeps h (deviceReady_keeps _ (Keeps.refl s))
  | perstNAssert => simp [Instr.resets] at hc
  | timeBaseCompare die difference => exact next_keeps h (timeBaseCompare_keeps _ _ _ (Keeps.refl s))
  | selfTestWindowExpiry p => exact next_keeps h (selfTestWindowExpiry_keeps _ _ (Keeps.refl s))
  | backgroundWorkDone index outcome => exact next_keeps h (backgroundWorkDone_keeps _ _ _ (Keeps.refl s))
  | wearSample => exact next_keeps h (wearSample_keeps _ (Keeps.refl s))
  | wearAccumulatorWrite => exact next_keeps h (wearAccumulatorWrite_keeps _ (Keeps.refl s))
  | basketHeartbeatCheck beat => exact next_keeps h (basketHeartbeatCheck_keeps _ _ (Keeps.refl s))
  | basketRollbackRaise => exact next_keeps h (basketRollbackRaise_keeps _ (Keeps.refl s))
  | portTrained port => exact next_keeps h (portTrained_keeps _ _ (Keeps.refl s))
  | vauxLoss => simp [Instr.resets] at hc
  | managementCoreFault => exact next_keeps h (managementCoreFault_keeps _ (Keeps.refl s))
  | mctpMessage msg => exact next_keeps h (mctpMessage_keeps _ _ (Keeps.refl s))
  | basketAccess req => exact next_keeps h (basketAccess_keeps _ _ (Keeps.refl s))
  | partitionResetDone p => exact next_keeps h (partitionResetDone_keeps _ _ (Keeps.refl s))

theorem next_stays {s a t : State} (h : (Host.Outcome.next a : Host.Outcome State Fault Refusal) = .next t) (hK : Stays s a) :
    Stays s t := by
  cases h
  exact hK

/-- What every row but the two of VAUX keeps. -/
theorem exec_stays {s t : State} (i : Instr) (hg : i ≠ .vauxGood) (hl : i ≠ .vauxLoss) (h : exec i s = .next t) : Stays s t := by
  by_cases hc : i.resets = false
  · exact (exec_keeps i hc h).stays
  · cases i with
    | thermalSensorRead a b c => exact next_stays h (thermalSensorRead_stays a b c s)
    | coolantSensorRead a b => exact next_stays h (coolantSensorRead_stays a b s)
    | vinMainLoss => exact next_stays h (vinMainLoss_stays s)
    | perstNAssert => exact next_stays h (perstNAssert_stays s)
    | coldBoot f => exact next_stays h (coldBoot_stays f s)
    | vauxGood => exact absurd rfl hg
    | vauxLoss => exact absurd rfl hl
    | _ => exact absurd rfl hc

/-- What every row keeps. -/
theorem exec_holds {s t : State} (i : Instr) (h : exec i s = .next t) : Holds s t := by
  by_cases hg : i = .vauxGood
  · subst hg
    cases h
    exact vauxGood_holds s
  · by_cases hl : i = .vauxLoss
    · subst hl
      cases h
      exact vauxLoss_holds s
    · exact (exec_stays i hg hl h).holds

end Sys2Proof.Machine
end

