-- ==== Sys2Proof/Laws/Threads.lean ====
section
/-! SUPPORT. Threads of sweeps: what a change of one thread does, and that an operation's retirement moves it on. -/

namespace Sys2Proof.Machine

/-- A thread ready to perform an operation is the named one. -/
theorem State.runningOr_some {s : State} {i : Tid} {opcode : Nat} {wt : ThreadWait} {x : Running}
    (h : s.runningOr i opcode wt = some x) :
    s.entry i.cid = some x.e ∧ x.e.sweep = some x.w ∧ x.w.thread i.t = some x.h ∧ x.op = opAt x.w.prog x.h.op ∧
      x.e.phase = .running ∧ (x.h.wait = .ready ∨ x.h.wait = wt) ∧ x.h.op < opCount x.w.prog ∧
      at_ x.op 0 1 = opcode ∧ (s.part i.cid.p).threadStalled i = false ∧
      (s.part i.cid.p).yields i.cid.p x.h opcode = false := by
  unfold State.runningOr at h
  split at h
  · cases h
  · rename_i e he
    split at h
    · cases h
    · rename_i w hw
      split at h
      · cases h
      · rename_i th ht
        split at h
        · rename_i hc
          cases h
          exact ⟨he, hw, ht, rfl, hc.1, hc.2.1, hc.2.2.1, hc.2.2.2.1, hc.2.2.2.2⟩
        · cases h

theorem State.running_some {s : State} {i : Tid} {opcode : Nat} {x : Running} (h : s.running i opcode = some x) :
    s.entry i.cid = some x.e ∧ x.e.sweep = some x.w ∧ x.w.thread i.t = some x.h ∧ x.op = opAt x.w.prog x.h.op ∧
      x.e.phase = .running ∧ x.h.wait = .ready ∧ x.h.op < opCount x.w.prog ∧ at_ x.op 0 1 = opcode := by
  obtain ⟨a, b, c, d, e, f, g, k, _⟩ := State.runningOr_some h
  exact ⟨a, b, c, d, e, f.elim id id, g, k⟩

theorem State.running_threadOf {s : State} {i : Tid} {opcode : Nat} {wt : ThreadWait} {x : Running}
    (h : s.runningOr i opcode wt = some x) : s.threadOf i = some x.h := by
  obtain ⟨a, b, c, _⟩ := State.runningOr_some h
  simp only [State.threadOf, a, Option.bind_some, b, c]

theorem find_map_thread (f : Thread → Thread) (hf : ∀ h, (f h).t = h.t) (n : Nat) : ∀ l : List Thread,
    (l.map (fun h => if h.t = n then f h else h)).find? (fun h => h.t == n) = (l.find? (fun h => h.t == n)).map f
  | [] => rfl
  | x :: r => by
    simp only [List.map_cons, List.find?_cons]
    by_cases hx : x.t = n
    · simp [hx, hf]
    · have : (x.t == n) = false := by simpa using hx
      simp only [hx, this, if_false, find_map_thread f hf n r]

/-- A change of a thread that keeps its index is seen there. -/
theorem Sweep.thread_modThread (w : Sweep) (n : Nat) (f : Thread → Thread) (hf : ∀ h, (f h).t = h.t) :
    (w.modThread n f).thread n = (w.thread n).map f := find_map_thread f hf n w.threads

theorem State.threadOf_modThread (s : State) (i : Tid) (f : Thread → Thread) (hf : ∀ h, (f h).t = h.t) :
    (s.modThread i f).threadOf i = (s.threadOf i).map f := by
  have h : (s.modThread i f).entry i.cid = (s.entry i.cid).map (fun e => e.modSweep (fun w => w.modThread i.t f)) :=
    State.entry_modEntry _ _ _ (fun _ => rfl)
  unfold State.threadOf
  rw [h]
  cases s.entry i.cid with
  | none => rfl
  | some e =>
    simp only [Option.map_some, Option.bind_some, Entry.modSweep]
    cases e.sweep with
    | none => rfl
    | some w => exact Sweep.thread_modThread w i.t f hf

theorem State.threadOf_ext {s t : State} {i : Tid} (h : t.entry i.cid = s.entry i.cid) : t.threadOf i = s.threadOf i := by
  unfold State.threadOf
  rw [h]

@[simp] theorem State.entry_tally (s : State) (cls unit idx k : Nat) (c : Cid) : (s.tally cls unit idx k).entry c = s.entry c := rfl

/-- An operation that retires moves its thread on. -/
theorem State.opRetired_threadOf (s : State) (i : Tid) (core : Nat) :
    (s.opRetired i core).threadOf i = (s.threadOf i).map Thread.retireOp := by
  unfold State.opRetired
  rw [State.threadOf_ext (State.entry_tally _ _ _ _ _ _)]
  exact State.threadOf_modThread _ _ _ (fun _ => rfl)

/-- The retirement of an operation touches commands and the core's count only. -/
theorem State.opRetired_frame (s : State) (i : Tid) (core : Nat) :
    (s.opRetired i core).mem = s.mem ∧ (s.opRetired i core).host = s.host ∧
      ∀ p k, ((s.opRetired i core).part p).counter k = (s.part p).counter k := by
  refine ⟨rfl, rfl, fun p k => ?_⟩
  unfold State.opRetired State.modThread
  rw [State.part_tally, State.counter_modEntry]

end Sys2Proof.Machine
end

