-- ==== Sys2Proof/WellFormed.lean ====
section
/-! DEFINITION. Which commands the device can meet: the ranges of their operands. A row's meaning is total; a term that
is not well formed is no event of the hardware. -/

namespace Sys2Proof

/-- The queue numbers with registers: 0 and the slots 0 to 11 of groups 1 to 31 (02 R31; 14 Table 14.5). -/
def queueNumber (q : Nat) : Bool := decide (q = 0) || (decide (16 ≤ q ∧ q ≤ 511) && decide (q % 16 ≤ 11))

/-- A command's name. -/
def Cid.wellFormed (c : Cid) : Bool := queueNumber c.q && decide (c.n < 2 ^ 32)

/-- A tile thread's name: a grid has at most 2^32 threads. -/
def Tid.wellFormed (i : Tid) : Bool := i.cid.wellFormed && decide (i.t < 2 ^ 32)

/-- A packet's header has 32 bytes, on a circuit 16 (11 Tables 11.5, 11.6). -/
def Packet.wellFormed (k : Packet) : Bool := decide (k.header.length = if k.circuit then 16 else 32)

/-- A lane result names a module of a Seam, or 31 for the control lanes, and lanes 0 to 74. -/
def LaneResult.wellFormed (r : LaneResult) : Bool :=
  (decide (r.module < 24) || decide (r.module = 31)) && r.lanes.all (fun n => decide (n ≤ 74))

/-- The findings of a boot name what the package has. -/
def BootFindings.wellFormed (b : BootFindings) : Bool :=
  b.failedCores.all (fun k => decide (k < 1296)) && b.failedStacks.all (fun k => decide (k < 16)) &&
    b.laneFailures.all (fun x => decide (x.1 < 12) && x.2.wellFormed) && b.downSeams.all (fun k => decide (k < 12)) &&
    decide (b.dieLevels.length = 9) && decide (b.dieSteppings.length = 9)

/-- Host stores of bytes below 2^64. -/
def storesWellFormed (h : HostStores) : Bool := h.all (fun x => decide (x.1 < 2 ^ 64))

/-- Whether a command's operands lie in the ranges the manual gives them. -/
def Instr.wellFormed : Instr → Bool
  | .sweep _ q | .copy _ q | .collective _ q | .planSwitch _ q | .press _ q | .signal _ q | .marker _ q => queueNumber q
  | .copyIn i | .copyOut i | .copyMesh i | .arrayLoadB i | .arrayMma i | .accInit i | .chain i | .rowFwd i | .rowBwd i
  | .wait i | .waitSatisfied i | .signalAdd i | .signalSet i | .barrier i | .threadRetire i => i.wellFormed
  | .commandFinish c | .arrivalTimeout c | .hostRequestError c => c.wellFormed
  | .collectiveRegionReady c _ => c.wellFormed
  | .placeNext core | .coreHang core => decide (core < 1280)
  | .strikeLapse phys => decide (phys < 1296)
  | .devicePoll _ host | .assignCores host | .assignFrames host | .releaseFrames host | .setEndpoints host
  | .memoryEncryption host => storesWellFormed host
  | .commandAdmit _ q | .irqTimerExpiry _ q | .queueEnable _ _ q | .queueDisable _ _ q | .queueResume _ _ q => queueNumber q
  | .groupCreate _ _ g | .groupDestroy _ _ g => decide (1 ≤ g ∧ g ≤ 31)
  | .msixVectorUnmask fn v => decide (v < match fn with | .pf => 2048 | .vf _ => 512)
  | .recover f => decide (1 ≤ f.cause ∧ f.cause ≤ 11)
  | .partialResetVelac i => decide (i < 2048)
  | .partialResetSeamAdapter i _ => decide (i < 2048)
  | .partialResetCore i _ => decide (i < 2048)
  | .lifeExport _ region => decide (region < 8)
  | .counterSelectWrite _ _ index _ => decide (index ≤ 16)
  | .registerWrite _ offset size _ => decide (offset < 2 ^ 24) && (decide (size = 4) || decide (size = 8))
  | .bar2Read _ _ length => decide (1 ≤ length ∧ length ≤ 4096)
  | .bar2Write _ _ data => decide (1 ≤ data.length ∧ data.length ≤ 4096)
  | .seamFlitReceive _ _ flit => decide (flit.payload.length = 248)
  | .linkFrameReceive _ frame => decide (frame.body.length = 244)
  | .seamRetraining _ l | .backgroundLaneTestEnd _ l => l.all LaneResult.wellFormed
  | .packetReceive _ k | .packetForward _ k | .circuitPacket _ k | .ackReceive k | .circuitSetup _ k => k.wellFormed
  | .fabricStall _ stream cls => decide (stream ≤ 8) && decide (cls ≤ 1)
  | .pegPacketReceive _ l => decide (l.length = 32)
  | .coldBoot b => b.wellFormed
  | .configRequest _ (.read offset) => decide (offset < 4096)
  | .configRequest _ (.vfEnable _ n) => decide (n ≤ 4)
  | .configRequest _ (.deviceControl p r) => decide (p ≤ 1 ∧ r ≤ 5)
  | .configRequest _ (.resizeBar vf n) => decide (30 ≤ n ∧ n ≤ if vf then 39 else 41)
  | .basketAccess (.controlPacket _ k) => k.wellFormed
  | _ => true

end Sys2Proof
end

