-- ==== Sys2Proof/Tests/Slice0.lean ====
section
/-! SUPPORT. Tests of the block: terms that are not well formed, one step of many rows on small states, and for each
statement a state that meets its hypotheses. -/

namespace Sys2Proof.Tests

open Sys2Proof Sys2Proof.Machine

set_option exponentiation.threshold 20000
set_option maxRecDepth 100000
set_option Elab.async false

/-! ### States built for the tests -/

/-- Bytes with the given ones at the given offsets and 0 elsewhere. -/
def bytesOf (n : Nat) (l : List (Nat × Nat)) : Bytes :=
  (List.range n).map (fun k => BitVec.ofNat 8 (((l.find? (fun x => x.1 == k)).map (·.2)).getD 0))

/-- A 128-byte command of a kind (02 Table 2.3: KIND at 0x0E) with further bytes. -/
def command (kind : Nat) (l : List (Nat × Nat)) : Bytes := bytesOf 128 ((0x0E, kind) :: l)

/-- Whether an option holds a value that satisfies `f`. -/
def has {α : Type} (o : Option α) (f : α → Bool) : Bool :=
  match o with
  | some x => f x
  | none => false

/-- Whether a command completes in a state that satisfies `f`. -/
def runs (c : Instr) (s : State) (f : State → Bool) : Bool :=
  match exec c s with
  | .next t => f t
  | _ => false

/-- A running package after DEVICE_READY. -/
def ready : State :=
  { State.reset with
    power := { Power.reset with perstN := true },
    life := { Life.reset with deviceReady := true, bootPhase := 7 },
    hi := { HostIf.reset with linkUp := true, msixControl := [(0, 1), (1, 1), (2, 1), (3, 1), (4, 1)] } }

/-- `s` with partition 0 as given. -/
def withPart (s : State) (P : Part) : State := { s with parts := #v[P, Part.reset, Part.reset, Part.reset] }

/-- An ENABLED partition with core 0 and no queue. -/
def livePart : Part := { Part.reset with state := .enabled, cores := 1 }

/-- An ENABLED queue whose one command is `e`. -/
def queueWith (e : Entry) : Queue :=
  { Queue.reset with state := .enabled, sqBase := 0x1000, cqBase := 0x2000, head := BitVec.ofNat 32 (e.n + 1), entries := [e] }

/-- A ready package whose partition 0 is ENABLED and has command `e` alone in queue `q`. -/
def heldIn (q : Nat) (e : Entry) : State := withPart ready { livePart with queues := [(q, queueWith e)] }

/-- Partition 0 of the ready package, changed. -/
def partIs (f : Part → Part) : State := withPart ready (f livePart)

/-- Command number 7 of queue `q` of partition 0. -/
def cid (q : Nat) : Cid := { p := 0, q := q, n := 7 }

/-- A waiting command number 7. -/
def cmd7 (kind : Nat) (l : List (Nat × Nat)) : Entry := Entry.fresh 7 (command kind l)

/-- A thread with index 0 on core 0 at its first operation. -/
def thread0 : Thread :=
  { t := 0, core := 0, context := 0, since := 0, op := 0, wait := .ready, ls := [], acc := [], regs := [], holdsRegs := false,
    preload := none, carry := [], unreb := false, events := [], owed := [], done := 0 }

/-- A running sweep of one thread whose program is one operation (02 R47). -/
def sweepOf (op : List (Nat × Nat)) (h : Thread) : Entry :=
  { cmd7 0x01 [] with
    phase := .running, accepted := true,
    sweep := some { prog := bytesOf 96 ((0, 1) :: op.map (fun x => (x.1 + 0x40, x.2))), slots := [], coreList := [], compat := false, modeFixed := true,
                    placed := 1, threads := [h], retired := [], coreOf := [(0, 1)], coloc := none } }

/-- A ready package where that thread runs, in queue 16 of partition 0. -/
def threadRuns (op : List (Nat × Nat)) (h : Thread) : State := heldIn 16 (sweepOf op h)

/-- The thread's name. -/
def tid : Tid := { cid := cid 16, t := 0 }

/-- A port that is UP. -/
def upPort : Port := { Port.reset with state := .up }

/-- Port 0 of the ready package, changed. -/
def portIs (f : Port → Port) : State := ready.modPort 0 (fun _ => f upPort)


/-- A ready package whose partition 0 owns frame 0 and maps its first GiB to physical address 0 (08 R220): the root entry at
0x10000 points to the table at 0x20000, whose first entry is a 1 GiB leaf; with further bytes of memory. -/
def mapped (l : List (Nat × Nat)) (P : Part) : State :=
  let s := withPart ready { P with pageTableBase := 0x10001 }
  { s with mem := { s.mem with
      owner := [(0, 1)]
      bytes := (l.map (fun x => (x.1, BitVec.ofNat 8 x.2))) ++ [(0x10000, 1), (0x10002, 2), (0x20000, 7)] } }

/-- Command `e` alone in queue `q` of that partition. -/
def mappedIn (q : Nat) (e : Entry) (l : List (Nat × Nat)) : State := mapped l { livePart with queues := [(q, queueWith e)] }

/-- A window of partition 0 of 0x2000 bytes at VA 0x8000, open to every source (11 Table 11.10). -/
def window0 : Window :=
  { entry := bytesOf 32 [(1, 0x80), (9, 0x20), (0x11, 0x80), (0x12, 1)],
    xlats := [{ page := 0, host := false, base := 0, writable := true }] }

/-! ### Terms that are not well formed (WellFormed.lean) -/

theorem test_ill_formed_queue : Instr.wellFormed (.copy 0 28) = false := by decide
theorem test_ill_formed_thread : Instr.wellFormed (.copyIn { cid := { p := 0, q := 16, n := 2 ^ 32 }, t := 0 }) = false := by decide
theorem test_ill_formed_command : Instr.wellFormed (.commandFinish { p := 0, q := 15, n := 0 }) = false := by decide
theorem test_ill_formed_region : Instr.wellFormed (.collectiveRegionReady { p := 0, q := 12, n := 0 } 0) = false := by decide
theorem test_ill_formed_core : Instr.wellFormed (.placeNext 1280) = false := by decide
theorem test_ill_formed_strike : Instr.wellFormed (.strikeLapse 1296) = false := by decide
theorem test_ill_formed_store : Instr.wellFormed (.devicePoll 0 [(2 ^ 64, 0)]) = false := by decide
theorem test_ill_formed_admit : Instr.wellFormed (.commandAdmit 0 512) = false := by decide
theorem test_ill_formed_group : Instr.wellFormed (.groupCreate .pf 0 0) = false := by decide
theorem test_ill_formed_vector : Instr.wellFormed (.msixVectorUnmask (.vf 0) 512) = false := by decide
theorem test_ill_formed_fault : Instr.wellFormed (.recover { p := 0, cause := 12, unit := 0, chunk := 0, collective := false, press := false }) = false := by
  decide
theorem test_ill_formed_reset : Instr.wellFormed (.partialResetVelac 2048) = false := by decide
theorem test_ill_formed_adapter : Instr.wellFormed (.partialResetSeamAdapter 2048 false) = false := by decide
theorem test_ill_formed_core_reset : Instr.wellFormed (.partialResetCore 2048 true) = false := by decide
theorem test_ill_formed_export : Instr.wellFormed (.lifeExport .pf 8) = false := by decide
theorem test_ill_formed_select : Instr.wellFormed (.counterSelectWrite .pf 0 17 0) = false := by decide
theorem test_ill_formed_write : Instr.wellFormed (.registerWrite .pf 0 2 0) = false := by decide
theorem test_ill_formed_bar2_read : Instr.wellFormed (.bar2Read .pf 0 0) = false := by decide
theorem test_ill_formed_bar2_write : Instr.wellFormed (.bar2Write .pf 0 []) = false := by decide
theorem test_ill_formed_flit : Instr.wellFormed (.seamFlitReceive 0 .ab
    { seq := 0, stream := 0, crStream := 0, crCount := 0, payload := [], crc := 0 }) = false := by decide
theorem test_ill_formed_frame : Instr.wellFormed (.linkFrameReceive 0 { header := 0, body := [], crc := 0 }) = false := by decide
theorem test_ill_formed_lanes : Instr.wellFormed (.seamRetraining 0 [{ dir := .ab, module := 24, lanes := [] }]) = false := by decide
theorem test_ill_formed_packet : Instr.wellFormed (.packetReceive 0
    { circuit := true, header := zeros 32, payload := [], trailer := 0, authentic := true, cls := false }) = false := by decide
theorem test_ill_formed_stall : Instr.wellFormed (.fabricStall 0 9 0) = false := by decide
theorem test_ill_formed_peg : Instr.wellFormed (.pegPacketReceive 0 []) = false := by decide
theorem test_ill_formed_boot : Instr.wellFormed (.coldBoot
    { basketValid := true, patchOk := true, patchVersion := 0, inlet := none, failedCores := [1296], failedStacks := [], wireFailures := [],
      laneFailures := [], downSeams := [], dieLevels := List.replicate 9 0, dieSteppings := List.replicate 9 (0, 0) }) = false := by decide
theorem test_ill_formed_config : Instr.wellFormed (.configRequest .pf (.read 4096)) = false := by decide
theorem test_ill_formed_vfs : Instr.wellFormed (.configRequest .pf (.vfEnable true 5)) = false := by decide
theorem test_well_formed : [Instr.copy 0 20, .placeNext 1279, .commandAdmit 0 507, .groupCreate .pf 0 31,
    .msixVectorUnmask .pf 2047, .bar2Read .pf 0 4096].all Instr.wellFormed = true := by decide

/-- The table gives no row bits: no word spells a command. -/
theorem test_no_word : decodeTableWord 32 0 = none := by decide

/-! ### Commands at the head of their queues (02 R37, R39, R61, R62) -/

theorem test_witness_marker : AtHead ((heldIn 16 (cmd7 0x07 [])).arrive 0 16) 0 16 0x07 { cmd7 0x07 [] with arrived := true } := by
  constructor <;> decide
/-- A SIGNAL without a remote part, and one to endpoint 5 that the partition may send to, or may not (02 R61). -/
theorem test_witness_signal : AtHead ((heldIn 16 (cmd7 0x06 [])).arrive 0 16) 0 16 0x06 { cmd7 0x06 [] with arrived := true } := by
  constructor <;> decide
theorem test_witness_counter_write : AtHead (heldIn 0 (cmd7 0x10 [])) 0 0 0x10 (cmd7 0x10 []) := by constructor <;> decide

theorem test_marker_runs : runs (.marker 0 16) (heldIn 16 (cmd7 0x07 [])) (fun t =>
    has (t.entry (cid 16)) (fun x => decide (x.phase = .executed))) = true := by decide
/-- 02 R61: a remote signal without the permission is an ISOLATION_FAULT. -/
theorem test_signal_needs_permission : runs (.signal 0 16) (heldIn 16 (cmd7 0x06 [(0x28, 1)])) (fun t =>
    has (t.entry (cid 16)) (fun x => decide (x.phase = .finished))) = true := by decide
/-- 02 R62: FIRST 65,535 with COUNT 1 is the last range that does not pass the last counter. -/
theorem test_counter_write_last : runs (.counterWrite 0) (heldIn 0 (cmd7 0x10 [(0x20, 0xFF), (0x21, 0xFF), (0x24, 9)])) (fun t =>
    decide ((t.part 0).counter 65535 = 9)) = true := by decide
theorem test_counter_write_past : runs (.counterWrite 0) (heldIn 0 (cmd7 0x10 [(0x20, 0xFF), (0x21, 0xFF), (0x22, 1), (0x24, 9)])) (fun t =>
    has (t.entry (cid 0)) (fun x => decide (x.status = .invalid)) && decide ((t.part 0).counter 65535 = 0)) = true := by decide

/-! ### Hypotheses that are met: threads and sweeps (02) -/

/-- WAIT for a counter of 0 goes on, for 1 it stays (VALUE at 0x0C of Table 2.10). -/
theorem test_wait_satisfied : runs (.wait tid) (threadRuns [(0, 0x40)] thread0) (fun t =>
    has (t.threadOf tid) (fun h => decide (h.op = 1))) = true := by decide
theorem test_wait_holds : runs (.wait tid) (threadRuns [(0, 0x40), (0x0C, 1)] thread0) (fun t =>
    has (t.threadOf tid) (fun h => decide (h.op = 0 ∧ h.wait = .waiting))) = true := by decide
theorem test_witness_wait_satisfied : has ((threadRuns [(0, 0x40)] { thread0 with wait := .waiting }).runningOr tid 0x40 .waiting) (fun x =>
    decide (x.h.wait = .waiting) && ((threadRuns [(0, 0x40)] { thread0 with wait := .waiting }).part 0).satisfied
      (syncCounter x.e.cmd x.op x.h.t) (syncValue x.op)) = true := by decide
/-- 02 R57: an add saturates at 0xFFFFFFFF; a set keeps the larger. -/
theorem test_signal_add_saturates : runs (.signalAdd tid)
    ((threadRuns [(0, 0x41), (2, 3), (0x0C, 5)] thread0).modPart 0 (fun P => { P with counters := [(3, 0xFFFFFFFE)] })) (fun t =>
    decide ((t.part 0).counter 3 = 0xFFFFFFFF) && has (t.entry (cid 16)) (fun e => e.counterSat)) = true := by decide
theorem test_signal_set_keeps_larger : runs (.signalSet tid)
    ((threadRuns [(0, 0x42), (2, 3), (0x0C, 5)] thread0).modPart 0 (fun P => { P with counters := [(3, 9)] })) (fun t =>
    decide ((t.part 0).counter 3 = 9)) = true := by decide
/-- 02 R54: the last arrival of a grid of one, and the first of a grid of two (GRID_X_M1 at 0x28). -/
theorem test_barrier_last : runs (.barrier tid) (threadRuns [(0, 0x43)] thread0) (fun t =>
    has (t.threadOf tid) (fun h => decide (h.op = 1))) = true := by decide
theorem test_barrier_first : runs (.barrier tid)
    ((threadRuns [(0, 0x43)] thread0).modEntry (cid 16) (fun e => { e with cmd := command 0x01 [(0x28, 1)] })) (fun t =>
    has (t.threadOf tid) (fun h => decide (h.wait = .arrived))) = true := by decide
theorem test_thread_retires : runs (.threadRetire tid) (threadRuns [(0, 0x40)] { thread0 with op := 1 }) (fun t =>
    (t.threadOf tid).isNone) = true := by decide

/-- A sweep whose program at VA 0x1000 is one WAIT. -/
def sweepCmd : Entry := cmd7 0x01 [(0x21, 0x10)]
/-- Where it waits. -/
def sweepState : State := mappedIn 16 sweepCmd [(0x1000, 1), (0x1040, 0x40)]

theorem test_witness_sweep_head : AtHead (sweepState.arrive 0 16) 0 16 0x01 { sweepCmd with arrived := true } := by
  constructor <;> decide
theorem test_witness_sweep_ok :
    (match (sweepState.arrive 0 16).sweepCheck 0 16 { sweepCmd with arrived := true } with
     | .ok (xs, rs, w) => decide ((sweepState.arrive 0 16).walkPoison 0 rs = none ∧
        (sweepState.arrive 0 16).poisonReads xs (sweepTables sweepCmd w) = none)
     | .error _ => false) = true := by decide
theorem test_witness_sweep_error :
    (match ((heldIn 16 (cmd7 0x01 [])).arrive 0 16).sweepCheck 0 16 { cmd7 0x01 [] with arrived := true } with
     | .ok _ => false
     | .error _ => true) = true := by decide

/-- The sweep with two threads, one placed: the dispatcher places the other. -/
def placing : State :=
  heldIn 16 { sweepOf [(0, 0x40)] thread0 with cmd := command 0x01 [(0x28, 1)] }

theorem test_witness_place_nothing : (∀ p, placing.present p 5 = false) := by decide
theorem test_witness_place : placing.present 0 0 = true ∧ (∀ r : Fin 4, r ≠ 0 → placing.present r 0 = false) ∧
    has ((((placing.heads 0).map SweepHead.group).eraseDups.foldl (fun s' g => s'.nextPhase 0 (placing.heads 0) g) placing).choose 0
      (placing.heads 0) 0) (fun h => decide (h.e.phase = .running)) = true := by decide
theorem test_places_next : runs (.placeNext 0) placing (fun t => decide (t.cores.placed = 1)) = true := by decide

/-! ### Hypotheses that are met: commands of the engines (08, 11, 12) -/

/-- A LINEAR copy of 16 bytes from VA 0x1000 to VA 0x3000 (08 Table 8.7; ROW_BYTES at 0x44). -/
def copyCmd : Entry := cmd7 0x02 [(0x21, 0x10), (0x29, 0x30), (0x44, 16)]
/-- Where it waits. -/
def copyState : State := mappedIn 20 copyCmd [(0x1000, 0xAB), (0x100F, 0xCD)]

/-- Whether the partition's command of queue 20 is a copy. -/
def isCopy (e : Entry) : Bool := decide (cmdKind e.cmd = 0x02)
theorem test_witness_copy : AtHead copyState 0 20 0x02 copyCmd ∧ (copyState.part 0).quietMode ∧
    copyState.outranked 0 .copy isCopy 20 = false := by
  refine ⟨?_, ⟨by decide, by decide⟩, by decide⟩
  constructor <;> decide
/-- 02 R67: with a copy at the head of queue 16 + 1 of stream 0 as well, the one of queue 20 comes after it. -/
def twoCopies : State :=
  mapped [] { livePart with queues := [(20, queueWith copyCmd), (36, queueWith copyCmd)] }
theorem test_witness_outranked : AtHead twoCopies 0 20 0x02 copyCmd ∧ AtHead twoCopies 0 36 0x02 copyCmd ∧
    (twoCopies.outranked 0 .copy isCopy 20 = true ∨ twoCopies.outranked 0 .copy isCopy 36 = true) := by
  refine ⟨?_, ?_, by decide⟩ <;> constructor <;> decide
theorem test_witness_copy_ok :
    (match copyState.copyCheck 0 copyCmd with
     | .ok (xs, rs) => xs.all (fun x => !x.host) && !copyFabric copyCmd.cmd && decide (copyState.walkPoison 0 rs = none) &&
        decide (copyState.poisonReads xs (copyState.copyReads { copyCmd with xlats := xs }) = none) &&
        ((copyState.accepted (cid 20) xs rs).begin (cid 20)).dueRoom
          { p := 0, q := 20, n := 7, reads := readRanges rs, always := false, thread := none, own := [] } xs
          (copyDue copyCmd.cmd (copyState.copyMoves { copyCmd with xlats := xs }))
     | .error _ => false) = true := by decide
theorem test_copy_moves : runs (.copy 0 20) copyState (fun t =>
    decide (t.mem.byte 0x3000 = 0xAB ∧ t.mem.byte 0x300F = 0xCD ∧ t.mem.byte 0x3010 = 0)) = true := by decide
/-- 1,024 shadow blocks of stack 0 in use, and block 0 read by command 8 of queue 21: a write to block 0 finds none (13 R361, R364). -/
def fullShadows (s : State) : State :=
  s.modPart 0 (fun P => { P with
    shadows := List.replicate 1024 { block := 1, bytes := [], poison := [], epoch := 1, kept := [] }
    readMarks := [(0, 21, 8, 1)] })
theorem test_witness_copy_stalls :
    (match (fullShadows copyState).copyCheck 0 copyCmd with
     | .ok (xs, rs) => !(((fullShadows copyState).accepted (cid 20) xs rs).begin (cid 20)).dueRoom
          { p := 0, q := 20, n := 7, reads := readRanges rs, always := false, thread := none, own := [] } xs
          (copyDue copyCmd.cmd ((fullShadows copyState).copyMoves { copyCmd with xlats := xs }))
     | .error _ => false) = true := by decide +kernel
theorem test_copy_stalls : runs (.copy 0 20) (fullShadows copyState) (fun t => decide (t.mem.byte 0x3000 = 0 ∧ (t.part 0).stalls = [.command (cid 20)]) &&
    has (t.entry (cid 20)) (fun x => decide (x.phase = .running ∧ x.owed.map (·.2.1) = [0x3000]))) = true := by decide +kernel
theorem test_witness_copy_host :
    (match ({ copyState with mem := { copyState.mem with bytes := [(0x10000, 1), (0x10002, 2), (0x20000, 15)] } } : State).copyCheck 0 copyCmd with
     | .ok (xs, rs) => xs.any (fun x => x.host) && decide (copyState.walkPoison 0 rs = none)
     | .error _ => false) = true := by decide
theorem test_witness_copy_error : runs (.copy 0 20) (heldIn 20 copyCmd) (fun t =>
    has (t.entry (cid 20)) (fun x => decide (x.status = .isolation))) = true := by decide

/-- PRESS that writes the working copy of one FP32 element (08 Table 8.10: OPTIMIZER 5). -/
def pressCmd : Entry := cmd7 0x05 [(0x0D, 0x30), (0x20, 5), (0x2C, 1), (0x31, 0x20), (0x39, 0x50)]
/-- Where it waits: the descriptor at VA 0x2000. -/
def pressState : State :=
  mappedIn 27 pressCmd [(0x2000, 3), (0x2003, 3), (0x2004, 3), (0x2008, 1), (0x200C, 1), (0x2011, 0x30), (0x2041, 0x40)]

theorem test_witness_press : AtHead pressState 0 27 0x05 pressCmd := by constructor <;> decide
theorem test_witness_press_ok :
    (match pressState.pressCheck 0 pressCmd with
     | .ok (xs, rs, _) => decide (pressState.walkPoison 0 rs = none ∧ pressState.poisonReads xs [(at_ pressCmd.cmd 0x30 8, 128)] = none ∧
        pressState.mem.poison = [])
     | .error _ => false) = true := by decide
theorem test_press_runs : runs (.press 0 27) pressState (fun t =>
    has (t.entry (cid 27)) (fun x => decide (x.phase = .executed))) = true := by decide

/-- ALL_GATHER over one rank (12 Table 12.1: OP 2), on VC 4: rank table at VA 0x6000, counts at VA 0x6100. -/
def collCmd : Entry := cmd7 0x03 [(0x20, 2), (0x28, 16), (0x39, 0x60), (0x41, 0x61), (0x51, 0x10)]
/-- Where it waits. -/
def collState (uniform : Bool) : State :=
  let e := if uniform then collCmd else cmd7 0x03 [(0x20, 2), (0x39, 0x60), (0x41, 0x61), (0x51, 0x10)]
  mapped [(0x6000, 5), (0x6100, 64)]
    { livePart with queues := [(24, queueWith e)], endpoint := some 5, windows := [window0] }

theorem test_witness_collective : AtHead (collState true) 0 24 0x03 collCmd := by constructor <;> decide
theorem test_witness_collective_ok :
    (match (collState true).collCheck 0 collCmd with
     | .ok (xs, rs, _) => decide ((collState true).walkPoison 0 rs = none ∧
        (collState true).poisonReads xs (readRanges (coTables collCmd.cmd)) = none ∧
        (collState true).outranked 0 .collective (collState true).fab.collReady 24 = false)
     | .error _ => false) = true := by decide
/-- 12 R351: an EMPTY plan gives NOT_READY. -/
theorem test_collective_empty_plan : runs (.collective 0 24) (collState false) (fun t =>
    has (t.entry (cid 24)) (fun x => decide (x.status = .notReady))) = true := by decide
theorem test_collective_ready_plan : runs (.collective 0 24)
    { collState false with fab := (collState false).fab.setPlan 0 .ready } (fun t =>
    has (t.entry (cid 24)) (fun x => decide (x.phase = .waiting ∧ x.accepted = true))) = true := by decide

/-- PLAN_SWITCH to plan 3 of partition 0 (12 Table 12.5). -/
def switchCmd : Entry := cmd7 0x04 [(0x20, 3)]
/-- Where it waits, plan 3 in a state. -/
def switchState (st : PlanState) : State :=
  { heldIn 24 switchCmd with fab := (heldIn 24 switchCmd).fab.setPlan 3 st }

theorem test_witness_switch : AtHead (switchState .ready) 0 24 0x04 switchCmd ∧
    (∀ x ∈ (((switchState .ready).part 0).queue 24).entries, ¬(x.phase = .running ∧ cmdKind x.cmd = 0x04)) ∧
    (((switchState .ready).accepted (cid 24) [] []).begin (cid 24)).stillSending 0 = false ∧
    (switchState .ready).outranked 0 .collective (switchState .ready).fab.collReady 24 = false := by
  refine ⟨?_, by decide, by decide, by decide⟩
  constructor <;> decide
theorem test_switch_runs : runs (.planSwitch 0 24) (switchState .ready) (fun t =>
    decide (t.fab.plan 3 = .active) && has (t.entry (cid 24)) (fun x => decide (x.detail = 16))) = true := by decide
theorem test_switch_not_ready : runs (.planSwitch 0 24) (switchState .fault) (fun t =>
    has (t.entry (cid 24)) (fun x => decide (x.status = .notReady))) = true := by decide
theorem test_switch_not_owner : runs (.planSwitch 0 24)
    { switchState .ready with fab := { (switchState .ready).fab with planOwner := 0x40 } } (fun t =>
    has (t.entry (cid 24)) (fun x => decide (x.status = .isolation))) = true := by decide

/-! ### Hypotheses that are met: maintenance commands, refusals and the finish (02, 15, 16) -/

/-- 02 R38: kind 0x08 is in no row of Table 2.6, and COPY belongs to copy queues. -/
theorem test_witness_invalid_kind : IsHead (heldIn 20 (cmd7 0x08 [])) 0 20 (cmd7 0x08 []) ∧ kindAllowed 0x08 20 = false := by
  refine ⟨?_, by decide⟩
  constructor <;> decide
theorem test_witness_invalid_press : IsHead (heldIn 27 (cmd7 0x02 [])) 0 27 (cmd7 0x02 []) ∧ kindAllowed 0x02 27 = false := by
  refine ⟨?_, by decide⟩
  constructor <;> decide
theorem test_witness_invalid_collective : IsHead (heldIn 24 (cmd7 0x05 [])) 0 24 (cmd7 0x05 []) ∧ kindAllowed 0x05 24 = false := by
  refine ⟨?_, by decide⟩
  constructor <;> decide
theorem test_witness_invalid_maintenance : IsHead (heldIn 0 (cmd7 0x01 [])) 0 0 (cmd7 0x01 []) ∧ kindAllowed 0x01 0 = false := by
  refine ⟨?_, by decide⟩
  constructor <;> decide
/-- 02 R36, R38: reserved bits in the header. -/
theorem test_witness_invalid_header : IsHead (heldIn 0 (cmd7 0x11 [(0x0F, 0x80)])) 0 0 (cmd7 0x11 [(0x0F, 0x80)]) ∧
    headerOk (cmd7 0x11 [(0x0F, 0x80)]).cmd 0 = false := by
  refine ⟨?_, by decide⟩
  constructor <;> decide
theorem test_invalid_kind : runs (.copy 0 20) (heldIn 20 (cmd7 0x08 [])) (fun t =>
    has (t.entry (cid 20)) (fun x => decide (x.phase = .finished ∧ x.status = .invalid))) = true := by decide

/-- CALIBRATE of stack 0 and SELF_TEST of core 0, result record at VA 0x4000 (16 Table 16.8). -/
def calibrateCmd (target : Nat) : Entry := cmd7 0x12 [(0x20, target), (0x24, 1), (0x29, 0x40)]
def selfTestCmd : Entry := cmd7 0x11 [(0x24, 1), (0x29, 0x40)]

theorem test_witness_calibrate : AtHead (mappedIn 0 (calibrateCmd 2) []) 0 0 0x12 (calibrateCmd 2) ∧
    (match (mappedIn 0 (calibrateCmd 2) []).workCheck 0 0x12 (calibrateCmd 2) with
     | .ok (_, rs) => decide ((mappedIn 0 (calibrateCmd 2) []).walkPoison 0 rs = none)
     | .error _ => false) = true := by
  refine ⟨?_, by decide⟩
  constructor <;> decide
theorem test_witness_self_test : AtHead (mappedIn 0 selfTestCmd []) 0 0 0x11 selfTestCmd ∧
    (match (mappedIn 0 selfTestCmd []).workCheck 0 0x11 selfTestCmd with
     | .ok (_, rs) => decide ((mappedIn 0 selfTestCmd []).walkPoison 0 rs = none)
     | .error _ => false) = true := by
  refine ⟨?_, by decide⟩
  constructor <;> decide
/-- 16 R462: a self-test never starts before an epoch boundary; a stack that is ready is calibrated at once. -/
theorem test_self_test_waits : runs (.selfTest 0) (mappedIn 0 selfTestCmd []) (fun t =>
    has (t.entry (cid 0)) (fun x => decide (x.phase = .waiting ∧ x.accepted = true))) = true := by decide
theorem test_calibrate_runs : runs (.calibrate 0) (mappedIn 0 (calibrateCmd 2) []) (fun t =>
    has (t.entry (cid 0)) (fun x => decide (x.phase = .executed)) &&
      t.cores.background.any (fun b => b.started && decide (b.due = 1000000))) = true := by decide

/-- The self-test accepted, after an epoch boundary. -/
def selfTestWork : Background :=
  { cid := some (cid 0), cmdId := 0, target := 0, index := 0, phys := 0, started := false, boundaryAt := some 0, due := 1000000,
    start := 0, result := 0x4000, xlats := [] }
def selfTestAccepted : State :=
  let s := heldIn 0 { selfTestCmd with accepted := true }
  { s with cores := { s.cores with background := [selfTestWork] } }

/-- The same with the boundary at the end of the window. -/
def lateBoundary : State :=
  { selfTestAccepted with cores := { selfTestAccepted.cores with background := [{ selfTestWork with boundaryAt := some 1000000 }] } }

theorem test_witness_self_test_starts :
    (has (((selfTestAccepted.part 0).queue 0).headEntry) (fun e => decide (selfTestAccepted.entry (e.cid 0 0) = some e ∧ e.phase = .waiting ∧
      e.accepted = true ∧ e.refused = false ∧ e.replayed = false ∧ cmdKind e.cmd = 0x11) &&
      decide (selfTestAccepted.cores.background.find? (fun b => decide (b.cid = some (e.cid 0 0)) && !b.started) = some selfTestWork)) &&
    selfTestAccepted.queueOpen 0 0 && selfTestAccepted.workReady selfTestWork) = true := by decide
/-- 16 R462: the logical core moves to a spare of its die. -/
theorem test_self_test_runs : runs (.selfTest 0) selfTestAccepted (fun t => decide (320 ≤ t.cores.phys 0 ∧ t.cores.phys 0 < 324)) = true := by
  decide

theorem test_witness_peg : AtHead (heldIn 0 (cmd7 0x13 [])) 0 0 0x13 (cmd7 0x13 []) ∧ pegFieldsOk (cmd7 0x13 []).cmd = true := by
  refine ⟨?_, by decide⟩
  constructor <;> decide
theorem test_witness_peg_resume : AtHead (heldIn 0 (cmd7 0x13 [(0x20, 4)])) 0 0 0x13 (cmd7 0x13 [(0x20, 4)]) ∧
    pegFieldsOk (cmd7 0x13 [(0x20, 4)]).cmd = true := by
  refine ⟨?_, by decide⟩
  constructor <;> decide
theorem test_witness_peg_fabric : AtHead (heldIn 0 (cmd7 0x13 [(0x20, 3)])) 0 0 0x13 (cmd7 0x13 [(0x20, 3)]) ∧
    pegFieldsOk (cmd7 0x13 [(0x20, 3)]).cmd = true := by
  refine ⟨?_, by decide⟩
  constructor <;> decide
/-- 15 R441, R442: the trigger takes the next id and carries 2,048 ticks ahead; with a window open it is NOT_READY; fabric scope
needs the permission bit. -/
theorem test_peg_opens : runs (.peg 0) (heldIn 0 (cmd7 0x13 [])) (fun t => decide (t.obs.peg.open_ = true ∧ t.obs.peg.id = 1 ∧
    t.obs.peg.t = 2048)) = true := by decide
theorem test_peg_ignored : runs (.peg 0) { heldIn 0 (cmd7 0x13 []) with obs := { ObsPkg.reset with peg := { Peg.reset with open_ := true } } }
    (fun t => decide (t.obs.peg.ignored = true) && has (t.entry (cid 0)) (fun x => decide (x.status = .notReady))) = true := by decide
theorem test_peg_fabric_needs_bit : runs (.peg 0) (heldIn 0 (cmd7 0x13 [(0x20, 3)])) (fun t =>
    has (t.entry (cid 0)) (fun x => decide (x.status = .isolation))) = true := by decide
theorem test_peg_resume : runs (.peg 0) { heldIn 0 (cmd7 0x13 [(0x20, 4)]) with obs := { ObsPkg.reset with peg := { Peg.reset with halted := 3 } } }
    (fun t => decide (t.obs.peg.halted = 2)) = true := by decide

/-- SNAPSHOT to VA 0x4000 with room for 64 KiB (15 Table 15.11). -/
def snapshotCmd : Entry := cmd7 0x14 [(0x21, 0x40), (0x2A, 1)]
theorem test_witness_snapshot : AtHead (mappedIn 0 snapshotCmd []) 0 0 0x14 snapshotCmd ∧
    (match (mappedIn 0 snapshotCmd []).snapshotCheck 0 snapshotCmd with
     | .ok (_, rs) => decide ((mappedIn 0 snapshotCmd []).walkPoison 0 rs = none)
     | .error _ => false) = true := by
  refine ⟨?_, by decide⟩
  constructor <;> decide
/-- One core present: 128 + 184 bytes is more than 256. -/
theorem test_witness_snapshot_error :
    (match (mappedIn 0 (cmd7 0x14 [(0x21, 0x40), (0x29, 1)]) []).snapshotCheck 0 (cmd7 0x14 [(0x21, 0x40), (0x29, 1)]) with
     | .ok _ => false
     | .error st => decide (st = .invalid)) = true := by decide

/-- A command that has executed: its header signal adds 5 to counter 3 (SIGNAL_EN is bit 2 of the flags byte). -/
def executed (l : List (Nat × Nat)) : Entry := { cmd7 0x07 l with phase := .executed, accepted := true }
theorem test_witness_finish : (heldIn 16 (executed [])).entry (cid 16) = some (executed []) ∧ (executed []).done = true ∧
    (heldIn 16 (executed [])).awaitsAck (cid 16) (executed []) = false := by decide
/-- A sweep all of whose threads have retired. -/
def sweptOut : Entry :=
  { cmd7 0x01 [] with
    phase := .running, accepted := true,
    sweep := some { prog := [], slots := [], coreList := [], compat := false, modeFixed := true, placed := 1, threads := [], retired := [0],
                    coreOf := [(0, 1)], coloc := none } }
theorem test_witness_finish_sweep : (heldIn 16 sweptOut).entry (cid 16) = some sweptOut ∧ sweptOut.done = true ∧
    (heldIn 16 sweptOut).awaitsAck (cid 16) sweptOut = false := by decide
/-- 02 R57, R60: OK applies the signal; after the command stopped its queue it is held. -/
theorem test_finish_signals : runs (.commandFinish (cid 16)) (heldIn 16 (executed [(0x18, 3), (0x1A, 1), (0x1C, 5)])) (fun t =>
    decide ((t.part 0).counter 3 = 5)) = true := by decide
theorem test_finish_holds : runs (.commandFinish (cid 16)) (heldIn 16 { executed [(0x18, 3), (0x1A, 1), (0x1C, 5)] with queueStopped := true })
    (fun t => decide ((t.part 0).counter 3 = 0) && has (t.entry (cid 16)) (fun x => x.signalHeld)) = true := by decide

/-! ### Hypotheses that are met: operations of tile threads (06, 07, 08) -/

/-- The page that the tests map, as an accepted command holds it. -/
def page0 : Xlat := { page := 0, host := false, base := 0, writable := true }

/-- A running sweep with argument slots and a translation. -/
def tileOf (slots : List (Nat × Bytes)) (op : List (Nat × Nat)) (h : Thread) : Entry :=
  { (sweepOf op h).modSweep (fun w => { w with slots := slots }) with xlats := [page0] }

/-- Where it runs, with bytes of memory. -/
def tileRuns (slots : List (Nat × Bytes)) (op : List (Nat × Nat)) (h : Thread) (l : List (Nat × Nat)) : State :=
  mappedIn 16 (tileOf slots op h) l

/-- A LINEAR shape of 16 bytes (08 Table 8.7). -/
def linear16 : Bytes := bytesOf 32 [(4, 16)]

/-- COPY_IN of it from VA 0x1000 to local-store offset 0 (08 Table 8.9). -/
def copyInState : State := tileRuns [(0, linear16)] [(0, 1), (9, 0x10)] thread0 [(0x1000, 0xAB), (0x100F, 0xCD)]

theorem test_witness_copy_in : has (copyInState.running tid 0x01) (fun x => (copyInState.retainedFor tid x).isNone &&
    decide (copyInState.poisonReads x.e.xlats (copyInState.copyInReads x) = none)) = true := by decide
theorem test_witness_copy_in_poisoned :
    has (({ copyInState with mem := { copyInState.mem with poison := [0x40] } } : State).running tid 0x01) (fun x =>
      ({ copyInState with mem := { copyInState.mem with poison := [0x40] } } : State).poisonReads x.e.xlats (copyInState.copyInReads x) |>.isSome) = true := by
  decide
theorem test_copy_in_moves : runs (.copyIn tid) copyInState (fun t =>
    has (t.threadOf tid) (fun h => decide (h.op = 1 ∧ h.lsByte 0 = 0xAB ∧ h.lsByte 15 = 0xCD))) = true := by decide
theorem test_witness_not_replayable : (({ copyInState with mem := { copyInState.mem with poison := [0x40] } } : State).part 0).replayable 0x40 = false := by
  decide

/-- A thread whose first 16 bytes of local store are written. -/
def stored0 : Thread := { thread0 with ls := (List.range 16).map (fun k => (k, 0x5A)) }
/-- COPY_OUT of them to VA 0x3000. -/
def copyOutState : State := tileRuns [(0, linear16)] [(0, 2), (9, 0x30)] stored0 []

theorem test_witness_copy_out : has (copyOutState.running tid 0x02) (fun x => decide ((shapeOf (tileShape x.w x.op)).kind ≠ 4) &&
    copyOutState.shadowRoom { x.e.writer tid.cid with thread := some tid, own := copyOutState.threadReads x } x.e.xlats
      ((copyOutState.copyOutDue x).map (fun y => (y.1, y.2.length)))) = true := by decide
/-- The same with no free shadow block: the thread stalls with its write still to make (13 R364). -/
theorem test_witness_copy_out_stalls : has ((fullShadows copyOutState).running tid 0x02) (fun x => !(fullShadows copyOutState).shadowRoom
    { x.e.writer tid.cid with thread := some tid, own := (fullShadows copyOutState).threadReads x } x.e.xlats
      (((fullShadows copyOutState).copyOutDue x).map (fun y => (y.1, y.2.length)))) = true := by decide +kernel
theorem test_copy_out_stalls : runs (.copyOut tid) (fullShadows copyOutState) (fun t => (t.part 0).threadStalled tid &&
    has (t.threadOf tid) (fun h => decide (h.op = 0 ∧ h.owed.map (·.1) = [0x3000]))) = true := by decide +kernel
theorem test_copy_out_moves : runs (.copyOut tid) copyOutState (fun t =>
    decide (t.mem.byte 0x3000 = 0x5A ∧ t.mem.byte 0x300F = 0x5A ∧ t.mem.byte 0x3010 = 0)) = true := by decide

/-- A command that has executed and updates a scale-table entry at VA 0x3000, with a free shadow block for it and without (13 R364). -/
def scaled : Entry :=
  { executed [] with
    xlats := [page0]
    snaps := [{
      entry := 0, va := 0x3000, bytes := zeros 32, scale := 0, cold := false, amax := Dyadic.mk 0 0, raised := 0, corr := 0,
      endOfUse := true, format := 8, emax := Dyadic.mk 1 0 }] }
theorem test_witness_finish_stalls : scaled.status = .ok ∧ ((mappedIn 16 scaled []).scEndAll (cid 16) scaled).written (cid 16) = true ∧
    ((fullShadows (mappedIn 16 scaled [])).scEndAll (cid 16) scaled).written (cid 16) = false := by decide +kernel

/-- COPY_MESH to the thread itself: a displacement of 0 in a grid of one (08 R236). -/
def copyMeshState : State := tileRuns [(0, linear16)] [(0, 3), (8, 64)] stored0 []
theorem test_witness_copy_mesh : has (copyMeshState.running tid 0x03) (fun x => decide (meshDest x.e.cmd x.op x.h.t = tid.t)) = true := by decide
theorem test_copy_mesh_moves : runs (.copyMesh tid) copyMeshState (fun t =>
    has (t.threadOf tid) (fun h => decide (h.op = 1 ∧ h.lsByte 64 = 0x5A))) = true := by decide
/-- In a grid of two, one step in x: the other thread is not resident. -/
theorem test_witness_copy_mesh_away :
    has ((copyMeshState.modEntry (cid 16) (fun e => { e.modSweep (fun w =>
      { w with prog := bytesOf 96 [(0, 1), (0x40, 3), (0x48, 64), (0x5C, 1)] }) with cmd := command 0x01 [(0x28, 1)] })).running tid 0x03)
      (fun x => decide (meshDest x.e.cmd x.op x.h.t = 1)) = true := by decide

/-- ACC_INIT in its forms zero, load and merge (06 Table 6.14), mode FP32. -/
def accInitState (form : Nat) (h : Thread) : State := threadRuns [(0, 0x12), (1, form)] h
/-- An accumulator tile of zeros at unit 0. -/
def tile0 : AccTile := { unit := 0, mode := .fp32, ceiling := 0, elems := [], contribs := [] }
def anchoredTile : AccTile := { unit := 0, mode := .anchored32, ceiling := 0, elems := [], contribs := [] }
theorem test_witness_acc_init : ((accInitState 0 thread0).running tid 0x12).isSome = true ∧ ((accInitState 1 thread0).running tid 0x12).isSome = true ∧
    has ((accInitState 2 { thread0 with acc := [anchoredTile] }).running tid 0x12) (fun x =>
      decide (x.h.tile (at_ x.op 3 1) = some anchoredTile)) = true := by decide
theorem test_witness_load_b : has ((threadRuns [(0, 0x10)] thread0).running tid 0x10) (fun x =>
    !preloadElsewhere (threadRuns [(0, 0x10)] thread0) tid x.h.core) = true := by decide
theorem test_load_b : runs (.arrayLoadB tid) (threadRuns [(0, 0x10)] thread0) (fun t =>
    has (t.threadOf tid) (fun h => decide (h.op = 1) && h.preload.isSome)) = true := by decide

/-- Another thread of the core holds a preloaded block. -/
def preloaded (op : Nat) : State :=
  (threadRuns [(0, op)] thread0).modEntry (cid 16) (fun e => e.modSweep (fun w =>
    { w with threads := w.threads ++ [{ thread0 with t := 1, preload := some { slot := 0, fmt := 8, trans := false, book := [], rows := [], scales := [], patches := [] } }] }))
theorem test_witness_preload_elsewhere : has ((preloaded 0x10).running tid 0x10) (fun x => preloadElsewhere (preloaded 0x10) tid x.h.core) = true ∧
    has ((preloaded 0x11).running tid 0x11) (fun x => preloadElsewhere (preloaded 0x11) tid x.h.core) = true := by decide

/-- ARRAY_MMA of 1 × 1 elements. -/
def mmaState : State := threadRuns [(0, 0x11), (12, 1)] { thread0 with acc := [tile0] }
theorem test_witness_mma : has (mmaState.running tid 0x11) (fun x => !preloadElsewhere mmaState tid x.h.core &&
    decide (x.h.tile (mmaOf x 0).unit = some tile0)) = true := by decide

/-- CHAIN whose chain 0 is all zero bytes: one element from the accumulator. -/
def chainState (h : Thread) : State := threadRuns [(0, 0x20)] h
theorem test_witness_chain : has ((chainState { thread0 with acc := [tile0], holdsRegs := true }).runningOr tid 0x20 .registers)
    (fun x => x.h.holdsRegs) = true := by decide

/-- ROW_FWD and ROW_BWD of one row, no spill (07 Table 7.9). -/
def rowState (op : Nat) : State := threadRuns [(0, op), (0x0E, 0xFF), (0x0F, 0xFF)] thread0
theorem test_witness_row : has ((rowState 0x30).running tid 0x30) (fun x =>
      (rowState 0x30).shadowRoom { x.e.writer tid.cid with
          thread := some tid, own := (rowState 0x30).rowOwn (((rowState 0x30).part 0).group 1) x } x.e.xlats
        ((rowOpOf (((rowState 0x30).part 0).group 1) x).spillOf
          ((List.range (rowOpOf (((rowState 0x30).part 0).group 1) x).rows).drop x.h.done)) &&
      decide ((rowOpOf (((rowState 0x30).part 0).group 1) x).reads = false)) = true ∧
    has ((rowState 0x31).running tid 0x31) (fun x =>
      decide ((rowState 0x31).poisonReads x.e.xlats (rowOpOf (((rowState 0x31).part 0).group 1) x).spillBytes = none) &&
      decide ((rowOpOf (((rowState 0x31).part 0).group 1) x).reads = true)) = true := by decide
/-- ROW_FWD of two rows from stat index 8,191 of class S: the second row spills to VA 0x4000, and finds no free shadow block. -/
def spilling : State := fullShadows (tileRuns [(0, bytesOf 32 [(1, 0x40)])] [(0, 0x30), (0x0C, 1), (0x10, 0xFF), (0x11, 0x1F)] thread0 [])
theorem test_witness_row_stalls : has (spilling.running tid 0x30) (fun x =>
    decide ((rowOpOf ((spilling.part 0).group 1) x).reads = false) && !spilling.shadowRoom { x.e.writer tid.cid with
        thread := some tid, own := spilling.rowOwn ((spilling.part 0).group 1) x } x.e.xlats
      ((rowOpOf ((spilling.part 0).group 1) x).spillOf ((List.range (rowOpOf ((spilling.part 0).group 1) x).rows).drop x.h.done))) = true := by
  decide +kernel

/-! ### Hypotheses that are met: polling, admission and interrupts (14) -/

/-- A partition with its summary line at 0x100, queue words from 0x200, and queue 16 ENABLED with both rings of 64 (14 Table 14.15). -/
def polled (Q : Queue) : State := withPart ready { livePart with summaryBase := 0x100, doorbellBase := 0x200, queues := [(16, Q)] }
def openQueue : Queue := { Queue.reset with state := .enabled, sqBase := 0x1000, cqBase := 0x2000 }

theorem test_witness_poll : ((polled openQueue).part 0).live = true ∧ bit ((polled openQueue).part 0).pollCfg.toNat 18 = false ∧
    16 ∈ lineQueues (sread (sstores (polled openQueue).host [(0x102, 1)]) 0x100 64) := by decide
/-- 14 R411: the poll takes the doorbell word of the queue that the line marks, and swaps the line to 0. -/
theorem test_poll_rings : runs (.devicePoll 0 [(0x102, 1), (0x280, 2)]) (polled openQueue) (fun t =>
    decide (((t.part 0).queue 16).sqTail = 2 ∧ t.hostWord 0x100 = 0)) = true := by decide
/-- 14 R413: one command more than the ring holds is an error; exactly as many are not. -/
theorem test_witness_doorbell_bad : openQueue.sqSize < (BitVec.ofNat 32 (openQueue.sqSize + 1) - openQueue.head).toNat ∧
    (BitVec.ofNat 32 openQueue.sqSize - openQueue.head).toNat ≤ openQueue.sqSize := by decide
theorem test_witness_doorbell_count : openQueue.cqSize < (openQueue.tail - BitVec.ofNat 32 (2 ^ 32 / 2 ^ 32)).toNat := by decide
theorem test_witness_admit : (polled { openQueue with sqTail := 1 }).part 0 |>.live := by decide
theorem test_admit : runs (.commandAdmit 0 16) (polled { openQueue with sqTail := 1 }) (fun t =>
    decide (((t.part 0).queue 16).entries.length = 1 ∧ ((t.part 0).queue 16).head = 1)) = true := by decide
theorem test_admit_no_slot : runs (.commandAdmit 0 16) (polled { openQueue with
    head := BitVec.ofNat 32 openQueue.cqSize, sqTail := BitVec.ofNat 32 (openQueue.cqSize + 1) }) (fun t =>
    decide (((t.part 0).queue 16).spaceHeld = true ∧ ((t.part 0).queue 16).entries = [])) = true := by decide
theorem test_witness_irq : (((polled { openQueue with irqDue := some 5 }).part 0).queue 16).irqDue = some 5 := by decide
/-- 14 R417: masked after reset, the message becomes pending; an unmask sends it. -/
theorem test_irq_pending : runs (.irqTimerExpiry 0 16) (polled { openQueue with irqDue := some 5 }) (fun t =>
    decide (t.tick = 5) && t.hi.pendingBit .pf 0) = true := by decide
/-- MSI-X enabled or not, the function masked or not, and a vector masked or not (14 R417, R394). -/
theorem test_witness_msix : ready.hi.msixOn .pf = true ∧ ready.hi.fnMasked .pf = false ∧ ready.hi.masked .pf 0 = true ∧
    HostIf.reset.msixOn .pf = false ∧ ({ ready.hi with msixControl := [(0, 3)] } : HostIf).fnMasked .pf = true ∧
    runs (.msixVectorUnmask .pf 0) ready (fun t => !t.hi.masked .pf 0) = true ∧ ready.servingFn 0 = .pf := by decide
theorem test_witness_unmask : ready.life.deviceReady = true ∧ ready.fnExists .pf = true ∧ 2047 < fnVectors .pf := by decide
theorem test_unmask_sends : runs (.msixVectorUnmask .pf 0) { ready with hi := ready.hi.setPending .pf 0 true } (fun t =>
    decide (t.out = [.msix .pf 0 0 0]) && !t.hi.pendingBit .pf 0) = true := by decide

/-! ### Hypotheses that are met: epochs, faults and drains (13, 14) -/

theorem test_witness_close : ((partIs id).part 0).live = true ∧ ((partIs id).part 0).closeRequest = none := by decide
theorem test_watchdog : runs (.epochWatchdogClose 0) (partIs id) (fun t => decide (t.tick = 26000 ∧ (t.part 0).closeRequest = some 26000)) = true := by
  decide
theorem test_witness_capture : ((partIs (fun P => { P with closeRequest := some 0 })).part 0).closeRequest ≠ none ∧
    ((partIs (fun P => { P with closeRequest := some 0 })).part 0).closed.length < 2 := by decide
theorem test_capture : runs (.cutCapture 0) (partIs (fun P => { P with closeRequest := some 0 })) (fun t =>
    decide ((t.part 0).openEpoch = 2 ∧ (t.part 0).closed.length = 1)) = true := by decide

/-- A closed epoch 1 with one finished command of it. -/
def closed1 : State :=
  partIs (fun P => { P with
    closed := [{ epoch := 1, cut := { Cut.first with epoch := 2 }, requested := 0 }]
    openEpoch := 2
    queues := [(16, queueWith { cmd7 0x07 [] with phase := .finished, epoch := 1 })] })
theorem test_witness_release : (closed1.part 0).closed.length = 1 ∧ (closed1.part 0).acknowledged 1 = true ∧
    closed1.fab.held.any (fun h => h.ofEpoch 0 1) = false := by decide
theorem test_release : runs (.epochRelease 0) closed1 (fun t =>
    decide ((t.part 0).released = 1 ∧ ((t.part 0).queue 16).tail = 1 ∧ ((t.part 0).queue 16).entries = [])) = true := by decide
/-- 13 R359: not before the packets of the epoch are acknowledged. -/
def sent1 : Send :=
  { flow := 0, seq := 0, cmd := none, epoch := 1, due := 0,
    pkt := { circuit := false, header := zeros 32, payload := [], trailer := 0, authentic := true, cls := false } }
theorem test_witness_unacknowledged : ((closed1.modPart 0 (fun P => { P with sends := [sent1] })).part 0).acknowledged 1 = false := by decide

/-- A lost port reported to partition 0. -/
def lost : FaultReport := { p := 0, cause := 6, unit := 3, chunk := 0, collective := false, press := false }
theorem test_witness_recover : ((partIs id).part lost.p).live = true ∧ ((partIs id).part lost.p).faultsFromCut < 2 ∧
    ((partIs (fun P => { P with faultsFromCut := 2 })).part lost.p).live = true := by decide
theorem test_witness_recover_core : ((partIs id).part 0).ownsCore 0 = true ∧ ((partIs id).part 0).ownsCore 1 = false := by decide
theorem test_recover_restores : runs (.recover lost) ((partIs id).modPart 0 (fun P => { P with counters := [(3, 9)], openEpoch := 4 })) (fun t =>
    decide ((t.part 0).openEpoch = 1 ∧ (t.part 0).counter 3 = 0 ∧ (t.part 0).faultsFromCut = 1)) = true := by decide

theorem test_witness_hang : State.reset.cores.absent.getLsbD 1279 = false := by decide
theorem test_hang_takes_spare : runs (.coreHang 0) ready (fun t => decide (0 ∈ t.cores.retired ∧ t.cores.phys 0 = 320)) = true := by decide
theorem test_strike_lapses : runs (.strikeLapse 5) { ready with cores := { Cores.reset with strikes := [(5, 7)] } } (fun t =>
    decide (t.tick = 86400000000007 ∧ t.cores.strikes = [])) = true := by decide
theorem test_witness_stack : ready.mem.failed.getLsbD 15 = false := by decide
theorem test_stack_fails : runs (.stackFailure 15) ready (fun t => decide (t.mem.failed = 0x8000)) = true := by decide
/-- A sector of row 5, or of another, with wrong symbols, on one pin or not. -/
def finding (row symbols : Nat) (pin : Bool) : ScrubFinding := { pa := 64 * row, row := row, symbols := symbols, onePin := pin }
/-- 13 R381: two sectors of a row in one pass count as one pass. -/
theorem test_scrub_counts : runs (.patrolScrub 2 [finding 5 1 false, finding 5 1 false, finding 6 1 false]) ready (fun t =>
    decide (sget 0 t.mem.corrPasses (2 * 2 ^ 32 + 5) = 1 ∧ sget 0 t.mem.corrPasses (2 * 2 ^ 32 + 6) = 1)) = true := by decide
theorem test_witness_scrub_fourth : 3 ≤ sget 0 ({ Mem.reset with corrPasses := [(2 * 2 ^ 32 + 5, 3)] } : Mem).corrPasses (2 * 2 ^ 32 + 5) ∧
    (∀ y ∈ [finding 6 1 false], y.row ≠ (finding 5 1 false).row) := by decide
/-- 08 R216: Standard corrects one symbol and detects two; Strong corrects two, or one pin's, and detects three. -/
theorem test_witness_verdicts : ready.mem.strongActive = false ∧ ready.mem.verdict (finding 5 1 false) = .corrected ∧
    ready.mem.verdict (finding 5 2 false) = .uncorrectable ∧
    ({ Mem.reset with strongActive := true } : Mem).verdict (finding 5 2 false) = .corrected ∧
    ({ Mem.reset with strongActive := true } : Mem).verdict (finding 5 9 true) = .corrected ∧
    ({ Mem.reset with strongActive := true } : Mem).verdict (finding 5 3 false) = .uncorrectable := by decide
theorem test_witness_seam_fault : ((partIs id).part 0).live = true ∧ ((partIs id).part 0).faultsFromCut < 2 := by decide

/-- A queue and a partition at their drain limits. -/
def drained : State := partIs (fun P => { P with state := .draining, drainDue := some 9, queues := [(16, { openQueue with state := .draining, drainDue := some 5 })] })
theorem test_witness_drain : (drained.part 0).firstLimit = some 5 := by decide
theorem test_drain_rolls_back : runs (.drainRollback 0) drained (fun t => decide (((t.part 0).queue 16).rolledBack = true ∧ t.tick = 5 ∧
    (t.part 0).rolledBack = false)) = true := by decide

/-- A step record armed for counter 0 at 0 (13 Table 13.11), at VA 0x4000. -/
def stepArmed : State := mapped [] { livePart with stepRecordBase := 0x4000, stepRecordCtrl := 0x10000 }
theorem test_witness_step_record : (stepArmed.part 0).live = true ∧ bit (stepArmed.part 0).stepRecordCtrl.toNat 16 = true ∧
    (stepArmed.part 0).satisfied (fld (stepArmed.part 0).stepRecordCtrl.toNat 0 16) (BitVec.ofNat 32 (fld (stepArmed.part 0).stepRecordCtrl.toNat 32 32)) = true ∧
    stepArmed.obsAddr 0 (fld (stepArmed.part 0).stepRecordBase.toNat 6 46 * 64) = some 0x4000 := by decide
theorem test_step_record : runs (.stepRecordWrite 0) stepArmed (fun t => decide ((t.part 0).staged.map (·.addr) = [0x4018])) = true := by decide

/-! ### Hypotheses that are met: events of started commands (08, 12, 13) -/

/-- A started ALL_GATHER of ranks 5 (this package) and 6, 64 bytes each, of which rank 6's have or have not arrived. -/
def gatherCmd : Bytes := command 0x03 [(0x20, 2), (0x28, 16), (0x2A, 1), (0x39, 0x60), (0x41, 0x61), (0x51, 0x10)]
def gatherColl : Coll :=
  { ranks := [5, 6], counts := [64, 64], aux := [], enc := [], circuits := false, opened := true, regionsDone := [], startTick := 0 }
def gatherEntry : Entry :=
  { cmd7 0x03 [] with cmd := gatherCmd, phase := .running, accepted := true, xlats := [page0], coll := some gatherColl }
def gathering (arrived : List (Nat × Nat)) : State :=
  mapped [] { livePart with
    queues := [(24, queueWith gatherEntry)]
    endpoint := some 5
    windows := [window0]
    arrivals := [(0, arrived)] }

theorem test_witness_region : (gatherColl.opened = true ∧ 0 ∉ gatherColl.regionsDone) ∧ (gathering [(64, 128)]).entry (cid 24) = some gatherEntry ∧
    (layoutOf gatherCmd gatherColl)[0]? = some { region := .part 1, off := 64, len := 64 } ∧
    ((gathering [(64, 128)]).part 0).regionArrived gatherCmd { region := .part 1, off := 64, len := 64 } = true ∧
    (gathering [(64, 128)]).poisonReads window0.xlats [(window0.base + 64, 0)] = none ∧
    gatherEntry.owed = [] := by decide
/-- 13 Table 13.6: a buffer error of the engine of Velac die 0, where the collective runs. -/
theorem test_witness_buffer_error : (gathering []).onUnit 0 true false 0 = true ∧ ((gathering []).part 0).live = true ∧
    ((gathering []).part 0).faultsFromCut < 2 ∧ (partIs id).onUnit 0 true false 0 = false := by decide
theorem test_witness_timeout : (layoutOf gatherCmd gatherColl).any (fun x => !((gathering []).part 0).regionArrived gatherCmd x) = true := by decide
/-- 12 R348: MISSING, and rank position 1 is the lowest whose data has not come. -/
theorem test_timeout : runs (.arrivalTimeout (cid 24)) (gathering []) (fun t =>
    has (t.entry (cid 24)) (fun x => decide (x.status = .unrecoverable ∧ x.detail = 0x10002))) = true := by decide

/-- A started copy through a host page. -/
def hostful : Entry := { copyCmd with phase := .running, accepted := true, xlats := [{ page0 with host := true }] }
theorem test_witness_host_error : (heldIn 20 hostful).entry (cid 20) = some hostful ∧ hostful.hostful = true := by decide

/-- A COPY_OUT that stalled, with room again. -/
def stalledOut : State := copyOutState.modPart 0 (fun P => { P with stalls := [.thread tid] })
theorem test_witness_stalled : (stalledOut.part 0).stalls = [.thread tid] ∧
    has ((stalledOut.modPart 0 (fun P => { P with stalls := [] })).running tid 0x02) (fun x =>
      (stalledOut.modPart 0 (fun P => { P with stalls := [] })).shadowRoom { x.e.writer tid.cid with
          thread := some tid, own := (stalledOut.modPart 0 (fun P => { P with stalls := [] })).threadReads x } x.e.xlats
        (((stalledOut.modPart 0 (fun P => { P with stalls := [] })).copyOutDue x).map (fun y => (y.1, y.2.length)))) = true := by
  decide
theorem test_stalled_goes_on : runs (.shadowBlockFreed 0) stalledOut (fun t => decide (t.mem.byte 0x3000 = 0x5A)) = true := by decide

/-- A COPY that stalled before its one write, with room again. -/
def owing : Entry := { copyCmd with phase := .running, accepted := true, xlats := [page0], owed := [(false, 0x3000, [7])] }
def stalledCopy : State := (mappedIn 20 owing []).modPart 0 (fun P => { P with stalls := [.command (cid 20)] })
theorem test_witness_stalled_copy : (stalledCopy.part 0).stalls = [.command (cid 20)] ∧
    (stalledCopy.modPart 0 (fun P => { P with stalls := [] })).entry (cid 20) = some owing ∧ owing.phase = .running ∧
    cmdKind owing.cmd = 0x02 ∧ owing.sweep = none ∧ owing.owed ≠ [] ∧
    ((stalledCopy.modPart 0 (fun P => { P with stalls := [] })).modEntry (cid 20) (fun y => { y with owed := [] })).dueRoom
      (owing.writer (cid 20)) owing.xlats owing.owed = true := by decide +kernel
theorem test_stalled_copy_goes_on : runs (.shadowBlockFreed 0) stalledCopy (fun t => decide (t.mem.byte 0x3000 = 7) &&
    has (t.entry (cid 20)) (fun x => decide (x.phase = .executed ∧ x.owed = []))) = true := by decide +kernel

/-! ### Hypotheses that are met: partitions, groups, queues (14, 02) -/

theorem test_witness_pf_writes : ready.mayWritePart .pf 0 = true ∧ ready.mayWritePart (.vf 0) 0 = false ∧ ready.mayWritePkg .pf = true := by decide
theorem test_witness_part_states : ((partIs id).part 0).state = .enabled ∧ (ready.part 0).state = .disabled ∧ (ready.part 0).cores = 0 := by decide
theorem test_enable_refused : runs (.partitionEnable .pf 0) ready (fun t => (t.part 0).enableRefused) = true := by decide
theorem test_enable : runs (.partitionEnable .pf 0) (withPart ready { Part.reset with cores := 1 }) (fun t =>
    decide ((t.part 0).state = .enabled ∧ (t.part 0).pollAt = 50000)) = true := by decide
/-- 14 R421: a partition with a waiting command drains, and the command is cancelled. -/
theorem test_disable_cancels : runs (.partitionDisable .pf 0) (heldIn 16 (cmd7 0x07 [])) (fun t =>
    has (t.entry (cid 16)) (fun x => decide (x.status = .cancelled))) = true := by decide

/-- Queue 0 with its rings' bases, DISABLED. -/
def closedQueue : State := partIs (fun P => { P with queues := [(0, { openQueue with state := .disabled })] })
theorem test_witness_queue_enable : ((closedQueue.part 0).queue 0).state = .disabled ∧ ((closedQueue.part 0).queue 0).sqBase ≠ 0 ∧
    ((closedQueue.part 0).queue 0).cqBase ≠ 0 ∧ queueExists 0 = true := by decide
theorem test_queue_enable : runs (.queueEnable .pf 0 0) closedQueue (fun t => decide (((t.part 0).queue 0).state = .enabled)) = true := by decide
/-- 14 R410: the group of queue 16 is not created. -/
theorem test_queue_enable_refused : runs (.queueEnable .pf 0 16) closedQueue (fun t => ((t.part 0).queue 16).enableRefused) = true := by decide
theorem test_queue_disable : runs (.queueDisable .pf 0 16) (heldIn 16 (cmd7 0x07 [])) (fun t =>
    has (t.entry (cid 16)) (fun x => decide (x.status = .cancelled))) = true := by decide
/-- A STOPPED queue that holds a signal of 5 to counter 3. -/
def stoppedQueue : State :=
  partIs (fun P => { P with queues := [(16, { openQueue with state := .stopped, held := [(7, command 0x07 [(0x18, 3), (0x1A, 1), (0x1C, 5)])] })] })
theorem test_witness_resume : ((stoppedQueue.part 0).queue 16).state = .stopped ∧ ((stoppedQueue.part 0).queue 16).reread = false := by decide
theorem test_queue_resume : runs (.queueResume .pf 0 16) stoppedQueue (fun t =>
    decide ((t.part 0).counter 3 = 5 ∧ ((t.part 0).queue 16).state = .enabled)) = true := by decide

/-- A queue that a bad doorbell word stopped, with nothing held: RESUME reads the word again (14 R413), here 0. -/
def rereadQueue : State := partIs (fun P => { P with queues := [(16, { openQueue with state := .stopped, reread := true, doorbellError := true })] })
theorem test_witness_reread : ((rereadQueue.part 0).queue 16).state = .stopped ∧ ((rereadQueue.part 0).queue 16).reread = true ∧
    ((rereadQueue.part 0).queue 16).held = [] := by decide
theorem test_resume_rereads : runs (.queueResume .pf 0 16) rereadQueue (fun t => decide (((t.part 0).queue 16).state = .enabled)) = true := by decide

/-- Group 1 with GROUP_CFG as given. -/
def groupIs (G : Group) : State := partIs (fun P => { P with groups := [(1, G)] })
theorem test_witness_group : (((groupIs Group.reset).part 0).group 1).created = false ∧ bit Group.reset.cfgReg.toNat 6 = false ∧
    (((groupIs { Group.reset with created := true }).part 0).group 1).created = true := by decide
/-- 14 R409: CREATE needs SEED_VALID (error 5), WEIGHT 1 (error 3) and at most one row-engine owner (error 1). -/
theorem test_group_errors : runs (.groupCreate .pf 0 1) (groupIs Group.reset) (fun t => decide (((t.part 0).group 1).error = 5)) = true ∧
    runs (.groupCreate .pf 0 1) (groupIs { Group.reset with cfgReg := 0x48 }) (fun t => decide (((t.part 0).group 1).error = 3)) = true ∧
    runs (.groupCreate .pf 0 1) (partIs (fun P => { P with groups := [(1, { Group.reset with cfgReg := 0x46 }),
      (2, { Group.reset with created := true, owner := true })] })) (fun t => decide (((t.part 0).group 1).error = 1)) = true := by decide
theorem test_group_create : runs (.groupCreate .pf 0 1) (groupIs { Group.reset with cfgReg := 0x46 }) (fun t =>
    ((t.part 0).group 1).created && ((t.part 0).group 1).owner) = true := by decide
theorem test_group_destroy : runs (.groupDestroy .pf 0 1) (groupIs { Group.reset with created := true }) (fun t =>
    !((t.part 0).group 1).created) = true := by decide
theorem test_group_destroy_busy : runs (.groupDestroy .pf 0 1)
    (partIs (fun P => { P with groups := [(1, { Group.reset with created := true })], queues := [(16, openQueue)] })) (fun t =>
    decide (((t.part 0).group 1).error = 2)) = true := by decide

/-- 02 R65: MIN of the four streams 4 each sums to 16, which is allowed; one more is not. -/
theorem test_witness_shares : (∀ k, k < 4 → shareMin 0x42000000 k ≤ 16 ∧ 1 ≤ shareMax 0x42000000 0x210 k ∧ shareMax 0x42000000 0x210 k ≤ 16 ∧
    shareMin 0x42000000 k ≤ shareMax 0x42000000 0x210 k) ∧
    shareMin 0x42000000 0 + shareMin 0x42000000 1 + shareMin 0x42000000 2 + shareMin 0x42000000 3 ≤ 16 := by decide
theorem test_share_refused : runs (.streamShareWrite .pf 0 false 0x7FFFFFFF) ready (fun t => decide (t.part 0 = ready.part 0)) = true := by decide
theorem test_share_taken : runs (.streamShareWrite .pf 0 false 0x42000001) ready (fun t => decide ((t.part 0).streamShare = 0x42000001)) = true := by
  decide
/-- 02 R64: 0xE1 is the permutation 1, 0, 2, 3. -/
theorem test_witness_priority : (∀ a : Fin 4, fld 0xE1 (2 * a.val) 2 = ((#v[1, 0, 2, 3] : Vector (Fin 4) 4)[a]).val) ∧ fld 0xE0 0 2 = fld 0xE0 2 2 := by
  decide
theorem test_priority_taken : runs (.streamPriorityWrite .pf 0 0x1B) ready (fun t => decide ((t.part 0).streamPriority = 0x1B)) = true := by decide
theorem test_priority_refused : runs (.streamPriorityWrite .pf 0 0) ready (fun t => decide ((t.part 0).streamPriority = 0xE1)) = true := by decide
theorem test_tlb_invalidate : runs (.tlbInvalidate .pf 0) (partIs (fun P => { P with tlb := [page0] })) (fun t => decide ((t.part 0).tlb = [])) = true := by
  decide

/-! ### Hypotheses that are met: requests to Selvage, resets (14, 16) -/

/-- A request record at host address 0 (14 Table 14.11): kind, partition 0, payload length and payload. -/
def record (kind n : Nat) (payload : List (Nat × Byte)) : HostStores :=
  [(0, BitVec.ofNat 8 kind), (4, BitVec.ofNat 8 n), (5, BitVec.ofNat 8 (n / 256))] ++ payload.map (fun x => (16 + x.1, x.2))
/-- The ready package with that record in its memory. -/
def withRecord (h : HostStores) (s : State) : State := { s with host := sstores s.host h }

theorem test_witness_selvage_kind : (withRecord (record 9 0 []) ready).request.kind = 9 ∧ State.reset.life.deviceReady = false := by decide
theorem test_witness_selvage_busy_part : (withRecord (record 1 160 []) (partIs id)).request.payload.length = 160 ∧
    (withRecord (record 1 160 []) (partIs id)).request.clean = true := by decide
theorem test_selvage_isolation : runs (.assignCores (record 1 160 [])) (partIs id) (fun t => decide (t.hi.selvageResult = .isolation)) = true := by decide
theorem test_assign_cores : runs (.assignCores (record 1 160 [(0, 3)])) ready (fun t => decide (t.hi.selvageResult = .ok)) = true := by
  decide
/-- One frame, number 2 of stack 1 (14 Table 14.12): FIRST at bit 20, COUNT at bit 36. -/
theorem test_witness_frames : (withRecord (record 2 8 [(0, 1), (2, 0x20), (4, 0x10)]) ready).frameForm true
      (withRecord (record 2 8 [(0, 1), (2, 0x20), (4, 0x10)]) ready).request = none ∧
    (withRecord (record 2 8 [(0, 1), (2, 0x20), (4, 0x10)]) ready).frameReach 0 (withRecord (record 2 8 [(0, 1), (2, 0x20), (4, 0x10)]) ready).request = none ∧
    requestFrames (withRecord (record 2 8 [(0, 1), (2, 0x20), (4, 0x10)]) ready).request = [65538] := by decide
theorem test_assign_frames : runs (.assignFrames (record 2 8 [(0, 1), (2, 0x20), (4, 0x10)])) ready (fun t =>
    decide (t.mem.frameOwner 65538 = some 0)) = true := by decide
theorem test_release_frames : runs (.releaseFrames (record 3 8 [(0, 1), (2, 0x20), (4, 0x10)])) { ready with mem := { Mem.reset with owner := [(65538, 1)] } }
    (fun t => decide (t.mem.frameOwner 65538 = none)) = true := by decide
theorem test_set_endpoints : runs (.setEndpoints (record 4 4098 [(0, 5), (2, 1)])) ready (fun t =>
    decide ((t.part 0).endpoint = some 5 ∧ t.hi.selvageResult = .ok)) = true := by decide
theorem test_memory_encryption : runs (.memoryEncryption (record 5 8 [(0, 1)])) ready (fun t => (t.part 0).memKey.isSome) = true := by decide

theorem test_partition_reset : runs (.partitionReset .pf 0) (partIs (fun P => { P with counters := [(3, 9)] })) (fun t =>
    decide ((t.part 0).state = .resetting ∧ (t.part 0).counter 3 = 0 ∧ (t.part 0).cores = 1)) = true := by decide
theorem test_partition_reset_done : runs (.partitionResetDone 0) (partIs (fun P => { P with state := .resetting })) (fun t =>
    decide ((t.part 0).state = .disabled)) = true := by decide
theorem test_pf_reset : runs .pfFunctionLevelReset ready (fun t => decide ((t.part 3).state = .resetting)) = true := by decide
theorem test_witness_partial : ready.life.deviceReady = true ∧ ready.hi.partialBusy = none ∧ ready.cores.absent.getLsbD 1279 = false ∧
    2 ≤ (ready.cores.freeSpares 3).length := by decide
/-- 14 R424: INDEX 3 is the last Velac die, 11 the last Seam, 1,279 the last core. -/
theorem test_partial_velac : runs (.partialResetVelac 3) (ready.modPort 24 (fun _ => upPort)) (fun t =>
    decide ((t.port 24).state = .down ∧ t.hi.partialResult = .ok)) = true := by decide
theorem test_partial_velac_bad : runs (.partialResetVelac 4) ready (fun t => decide (t.hi.partialResult = .invalid)) = true := by decide
theorem test_partial_adapter : runs (.partialResetSeamAdapter 11 true) ready (fun t => (t.seams[11]).retraining) = true := by decide
theorem test_partial_adapter_bad : runs (.partialResetSeamAdapter 12 true) ready (fun t => decide (t.hi.partialResult = .invalid)) = true := by decide
/-- The first row moves the core to a spare; the second, at a later boundary, returns it or retires it. -/
theorem test_partial_core : runs (.partialResetCore 1279 false) ready (fun t => decide (t.cores.phys 1279 = 1292 ∧ t.cores.retired = []) &&
    runs (.partialResetCore 1279 false) t (fun u => decide (u.cores.phys 1279 = 1292 ∧ u.cores.retired = [1291])) &&
    runs (.partialResetCore 1279 true) t (fun u => decide (u.cores.phys 1279 = 1291 ∧ u.cores.retired = []))) = true := by decide +kernel
theorem test_witness_partial_core : ready.coreReset 1279 = none ∧ (∀ p, (ready.part p).ownsCore 1279 = true → (ready.part p).state = .disabled) ∧
    ready.cores.freeSpares 3 = 1292 :: 1293 :: [1294, 1295] := by decide
theorem test_partial_core_bad : runs (.partialResetCore 1280 true) ready (fun t => decide (t.hi.partialResult = .invalid)) = true := by decide
/-- With one unused spare on the die the result is DEFERRED. -/
theorem test_partial_core_deferred : runs (.partialResetCore 0 true) { ready with cores := { Cores.reset with retired := [320, 321, 322] } } (fun t =>
    decide (t.hi.partialResult = .deferred ∧ t.tick = 10000000)) = true := by decide

/-! ### Hypotheses that are met: Seams (10) -/

/-- The ready package with Seam 0 as given. -/
def seamIs (x : Seam) : State := ready.modSeam 0 (fun _ => x)
/-- A direction whose transmitter holds 3 credits of stream 4, striped over modules 0 and 1. -/
def upDir : SeamDir := { SeamDir.fresh with credits := [(4, 3)], stripes := [(0, [0, 1])], active := [0, 1] }
/-- A Seam whose link is up. -/
def upSeam : Seam := { Seam.reset with linkUp := true, ab := upDir, ba := upDir }
/-- Flit 0 of stream 4, with its CRC. -/
def flit0 : Flit :=
  let f : Flit := { seq := 0, stream := 4, crStream := 0, crCount := 0, payload := zeros 248, crc := 0 }
  { f with crc := BitVec.ofNat 32 (crc32c (flitBytes f)) }

theorem test_witness_flit : flit0.payload.length = 248 ∧ flitOk flit0 = true ∧ flitOk { flit0 with crc := ~~~flit0.crc } = false ∧
    ((seamIs upSeam).seams[0]).linkUp = true ∧ upDir.mayArrive (seamDepth 0 0) flit0 true = true ∧
    upDir.mayArrive (seamDepth 0 0) { flit0 with crc := ~~~flit0.crc } false = true ∧
    ({ upDir with rxExpected := 65536, txNext := 65536 } : SeamDir).mayArrive (seamDepth 0 0) flit0 true = true := by decide +kernel
/-- A good flit sent before, that is not the one expected. -/
theorem test_witness_flit_again : ({ upDir with txNext := 1, rxExpected := 1, retry := [{ seq := 0, flit := some flit0, resends := 1 }] } : SeamDir).mayArrive
    (seamDepth 0 0) flit0 true = true := by decide +kernel
theorem test_flit_good : runs (.seamFlitReceive 0 .ab flit0) (seamIs upSeam) (fun t =>
    decide ((t.seams[0]).ab.rxExpected = 1 ∧ (t.seams[0]).ab.ackDue = some 100 ∧ sget 0 (t.seams[0]).ab.credits 4 = 2)) = true := by
  decide +kernel
/-- 10 R276: the 64th is acknowledged at once. -/
theorem test_flit_64th : runs (.seamFlitReceive 0 .ab flit0) (seamIs { upSeam with ab := { upDir with sinceAck := 63 } }) (fun t =>
    decide (t.out = [.seamAck 0 .ab 1])) = true := by decide +kernel
theorem test_flit_bad : runs (.seamFlitReceive 0 .ab { flit0 with crc := ~~~flit0.crc }) (seamIs upSeam) (fun t =>
    decide (t.out = [.seamNack 0 .ab 0] ∧ (t.seams[0]).ab.rxExpected = 0)) = true := by decide +kernel

/-- A direction with flits 0 and 1 outstanding since tick 5. -/
def sentDir : SeamDir :=
  { upDir with
    txNext := 2, progressAt := 5, ackDue := some 9,
    retry := [{ seq := 0, flit := some flit0, resends := 0 }, { seq := 1, flit := none, resends := 0 }] }
theorem test_witness_seam_retry : sentDir.ackDue = some 9 ∧
    (∀ r ∈ sentDir.retry, seqBefore (r.seq % 65536) (0 % 65536) = false → r.resends < 4) ∧
    sentDir.retry ≠ [] := by decide +kernel
theorem test_seam_ack_timer : runs (.seamAckTimer 0 .ab) (seamIs { upSeam with ab := sentDir }) (fun t => decide (t.tick = 9 ∧ t.out = [.seamAck 0 .ab 0])) = true := by
  decide +kernel
theorem test_seam_ack : runs (.seamAckReceive 0 .ab 1) (seamIs { upSeam with ab := sentDir }) (fun t =>
    decide ((t.seams[0]).ab.retry.map (·.seq) = [1])) = true := by decide +kernel
theorem test_seam_nack : runs (.seamNackReceive 0 .ab 1) (seamIs { upSeam with ab := sentDir }) (fun t =>
    decide ((t.seams[0]).ab.retry.map (·.resends) = [0, 1] ∧ t.out = [.seamFlit 0 .ab 1 1 none])) = true := by decide +kernel
theorem test_seam_exhausted : runs (.seamRetryExhausted 0 .ab) (seamIs { upSeam with ab := sentDir }) (fun t =>
    decide (t.tick = 2005 ∧ (t.seams[0]).retraining = true)) = true := by decide +kernel
theorem test_witness_retraining : ({ Seam.reset with retraining := true } : Seam).reconcile.canRun 0 = true := by decide +kernel
theorem test_retraining : runs (.seamRetraining 0 []) (seamIs { Seam.reset with retraining := true }) (fun t =>
    (t.seams[0]).linkUp && !(t.seams[0]).retraining && decide (12000 ≤ t.tick)) = true := by decide +kernel
theorem test_witness_seam_down : ({ Seam.reset with mapA := { LaneMap.fresh with ctrlAB := 1 } } : Seam).reconcile.canRun 0 = false := by decide +kernel

/-- A Seam whose ends have marked data lane 7 of module 0 bad. -/
def marked : Seam := [({ dir := .ab, module := 0, lanes := [7] } : LaneResult)].foldl Seam.localMark upSeam
theorem test_witness_proposal : marked.linkUp = true ∧ marked.pendingB = none ∧ marked.proposal.same marked.committed = false := by decide +kernel
theorem test_proposal : runs (.laneMapProposal 0) (seamIs marked) (fun t => (t.seams[0]).pendingB.isSome && (t.seams[0]).pendingA.isSome) = true := by
  decide +kernel
theorem test_commit : runs (.laneMapCommit 0) (seamIs { marked with pendingA := some marked.proposal, pendingB := some marked.proposal }) (fun t =>
    decide ((t.seams[0]).committed = marked.proposal)) = true := by decide +kernel
/-- 10 R279: a word needs two active lanes of a Seam that is not down. -/
theorem test_witness_control_word : upSeam.down = false ∧ 2 ≤ (upSeam.dir .ab).active.length := by decide +kernel
theorem test_lane_test_end : runs (.backgroundLaneTestEnd 0 []) (seamIs { upSeam with disputed := [(.ab, 7)] }) (fun t =>
    decide ((t.seams[0]).disputed = [] ∧ (t.seams[0]).committed.generation = 1)) = true := by decide +kernel

/-! ### Hypotheses that are met: links (11) -/

/-- Frame 0 of stream 0 with 4 bytes for its packet (11 Table 11.3), with its CRC. -/
def frame0 : Frame :=
  { header := 0x04000000, body := zeros 244, crc := BitVec.ofNat 32 (crc32c (frameBytes 0x04000000 (zeros 244))) }
/-- Whether what leaves is a frame of port 0 that acknowledges up to a number, and asks for a resend or not (11 Table 11.3). -/
def asks (n : Nat) (resend : Bool) (x : Out) : Bool :=
  match x with
  | .frame 0 f => bit f.header.toNat 48 && decide (fld f.header.toNat 32 16 = n) && (bit f.header.toNat 49 == resend)
  | _ => false
theorem test_witness_frame : frame0.body.length = 244 ∧ frameOk frame0 = true ∧ fld frame0.header.toNat 0 16 = upPort.rxExpected.toNat ∧
    fld ({ frame0 with header := 5 } : Frame).header.toNat 0 16 ≠ upPort.rxExpected.toNat ∧ frameOk { frame0 with crc := ~~~frame0.crc } = false := by
  decide +kernel
theorem test_frame_good : runs (.linkFrameReceive 0 frame0) (portIs id) (fun t =>
    decide ((t.port 0).rxExpected = 1 ∧ sget [] (t.port 0).rxStreams 0 = zeros 4)) = true := by decide +kernel
theorem test_frame_bad : runs (.linkFrameReceive 0 { frame0 with crc := ~~~frame0.crc }) (portIs id) (fun t =>
    (t.port 0).nacked && t.out.any (asks 0 true)) = true := by decide +kernel
/-- 11 R302: a resent frame that fails its CRC draws a new request; a later one, while the request is out, does not. -/
theorem test_frame_bad_again : runs (.linkFrameReceive 0 { frame0 with crc := ~~~frame0.crc }) (portIs (fun P => { P with nacked := true })) (fun t =>
    t.out.any (asks 0 true)) = true ∧
    runs (.linkFrameReceive 0 { frame0 with header := 0x04000001 }) (portIs (fun P => { P with nacked := true })) (fun t =>
      decide (t.out = [])) = true := by decide +kernel
/-- 11 R302: the 32nd is acknowledged at once. -/
theorem test_frame_32nd : runs (.linkFrameReceive 0 frame0) (portIs (fun P => { P with sinceAck := 31 })) (fun t =>
    t.out.any (asks 1 false) && decide ((t.port 0).ackDue = none)) = true := by decide +kernel
theorem test_witness_link_retry : ∀ r ∈ [(frame0, 0)], seqBefore (fld r.1.header.toNat 0 16) (0 % 65536) = false → r.2 < 8 := by decide +kernel
theorem test_link_ack_timer : runs (.linkAckTimer 0) (portIs (fun P => { P with ackDue := some 9 })) (fun t =>
    decide (t.tick = 9) && t.out.any (asks 0 false)) = true := by decide +kernel
/-- A port that is UP and reachable, with frames kept. -/
theorem test_witness_link_up : (portIs id).portUp 0 = true ∧ upPort.retry.length < 1024 ∧
    (∀ r ∈ [(frame0, 7)], seqBefore (fld r.1.header.toNat 0 16) (0 % 65536) = false → r.2 < 8) := by decide +kernel
/-- The address header is 32 bytes and the trailer 4: a packet of kind 0x04 on VC 7, and one on VC 0 that carries 244 bytes. -/
def controlPkt : Packet := mkPacket false (addressed 0x04 9 5 7 0 0 0 0 0 0) []
def bulkPkt : Packet := mkPacket false (addressed 0x01 9 5 0 0 244 0 0 0 0) (zeros 244)
/-- A port that is UP with a packet of each waiting, and credits dedicated or shared. -/
def waiting (l : List (Nat × Nat)) : Port := { upPort with egress := [bulkPkt, controlPkt], credits := l }
theorem test_witness_slots : (waiting [(0, 1), (14, 1)]).state = .up ∧ (waiting [(0, 1), (14, 1)]).retry.length < 1024 ∧
    (waiting [(0, 1), (14, 1)]).used 1 < 2 ∧ (waiting [(0, 1), (14, 1)]).sendable 7 none = some 14 ∧
    sget 0 (waiting [(0, 1), (14, 1)]).credits 14 ≠ 0 ∧ (waiting [(30, 1)]).sendable 7 none = some 14 ∧
    sget 0 (waiting [(30, 1)]).credits 14 = 0 ∧ (∀ k, k ≤ 8 → (waiting []).sendable k none = none) := by decide +kernel
theorem test_witness_slot_six : ({ upPort with egress := [mkPacket false (addressed 0x12 9 5 6 0 0 0 0 0 0) []], credits := [(12, 1)] } : Port).sendable 6 none = some 12 ∧
    ({ upPort with egress := [mkPacket false (addressed 0x12 9 5 6 0 0 0 0 0 0) []], credits := [(12, 1)] } : Port).sendable 7 none = none := by decide +kernel
/-- 11 R300, R306: VC 7 goes first; its packet fills one frame of 36 bytes, and the next slot is VC 0's. -/
theorem test_slots : has ((waiting [(0, 1), (14, 1)]).slot 0 0 false []) (fun x => decide (fld x.2.1.header.toNat 16 4 = 7 ∧
    fld x.2.1.header.toNat 24 8 = 36) && has (x.1.slot 0 0 false []) (fun y => decide (fld y.2.1.header.toNat 16 4 = 0 ∧
    fld y.2.1.header.toNat 24 8 = 244 ∧ fld y.2.1.header.toNat 0 16 = 1))) = true := by decide +kernel
theorem test_idle_slots : ((waiting []).slot 0 0 false []).isNone = true ∧ has (({ waiting [] with ackOut := true } : Port).slot 0 0 false [])
    (fun x => decide (fld x.2.1.header.toNat 16 4 = 15 ∧ bit x.2.1.header.toNat 48 = true)) = true := by decide +kernel
theorem test_link_nack : runs (.linkNackReceive 0 0) (portIs (fun P => { P with retry := [(frame0, 0)] })) (fun t =>
    decide ((t.port 0).retry = [(frame0, 1)] ∧ t.out = [.frame 0 frame0])) = true := by decide +kernel
theorem test_link_drop : runs (.linkDrop 0) (portIs (fun P => { P with retry := [(frame0, 0)], progressAt := 5 })) (fun t =>
    decide (t.tick = 10005 ∧ (t.port 0).state = .down)) = true := by decide +kernel
theorem test_port_lost : runs (.portLost 0) (portIs (fun P => { P with state := .down, lostDue := some 9 })) (fun t =>
    decide ((t.port 0).state = .lost)) = true := by decide +kernel
/-- 11 R304: the sixteenth drop in 24 hours loses the port, the fifteenth does not. -/
theorem test_witness_dropped : 16 ≤ ((List.replicate 16 5).filter (fun t => decide ((portIs id).tick < t + 86400000000000))).length := by decide +kernel
theorem test_port_lost_drops : runs (.portLost 0) (portIs (fun P => { P with drops := List.replicate 16 5 })) (fun t =>
    decide ((t.port 0).state = .lost)) = true ∧
    runs (.portLost 0) (portIs (fun P => { P with drops := List.replicate 15 5 })) (fun t => decide ((t.port 0).state = .up)) = true := by
  decide +kernel
theorem test_trained : runs (.portTrained 3) (ready.modPort 3 (fun P => { P with state := .training })) (fun t =>
    t.out.any (fun x => match x with
      | .hello 3 h => decide (h.port = 3 ∧ h.encrypt = false ∧ h.retryDepth = 1024)
      | _ => false) && (t.port 3).trained) = true := by decide +kernel
/-- The hello of a partner. -/
def hello5 (e : Bool) : Hello := { endpoint := 5, port := 6, encrypt := e, retryDepth := 1024 }
theorem test_hello : runs (.helloReceive 0 (hello5 false)) (portIs (fun P => { P with state := .training, trained := true })) (fun t =>
    decide ((t.port 0).state = .up ∧ (t.port 0).partnerEndpoint = 5)) = true := by decide +kernel
theorem test_hello_mismatch : runs (.helloReceive 0 (hello5 true)) (portIs (fun P => { P with state := .training, trained := true })) (fun t =>
    decide ((t.port 0).state = .mismatch ∧ (t.port 0).partnerEndpoint = 5)) = true := by decide +kernel
theorem test_port_off : runs (.portEnableWrite .pf 0 0) (portIs id) (fun t => decide ((t.port 0).state = .disabled)) = true := by decide +kernel
theorem test_port_on : runs (.portEnableWrite .pf 0 1) (portIs (fun P => { P with ctrl := 0, state := .disabled })) (fun t =>
    decide ((t.port 0).state = .training)) = true := by decide +kernel
/-- 11 R325: shares of 60 in sum are taken, of 61 not. -/
theorem test_quota : runs (.portQuotaWrite .pf 0 60) (portIs id) (fun t => decide ((t.port 0).quota = 60)) = true ∧
    runs (.portQuotaWrite .pf 0 61) (portIs id) (fun t => decide ((t.port 0).quota = 0)) = true := by decide +kernel
theorem test_key_slot : runs (.keySlotSwitch 0 true) (portIs (fun P => { P with encrypted := true, keyed := true })) (fun t =>
    decide ((t.port 0).txSlot = true ∧ (t.port 0).txKey.counter = 0) && (t.port 0).txKey.installed) = true := by decide +kernel
theorem test_clear_max : runs (.telemetryClearMax .pf) (portIs (fun P => { P with telemetry := [(0, 3), (96, 5)] })) (fun t =>
    decide (sget 0 (t.port 0).telemetry 96 = 0 ∧ sget 0 (t.port 0).telemetry 0 = 3)) = true := by decide +kernel
/-- A port with a packet of stream 2 queued and no credit. -/
def stalledPort : Port := { upPort with egress := [mkPacket false (addressed 0x01 9 5 2 0 4 0 0 0 0) [1, 2, 3, 4]], waitSince := [(4, 7)] }
theorem test_witness_stall : (portIs (fun _ => stalledPort)).portUp 0 = true ∧ stalledPort.egress.any (fun x => packetKey x == 4) = true ∧
    (stalledPort.spend (creditKey 2 false)).isNone = true := by decide +kernel
theorem test_stall : runs (.fabricStall 0 2 0) (portIs (fun _ => stalledPort)) (fun t => decide (t.tick = 1000007 ∧ (t.port 0).stall = some (2, 0) ∧
    t.hi.pkgHealthWritten + t.hi.pkgHealthDrops = 1)) = true := by decide +kernel

/-! ### Hypotheses that are met: packets (11, 02, 12) -/

/-- A ready package whose partition 0 is endpoint 5, takes packets of endpoint 6, and has its flow table at VA 0x10000 with the receive
entries of endpoint 6 on VC 4 and VC 5 in use (11 Table 11.8), and port 0 UP. -/
def flowing : State :=
  let s := mapped [] { livePart with
    endpoint := some 5, recvPerm := 0x40, sendPerm := 0x40, flowCfg := 0x8000000000010000, windows := [window0] }
  { s with
    mem := { s.mem with bytes := s.mem.bytes ++ [(0x1101A6, 1), (0x1101AE, 1)] },
    fab := { s.fab with routes := [(5, 0x8000000020202020)] } }.modPort 0 (fun _ => upPort)
/-- SIGNAL of counter 3 to 9 from endpoint 6, and 4 bytes on VC 4 for offset 16 of window 0. -/
def signalPkt : Packet := mkPacket false (addressed 0x02 5 6 5 0 0 0 0 0 (3 + 9 * 65536)) []
def dataPkt : Packet := mkPacket false (addressed 0x03 5 6 4 0 4 0 0 16 0) [1, 2, 3, 4]

theorem test_witness_signal_packet : ComesIn flowing 0 signalPkt ∧ signalPkt.circuit = false ∧ kindOnVc signalPkt = true ∧ signalPkt.vc ≤ 5 ∧
    flowing.endpointPart signalPkt.dest = some 0 ∧ flowing.delivers signalPkt = true ∧ flowing.delivers (signalPkt.setFlag 1 true) = true := by
  refine ⟨?_, by decide +kernel⟩
  constructor <;> decide +kernel
theorem test_witness_expected : Expected flowing { p := 0, flow := flowOf 6 5, src := 6, window := 0, offset := 0 } (flowing.taken 0 signalPkt) { expected := 0, gen := 0, used := true } := by
  constructor <;> decide +kernel
theorem test_signal_packet : runs (.packetReceive 0 signalPkt) flowing (fun t => decide ((t.part 0).counter 3 = 9)) = true := by decide +kernel
theorem test_witness_data_packet : ComesIn flowing 0 dataPkt ∧
    Expected flowing { p := 0, flow := flowOf 6 4, src := 6, window := 0, offset := 16 } (flowing.taken 0 dataPkt) { expected := 0, gen := 0, used := true } ∧
    (flowing.part 0).window dataPkt.window = some window0 ∧ locate window0.xlats (window0.base + dataPkt.offset) = some (false, 0x8010) := by
  refine ⟨?_, ?_, by decide +kernel, by decide +kernel⟩ <;> constructor <;> decide +kernel
theorem test_data_packet : runs (.packetReceive 0 dataPkt) flowing (fun t => decide (t.mem.read 0x8010 4 = [1, 2, 3, 4])) = true := by decide +kernel
/-- 11 R313: a generation one before the entry's is STALE. -/
theorem test_witness_stale : genOlder 0 1 = true ∧ genOlder 0 32767 = true ∧ genOlder 0 32768 = false := by decide +kernel
/-- 11 Table 11.7: SIGNAL only on VC 5. -/
theorem test_misrouted : runs (.packetReceive 0 (mkPacket false (addressed 0x02 5 6 4 0 0 0 0 0 0) [])) flowing (fun t =>
    decide (sget 0 (t.port 0).telemetry 9 = 1)) = true := by decide +kernel

/-- A package that routes endpoint 9 to port 1 and holds transit entry 2 from port 0 to port 1 (11 Tables 11.15, 11.22). -/
def routing (up : Bool) : State :=
  let s := (ready.modPort 0 (fun _ => upPort)).modPort 1 (fun _ => if up then upPort else Port.reset)
  { s with fab := { s.fab with routes := [(9, 0x8000000000000101)], circuits := [(2, 0x10000000002)] } }
def throughPkt : Packet := mkPacket false (addressed 0x01 9 6 0 0 4 0 0 0 0) [1, 2, 3, 4]
def circuitPkt (id : Nat) : Packet := mkPacket true (circuitHeader 0x05 id 0 0 4 0) [1, 2, 3, 4]

theorem test_witness_forward : ComesIn (routing true) 0 throughPkt ∧ kindOnVc throughPkt = true ∧
    (routing true).fab.route 9 0 = some [(1, false), (1, false)] ∧ (routing true).egress [(1, false), (1, false)] = some (1, false) ∧
    (routing false).egress [(1, false), (1, false)] = none ∧ (routing true).fab.route 8 0 = none := by
  refine ⟨?_, by decide +kernel⟩
  constructor <;> decide +kernel
theorem test_forward_no_route : runs (.packetForward 0 (mkPacket false (addressed 0x01 8 6 0 0 0 0 0 0 0) [])) (routing true) (fun t =>
    decide (sget 0 (t.port 0).telemetry 9 = 1)) = true := by decide +kernel
theorem test_forward_no_port : runs (.packetForward 0 throughPkt) (routing false) (fun t => decide (sget 0 (t.port 0).telemetry 10 = 1)) = true := by decide +kernel
theorem test_witness_circuit : ComesIn (routing true) 0 (circuitPkt 2) ∧ kindOnVc (circuitPkt 2) = true ∧ ceRole ((routing true).fab.circuit 2) = 2 ∧
    ceIn ((routing true).fab.circuit 2) = 0 ∧ ceOut ((routing true).fab.circuit 2) = 1 ∧ ceRole ((routing true).fab.circuit 3) = 0 := by
  refine ⟨?_, by decide +kernel⟩
  constructor <;> decide +kernel
theorem test_circuit_unused : runs (.circuitPacket 0 (circuitPkt 3)) (routing true) (fun t => decide (sget 0 (t.port 0).telemetry 9 = 1)) = true := by decide +kernel
theorem test_circuit_no_port : runs (.circuitPacket 0 (circuitPkt 2)) (routing false) (fun t => decide (sget 0 (t.port 0).telemetry 10 = 1)) = true := by decide +kernel

/-- Partition 0, endpoint 5, with a send on the flow to endpoint 6 on VC 4, of a command or of none. -/
def sending (c : Option Cid) (late : List Nat) : State :=
  { partIs (fun P => { P with
    endpoint := some 5
    sends := [{ flow := flowOf 6 4, seq := 0, pkt := dataPkt, cmd := c, epoch := 1, due := 9 }]
    timedOut := late
    ackDue := [(flowOf 6 4, (1, 4))]
    queues := [(24, queueWith { cmd7 0x03 [] with phase := .running, accepted := true })] }) with
    fab := { Fab.reset with routes := [(5, 0x8000000020202020)] } }
/-- ACK of endpoint 6 up to 1 with a status (11 Table 11.9). -/
def ackPkt (status : Nat) : Packet := mkPacket false (addressed 0x04 5 6 7 0 0 0 0 0 (1 + status * 2 ^ 32 + 4 * 2 ^ 40)) []
theorem test_witness_ack : (ackPkt 0).wf = true ∧ (sending none []).endpointPart (ackPkt 0).dest = some 0 ∧ (ackPkt 0).kind = 0x04 ∧
    (ackPkt 0).vc = 7 ∧ (ackPkt 0).trailerOk = true ∧ (ackPkt 0).authentic = true ∧ (sending none []).delivers (ackPkt 0) = true ∧
    (sending none []).life.deviceReady = true ∧ fld (ackPkt 3).aux 32 8 = 3 ∧ fld (ackPkt 0).aux 40 4 = 4 ∧
    seqBelow 0 1 = true ∧ (sget (0, 0) ((sending none []).part 0).ackDue (flowOf 6 4)).1 ≠ 0 := by decide +kernel
theorem test_ack : runs (.ackReceive (ackPkt 0)) (sending none []) (fun t => decide ((t.part 0).sends = [])) = true := by decide +kernel
theorem test_nack_restores : runs (.ackReceive (ackPkt 1)) (sending none []) (fun t => decide ((t.part 0).openEpoch = 1 ∧ (t.part 0).faultsFromCut = 1)) = true := by
  decide +kernel
theorem test_refused_send : runs (.ackReceive (ackPkt 3)) (sending (some (cid 24)) []) (fun t =>
    has (t.entry (cid 24)) (fun x => decide (x.status = .isolation))) = true := by decide +kernel
/-- An acknowledgement, and the answer of a set-up, with a route to their endpoint by port 1. -/
def routed (s : State) : State :=
  { s.modPort 1 (fun _ => upPort) with fab := { s.fab with routes := [(6, 0x8000000001010101), (9, 0x8000000001010101)] } }
/-- Whether a packet of a VC to an endpoint goes out by port 1. -/
def byPort1 (s : State) (dest vc : Nat) : Bool := has (s.fab.route dest vc) (fun r => decide (s.egress r = some (1, false)))
theorem test_witness_ack_route : (sget (0, 0) ((routed (sending none [])).part 0).ackDue (flowOf 6 4)).1 ≠ 0 ∧
    (routed (sending none [])).flowPeer (flowOf 6 4) = 6 ∧ byPort1 (routed (sending none [])) 6 7 = true := by decide +kernel
theorem test_ack_timer : runs (.e2eAckTimer 0 (flowOf 6 4)) (sending none []) (fun t =>
    decide (t.tick = 4 ∧ sget (0, 0) (t.part 0).ackDue (flowOf 6 4) = (0, 0))) = true := by decide +kernel
theorem test_ack_timeout_second : runs (.ackTimeout 0 (flowOf 6 4)) (sending (some (cid 24)) [flowOf 6 4]) (fun t =>
    has (t.entry (cid 24)) (fun x => decide (x.status = .unrecoverable))) = true := by decide +kernel
theorem test_ack_timeout_first : runs (.ackTimeout 0 (flowOf 6 4)) (sending (some (cid 24)) []) (fun t => decide ((t.part 0).faultsFromCut = 1)) = true := by
  decide +kernel

/-! ### Hypotheses that are met: tables of the fabric (11) -/

/-- The ready package with a FAB_TABLE_INDEX. -/
def tableAt (i : W32) : State := { ready with fab := { Fab.reset with tableIndex := i, dataHigh := 7 } }
theorem test_witness_tables : ready.mayWritePkg .pf = true ∧ (tableAt 9).fab.onCircuits = false ∧ (tableAt 0x10009).fab.onCircuits = true ∧
    (tableAt 0x10FFF).fab.index < 4096 ∧ 4096 ≤ (tableAt 0x11000).fab.index ∧ (tableAt 9).fab.lockedMask 0xFFFF = false := by decide +kernel
theorem test_commit_route : runs (.fabTableCommit .pf 0xAB) (tableAt 0x20009) (fun t =>
    decide (sget 0 t.fab.routes 9 = 0x2B ∧ t.fab.index = 10)) = true := by decide +kernel
theorem test_commit_circuit : runs (.fabTableCommit .pf 0xAB) (tableAt 0x10FFF) (fun t =>
    decide (t.fab.circuit 4095 = 3 + 7 * 2 ^ 64)) = true := by decide +kernel
theorem test_commit_refused : runs (.fabTableCommit .pf 0xAB) (tableAt 0x11000) (fun t => decide (bit t.fab.tableIndex.toNat 30 = true)) = true := by decide +kernel
theorem test_plan_load : runs (.planLoad .pf 0) ready (fun t => decide (t.fab.plan 0 = .ready)) = true := by decide +kernel
theorem test_plan_clear : runs (.planClear .pf 0) { ready with fab := Fab.reset.setPlan 0 .fault } (fun t => decide (t.fab.plan 0 = .empty)) = true := by decide +kernel
theorem test_witness_plan_active : (Fab.reset.setPlan 0 .active).plan 0 = .active := by decide +kernel
/-- CIRCUIT_SETUP of one record, from endpoint 9 (11 Table 11.23). -/
def setupPkt : Packet := mkPacket false (addressed 0x12 5 9 6 0 18 0 0 0 0) (bytesOf 18 [(0, 2), (2, 1)])
def managed (m : W32) : State := { (portIs id) with fab := { Fab.reset with cfg := m } }
theorem test_witness_setup : ComesIn (managed 0x144009) 0 setupPkt ∧ setupPkt.kind = 0x12 ∧ setupPkt.vc = 6 ∧ setupPkt.trailerOk = true ∧
    setupPkt.payload.length = 18 * 1 ∧ bit (managed 0x144009).fab.cfg.toNat 14 = true ∧ fld (managed 0x144009).fab.cfg.toNat 0 14 = setupPkt.src ∧
    at_ setupPkt.payload 0 2 < 4096 := by
  refine ⟨?_, by decide +kernel⟩
  constructor <;> decide +kernel
theorem test_setup_not_manager : runs (.circuitSetup 0 setupPkt) (managed 0x140009) (fun t => decide (sget 0 (t.port 0).telemetry 9 = 1)) = true := by decide +kernel
theorem test_witness_setup_route : bit (routed (managed 0x144009)).fab.cfg.toNat 14 = true ∧ byPort1 (routed (managed 0x144009)) 9 6 = true := by
  decide +kernel
theorem test_window_reload : runs (.windowTableReload .pf 0 0) (mapped [] livePart) (fun t => decide ((t.part 0).windows.length = 1)) = true := by decide +kernel

/-! ### Hypotheses that are met: management packets, Peg, snapshots and streams (15, 16) -/

/-- The ready package 700 ms after its boot, with port 1 UP. -/
def synced : State := { (ready.modPort 1 (fun _ => { upPort with credits := [(12, 4)] })) with tick := 700000000 }
theorem test_witness_time_sync : synced.syncing = true ∧ synced.life.syncEnable = true ∧ synced.life.bootAt + 600000000 ≤ synced.tick ∧
    synced.portUp 1 = true ∧ (∀ x ∈ (synced.port 1).controlQueue, x.kind ≠ 0x11) := by decide +kernel
/-- The same with port 1 encrypted and without keys, and an SPDM message (16 Table 16.6). -/
def keying : State := synced.modPort 1 (fun P => { P with encrypted := true })
def spdmBytes : Bytes := bytesOf 20 [(0, 2), (16, 0x12)]
theorem test_time_sync_send : runs .timeSyncSend synced (fun t => t.out.any (fun x => match x with
    | .packet 1 k => decide (k.kind = 0x11)
    | _ => false)) = true := by decide +kernel
theorem test_time_sync_receive : runs (.timeSyncReceive 1 (zeros 48)) synced (fun t => (t.port 1).syncEcho.isSome) = true := by decide +kernel
theorem test_witness_probe : synced.basketUp = true ∧ 4 ≤ synced.life.bootPhase.toNat ∧ (zeros 16).length = 16 ∧ at_ (zeros 16) 0 1 = 0 ∧
    (synced.port 1).state = .up ∧ (synced.port 1).encrypted = false := by decide +kernel
theorem test_witness_probe_first : (∀ x ∈ (synced.port 1).controlQueue, x.kind ≠ 0x10) ∧ (∀ x ∈ (keying.port 1).controlQueue, x.kind ≠ 0x10) ∧
    (keying.port 1).state = .up ∧ (keying.port 1).encrypted = true ∧ (keying.port 1).keyed = false ∧ at_ spdmBytes 0 1 = 2 ∧
    keying.basketUp = true := by decide +kernel
/-- A Basket that restarts until tick 700,000,001, and the queue of port 1 full. -/
def restarting : State := { synced with life := { synced.life with basketUpAt := 700000001 } }
theorem test_witness_restarting : restarting.restarting = true ∧ restarting.life.deviceReady = true ∧ (zeros 48).length = 48 ∧
    (restarting.port 1).controlQueue.length < 64 ∧ 64 ≤ (List.replicate 64 (controlPacket 0x10 0 0 (zeros 16))).length := by decide +kernel
/-- 16 R467: a DISCOVERY packet that comes then waits, and the 65th control packet is dropped and counted. -/
theorem test_restart_queues : runs (.discoveryReceive 1 (zeros 16)) restarting (fun t => decide ((t.port 1).controlQueue.map (·.kind) = [0x10] ∧ t.out = [])) = true ∧
    runs (.discoveryReceive 1 (zeros 16)) (restarting.modPort 1 (fun P => { P with controlQueue := List.replicate 64 (controlPacket 0x10 0 0 (zeros 16)) }))
      (fun t => decide ((t.port 1).controlQueue.length = 64 ∧ sget 0 (t.port 1).telemetry 12 = 1)) = true := by decide +kernel
/-- The answer waits for a credit of VC 6. -/
theorem test_probe : runs (.discoveryReceive 1 (zeros 16)) (synced.modPort 1 (fun _ => upPort)) (fun t =>
    decide ((t.port 1).egress.map (·.kind) = [0x10])) = true := by decide +kernel

/-- The ready package with FABRIC_ACCEPT as given, and a PEG packet of Peg 2 of endpoint 9 (15 Table 15.20). -/
def accepting (b : Bool) (g : Peg) : State := { ready with obs := { ObsPkg.reset with cfg := if b then 0x2A else 10, peg := g } }
def pegBytes (mode : Nat) : Bytes := bytesOf 32 [(8, 9), (0x0A, 2), (0x0C, mode)]
theorem test_witness_peg_packet : (pegBytes 0).length = 32 ∧ bit (accepting true Peg.reset).obs.cfg.toNat 5 = true ∧
    bit (accepting false Peg.reset).obs.cfg.toNat 5 = false ∧ bit (at_ (pegBytes 2) 0x0C 1) 1 = true ∧ fld (at_ (pegBytes 0) 8 2) 0 14 = 9 := by
  decide +kernel
theorem test_peg_packet : runs (.pegPacketReceive 0 (pegBytes 1)) (accepting true Peg.reset) (fun t =>
    decide (t.obs.peg.open_ = true ∧ t.obs.peg.origin = 9 ∧ t.obs.peg.t = 256)) = true := by decide +kernel
theorem test_peg_packet_again : runs (.pegPacketReceive 0 (pegBytes 1)) (accepting true { Peg.reset with accepted := [(9, 2)] }) (fun t =>
    decide (t.obs.peg.open_ = false)) = true := by decide +kernel
theorem test_peg_packet_resume : runs (.pegPacketReceive 0 (pegBytes 2)) (accepting true { Peg.reset with accepted := [(9, 2), (9, 3)], halted := 3, haltedBy := [(0, (1, 9, 2)), (1, (1, 9, 3))] })
    (fun t => decide (t.obs.peg.halted = 2)) = true := by decide +kernel

theorem test_peg_trigger : runs (.pegTrigger .pf true false) ready (fun t => decide (t.obs.peg.open_ = true ∧ t.obs.peg.t = 2048)) = true := by decide +kernel
theorem test_peg_trigger_ignored : runs (.pegTrigger .pf true false) (accepting true { Peg.reset with open_ := true }) (fun t => t.obs.peg.ignored) = true := by
  decide +kernel
theorem test_peg_capture_halts : runs .pegCapture (accepting false { Peg.reset with open_ := true, halt := true, source := 1, issuer := 2, t := 9 }) (fun t =>
    decide (t.obs.peg.halted = 2 ∧ t.tick = 9)) = true := by decide +kernel
theorem test_peg_close : runs .pegWindowClose (accepting false { Peg.reset with open_ := true, captured := true, closeAt := 9 }) (fun t =>
    decide (t.obs.peg.open_ = false ∧ t.tick = 9)) = true := by decide +kernel
theorem test_peg_resume_all : runs (.pegResume .pf false) (accepting false { Peg.reset with halted := 15 }) (fun t => decide (t.obs.peg.halted = 0)) = true := by
  decide +kernel
theorem test_package_snapshot : runs (.packageSnapshot .pf) { ready with obs := { ObsPkg.reset with imageAddr := 0x1000 } } (fun t =>
    decide (t.tick = 2048 ∧ t.obs.written = 1)) = true := by decide +kernel
/-- A periodic snapshot due at tick 9, with the one before it busy until a tick. -/
def snapping (busy : Nat) : State := partIs (fun P => { P with obsMode := 1, obsCfg := 1, obsSnapshotCfg := 3, snapshotDue := some 9, snapshotBusy := busy })
theorem test_periodic_skipped : runs (.periodicSnapshot 0) (snapping 10) (fun t => decide (t.tick = 9 ∧ (t.part 0).snapshotCount = 0 ∧
    (t.part 0).snapshotDue = some 3009)) = true := by decide +kernel
theorem test_periodic : runs (.periodicSnapshot 0) (snapping 9) (fun t => decide (t.tick = 2057 ∧ (t.part 0).snapshotCount = 1)) = true := by decide +kernel

/-- One trace record at VA 0x4000 to stream to the host ring at 0x3000 with its head word at 0x2000, or to endpoint 6. -/
def streaming (target : W32) : State :=
  { (mapped [(0x4000, 0xAB)] { livePart with
    traceWritten := 1, obsTraceBase := 0x4000, obsStreamCfg := target, obsStreamAddr := if target = 1 then 0x3000 else 6,
    obsStreamHeadAddr := 0x2000, flowCfg := 0x8000000000010000, endpoint := some 5, sendPerm := 0x40 }).modPort 1 (fun _ => upPort) with
    fab := { Fab.reset with routes := [(6, 0x8000000001010101)] } }
theorem test_witness_stream : ((streaming 1).part 0).streamIdle = false ∧ (streaming 1).obsAddr 0 0x4000 = some 0x4000 ∧
    0 < (streaming 1).hostWord 0x2000 + 1024 ∧ ((streaming 2).part 0).maySend 6 = true ∧ ((streaming 2).part 0).flowEnable = true ∧
    has ((streaming 2).fab.route 6 3) (fun r => ((streaming 2).egress r).isSome) = true ∧ (streaming 2).fab.holds 0 (flowOf 6 3) = false := by
  decide +kernel
theorem test_stream_host : runs (.traceStream 0) (streaming 1) (fun t => decide (sget 0 t.host 0x3000 = 0xAB ∧ (t.part 0).traceStreamed = 1)) = true := by
  decide +kernel
theorem test_stream_fabric : runs (.traceStream 0) (streaming 2) (fun t => decide ((t.part 0).sends.length = 1)) = true := by decide +kernel

/-! ### Hypotheses that are met: registers and accesses of the host (14, 15, 16, 17) -/

theorem test_life_export : runs (.lifeExport .pf 5) ready (fun t => decide (t.life.exportResult = .ok)) = true := by decide +kernel
theorem test_life_export_early : runs (.lifeExport .pf 5) State.reset (fun t => decide (t.life.exportResult = .notReady)) = true := by decide +kernel
theorem test_calendar : runs (.calendarSet .pf 77) ready (fun t => decide (t.calendar = 77 + 2 ^ 63)) = true := by decide +kernel
/-- A ready package whose partition 0 is ENABLED with a core on each compute die. -/
def onDies : State := withPart ready { livePart with cores := 1 + (1 <<< 320) + (1 <<< 640) + (1 <<< 960) }
theorem test_power_mode : runs (.powerModeRequest .pf 2) onDies (fun t => decide (t.power.effective = 2 ∧ t.power.applied[0] = 1700)) = true := by
  decide +kernel
theorem test_power_mode_reserved : runs (.powerModeRequest .pf 3) ready (fun t => decide (t = ready)) = true := by decide +kernel
theorem test_mem_protect : runs (.memProtectRequest .pf 1) ready (fun t => t.mem.strongRequest && !t.mem.strongActive) = true := by decide +kernel
theorem test_select : runs (.counterSelectWrite .pf 0 15 18) ready (fun t => decide (sget 0 (t.part 0).obsSel 15 = 18 ∧
    (t.part 0).selDue.map (·.due) = [2048])) = true := by decide +kernel
theorem test_select_apply : runs (.counterSelectApply 0) (partIs (fun P => { P with selDue := [{ index := 3, value := 4, due := 9 }] })) (fun t =>
    decide (sget 0 (t.part 0).obsSelInForce 3 = 4 ∧ t.tick = 9)) = true := by decide +kernel
theorem test_obs_mode : runs (.obsModeWrite .pf 0 2) ready (fun t => decide (fld (t.part 0).obsCfg.toNat 0 2 = 2 ∧ (t.part 0).obsMode = 0)) = true := by
  decide +kernel

/-- The ring base of queue 16 of partition 0 lies at 0x110400 of the PF (14 Tables 14.3, 14.15). -/
theorem test_witness_ring_base : Reg.locate .pf 0x110400 = some (.part 0 (.sqBase 16)) ∧ (Reg.part 0 (.sqBase 16)).wide = true ∧
    Reg.locate .pf 0x100004 = some (.part 0 .status) ∧ ready.fnExists (.vf 0) = false := by decide +kernel
theorem test_ring_base : runs (.registerWrite .pf 0x110400 8 0x5FFF) ready (fun t => decide (((t.part 0).queue 16).sqBase = 0x5000)) = true := by decide +kernel
theorem test_ring_base_enabled : runs (.registerWrite .pf 0x110400 8 0x5000) (heldIn 16 (cmd7 0x07 [])) (fun t =>
    decide (((t.part 0).queue 16).sqBase = 0x1000)) = true := by decide +kernel

/-- BAR2 of the PF on partition 0. -/
def bar2State : State :=
  let s := mapped [(0x1000, 0xAB)] livePart
  { s with hi := { s.hi with pfBar2Select := 4 } }
theorem test_witness_bar2 : bar2State.fnExists .pf = true ∧ bar2State.bar2Part .pf = some 0 ∧ ready.bar2Part .pf = none ∧
    bar2State.bar2Addrs 0 false 0x1000 2 = some [0x1000, 0x1001] ∧ bar2State.bar2Addrs 0 false 0x80000000 1 = none ∧
    bar2State.bar2Addr 0 true 0x1000 = some 0x1000 ∧ bar2State.hi.inBar2 .pf 0x1000 2 = true ∧
    ready.hi.inBar2 .pf (2 ^ 62) 1 = false := by decide +kernel
theorem test_bar2_read : runs (.bar2Read .pf 0x1000 2) bar2State (fun t => decide (t.out = [.readData .pf [0xAB, 0]])) = true := by decide +kernel
theorem test_bar2_abort : runs (.bar2Read .pf 0x80000000 1) bar2State (fun t => decide (.completerAbort .pf ∈ t.out)) = true := by decide +kernel
theorem test_bar2_write : runs (.bar2Write .pf 0x1001 [7, 8]) bar2State (fun t => decide (t.mem.read 0x1000 3 = [0xAB, 7, 8])) = true := by decide +kernel
theorem test_witness_config : ready.hi.linkUp = true ∧ State.reset.hi.linkUp = false ∧ mayMeasure .pf 13 = true ∧ mayMeasure .pf 14 = false ∧
    mayMeasure (.vf 1) 11 = true ∧ mayMeasure (.vf 1) 10 = false := by decide +kernel
theorem test_config_vfs : runs (.configRequest .pf (.vfEnable true 4)) ready (fun t => decide (t.hi.vfEnable = true ∧ t.hi.numVfs = 4)) = true := by
  decide +kernel

/-! ### Hypotheses that are met: power, sensors, boot, Basket (01, 10, 16, 17) -/

/-- The ready package with its power changed. -/
def powerIs (f : Power → Power) : State := { ready with power := f ready.power }
theorem test_witness_changeover : (powerIs (fun w => { w with effective := 2 })).power.pendingDie 0 = true ∧
    (powerIs (fun w => { w with effective := 2 })).dieReady 0 = true ∧ ready.power.pendingDie 0 = false ∧
    ({ partIs id with power := { ready.power with effective := 2 } } : State).dieReady 0 = false ∧ ready.powered = true := by decide +kernel
/-- A die that throttles at the clock of the new mode keeps its clock. -/
theorem test_changeover : runs (.powerModeChangeover 0)
    (powerIs (fun w => { w with effective := 2, throttled := 1, clocks := w.clocks.set 0 (modeClock 2) })) (fun t =>
    decide (t.power.applied[0] = modeClock 2 ∧ t.power.applied[1] = 1700)) = true := by decide +kernel
theorem test_brake : runs .brakeAssert onDies (fun t => decide (t.power.effective = 2 ∧ t.power.brakeN = false)) = true := by decide +kernel
theorem test_brake_release : runs .brakeRelease (powerIs (fun w => { w with forcedBrake := true, effective := 2, brakeN := false })) (fun t =>
    decide (t.power.effective = 1)) = true := by decide +kernel
/-- Die 0 of compute at 100.0 °C, and one at 96.9 °C that throttles (17 R483; TEMP counts eighths of a degree). -/
def heated (temp : Nat) (throttled : Bool) : State :=
  powerIs (fun w => { w with junction := w.junction.set 1 (BitVec.ofNat 32 (2048 + temp)), throttled := if throttled then 1 else 0 })
theorem test_witness_throttle : junctionValid ((heated 800 false).power.dieReading 0) = true ∧ 800 ≤ junctionTemp ((heated 800 false).power.dieReading 0) ∧
    junctionTemp ((heated 775 true).power.dieReading 0) < 776 ∧ (heated 775 true).power.throttled.getLsbD 0 = true := by decide +kernel
/-- 17 R480: a die at 800 MHz goes no lower. -/
theorem test_throttle_floor : runs (.thermalThrottleStep 0)
    { heated 800 true with power := { (heated 800 true).power with clocks := (heated 800 true).power.clocks.set 0 800 } } (fun t =>
    decide (t.power.clocks[0] = 800)) = true := by decide +kernel
theorem test_throttle_between : runs (.thermalThrottleStep 0) (heated 776 true) (fun t => decide (t = heated 776 true)) = true := by decide +kernel
/-- 17 Table 17.6: a compute die shuts down at 115.0 °C, a stack at 110.0. -/
theorem test_witness_trip : tripLimit 8 = 920 ∧ tripLimit 9 = 880 ∧ firstLimit 8 = 800 ∧ firstLimit 9 = 760 ∧ ready.power.vaux = true := by decide +kernel
theorem test_trip : runs (.thermalSensorRead 9 880 true) ready (fun t => decide (t.power.thermtripN = false ∧ t.life.deviceReady = false)) = true := by
  decide +kernel
theorem test_no_trip : runs (.thermalSensorRead 9 879 true) ready (fun t => decide (t.power.thermtripN = true) && t.mem.doubleRefresh.getLsbD 0) = true := by
  decide +kernel
theorem test_sensor_invalid : runs (.thermalSensorRead 1 0 false) (heated 800 false) (fun t => decide (t.power.junction[1].toNat = 800)) = true := by
  decide +kernel
theorem test_coolant_missing : runs (.coolantSensorRead none (some 300)) onDies (fun t => decide (t.power.effective = 2)) = true := by decide +kernel
theorem test_coolant_hot : runs (.coolantSensorRead (some 400) (some 481)) onDies (fun t => t.power.forcedFlow) = true := by decide +kernel
theorem test_coolant_silent : runs (.coolantSensorRead none none)
    { powerIs (fun w => { w with bothSince := some 0 }) with tick := 1000000000 } (fun t => decide (t.power.trip = some 26)) = true := by decide +kernel
theorem test_boot_waits_for_inlet : runs (.coolantSensorRead (some 400) none)
    { ready with life := { ready.life with deviceReady := false, bootPhase := 0x80 } } (fun t => decide (t.life.bootPhase = 4)) = true := by decide +kernel

/-- 17 Table 17.15: ADDR_STRAP1 tied to ground and ADDR_STRAP0 open give 0x4D. -/
theorem test_vaux_good : runs .vauxGood
    { State.reset with power := { Power.reset with vaux := false, balls := { strap0 := none, strap1 := some false, trstN := none } }, tick := 7 } (fun t =>
    decide (t.tick = 0 ∧ t.power.vaux = true ∧ t.life.bootPhase = 1 ∧ t.power.address = 0x4D)) = true := by decide +kernel
theorem test_vaux_loss : runs .vauxLoss { ready with tick := 7 } (fun t => decide (t.tick = 0 ∧ t.power.vaux = false)) = true := by decide +kernel
theorem test_perst : runs .perstNAssert (bar2State) (fun t => decide (t.mem.bytes = [] ∧ t.life.deviceReady = false)) = true := by decide +kernel
theorem test_witness_vin : ready.power.vinMain = true ∧ ready.power.perstN = true ∧ ready.powered = true ∧ State.reset.power.perstN = false := by decide +kernel
theorem test_vin_loss : runs .vinMainLoss ready (fun t => decide (t.power.vinMain = false ∧ t.life.records.map (·.1) = [4])) = true := by decide +kernel
theorem test_device_ready : runs .deviceReady { ready with life := { ready.life with deviceReady := false, bootPhase := 6 } } (fun t =>
    t.life.deviceReady && decide ((t.port 31).held = false)) = true := by decide +kernel

/-- A boot that finds everything good. -/
def found0 : BootFindings :=
  { basketValid := true, patchOk := true, patchVersion := 1, inlet := some 400, failedCores := [], failedStacks := [3], wireFailures := [], laneFailures := [],
    downSeams := [2], dieLevels := [3, 3, 3, 3, 2, 3, 3, 3, 3], dieSteppings := List.replicate 9 (0, 0) }
theorem test_witness_boot : State.reset.power.vaux = true ∧ State.reset.power.perstN = false ∧ State.reset.power.tripClear = true ∧
    State.reset.life.pickSlot ≠ none ∧ inletPresent found0.inlet = true ∧ inletPresent (some 401) = false ∧
    ({ Power.reset with trip := some 26 } : Power).tripClear = false := by decide +kernel
/-- A boot at a phase, with the inlet at 40.0 °C or not read. -/
def booting (phase : BitVec 8) (inlet : Bool) : State :=
  { State.reset with
    life := { Life.reset with bootPhase := phase, found := some found0 },
    power := { Power.reset with perstN := true, coolant := if inlet then 2048 + 400 else 0 } }
theorem test_boot : runs (.coldBoot found0) State.reset (fun t => decide (t.life.bootPhase = 2 ∧ t.packageLevel = 2)) = true := by
  decide +kernel
/-- 16 Table 16.5: the lines of a boot in turn. -/
theorem test_boot_line_seams : decide ((booting 2 true).bootLine.life.bootPhase = 3 ∧ (booting 2 true).bootLine.seams[2].down = true ∧
    ((booting 2 true).bootLine.port 0).state = .training) = true := by decide +kernel
theorem test_boot_line_stacks : (booting 3 true).bootLine.mem.failed.getLsbD 3 = true ∧ (booting 3 false).bootLine.life.bootPhase = 0x80 := by
  decide +kernel
theorem test_boot_line_cores : (booting 4 true).bootLine.life.bootPhase = 5 ∧ (booting 5 true).bootLine.life.bootPhase = 6 := by decide +kernel
theorem test_witness_boot_lines : (booting 2 true).life.found = some found0 ∧ (booting 2 true).life.deviceReady = false ∧
    inletPresent (inletOf (booting 3 false).power.coolant) = false ∧ inletPresent (inletOf (booting 3 true).power.coolant) = true ∧
    (booting 4 true).life.patchRejected = false ∧ State.reset.life.found = none := by decide +kernel
theorem test_boot_no_basket : runs (.coldBoot { found0 with basketValid := false }) State.reset (fun t => decide (t.life.bootPhase = 0x81)) = true := by
  decide +kernel
/-- 17 R477: BRAKE_N low at the release of PERST_N forces Silk there too. -/
theorem test_boot_brake : runs (.coldBoot { found0 with basketValid := false }) { onDies with power := { Power.reset with brakeN := false } }
    (fun t => decide (t.power.effective = 2 ∧ t.life.bootPhase = 0x81)) = true := by decide +kernel
theorem test_time_compare : runs (.timeBaseCompare 8 5) ready (fun t => decide (t.life.dieOffsets[8] = 5)) = true := by decide +kernel
theorem test_wear_sample : runs .wearSample ready (fun t => decide (sget 0 t.life.wearNow 4096 = 1)) = true := by decide +kernel
theorem test_wear_write : runs .wearAccumulatorWrite { ready with life := { ready.life with wearNow := [(4096, 7)] } } (fun t =>
    decide (t.life.wearSaved = [(4096, 7)])) = true := by decide +kernel
/-- The boundary at tick 0 is past when the window ends at 1,000,000; one then lets the test start. -/
theorem test_witness_window : (selfTestAccepted.advance 1000000).workReady selfTestWork = false ∧
    (lateBoundary.advance 1000000).workReady { selfTestWork with boundaryAt := some 1000000 } = true ∧ lateBoundary.tick ≤ 1000000 := by decide +kernel
theorem test_window_start : runs (.selfTestWindowExpiry 0) lateBoundary (fun t => decide (t.tick = 1000000) &&
    has (t.entry (cid 0)) (fun x => decide (x.phase = .executed ∧ x.startTick = 1000000))) = true := by decide +kernel
theorem test_window_expiry : runs (.selfTestWindowExpiry 0) selfTestAccepted (fun t => decide (t.tick = 1000000 ∧ t.cores.background = []) &&
    has (t.entry (cid 0)) (fun x => decide (x.status = .deferred))) = true := by decide +kernel
/-- A self-test of core 0 that has started, its core on spare 320; a boundary of the partition has come or not. -/
def testing (b : Bool) : State :=
  let s := heldIn 0 { selfTestCmd with accepted := true, phase := .executed }
  { s with cores := { s.cores with moved := [(0, 320)], background := [{ selfTestWork with started := true, boundaryAt := if b then some 0 else none, start := 5 }] } }
theorem test_witness_work_done : (testing true).cores.background[0]? = some { selfTestWork with started := true, start := 5 } ∧
    (testing true).atBoundary { selfTestWork with started := true, start := 5 } = true ∧
    (testing false).atBoundary { selfTestWork with started := true, boundaryAt := none, start := 5 } = false := by decide +kernel
theorem test_work_passes : runs (.backgroundWorkDone 0 0) (testing true) (fun t => decide (t.tick = 2000005 ∧ t.cores.phys 0 = 0)) = true := by decide +kernel
theorem test_work_fails : runs (.backgroundWorkDone 0 1) (testing true) (fun t => decide (t.cores.retired = [0] ∧ t.cores.phys 0 = 320)) = true := by
  decide +kernel
theorem test_work_waits : runs (.backgroundWorkDone 0 0) (testing false) (fun t => decide (t = testing false)) = true := by decide +kernel

theorem test_witness_basket : ready.basketUp = true ∧ ready.life.basketMisses < 2 ∧ ready.life.slotVersion.length = 2 ∧
    ready.life.slotVersion.getD 0 0 - 1 ≤ ready.life.rollbackCounter ∧ basketMay 0x508000 = true ∧ basketMay 0x50FFFF = true ∧
    basketMay 0x510000 = false ∧ PkgReg.locate 0x620008 = some .flow ∧ basketReads 4 = true ∧ basketReads 0 = false := by decide +kernel
theorem test_heartbeat_third : runs (.basketHeartbeatCheck false) { ready with life := { ready.life with basketMisses := 2 } } (fun t =>
    decide (t.life.basketRestarts = 1 ∧ t.life.basketMisses = 0)) = true := by decide +kernel
theorem test_management_fault : runs .managementCoreFault ready (fun t => decide (t.life.basketRestarts = 1)) = true := by decide +kernel
theorem test_rollback_raise : runs .basketRollbackRaise { ready with life := { ready.life with slotVersion := [4, 0] } } (fun t =>
    decide (t.life.rollbackCounter = 3 ∧ t.tick = 600000000000)) = true := by decide +kernel
theorem test_basket_blocked : runs (.basketAccess (.writePartition 0 0)) ready (fun t => decide (t.life.firewallBlocks = 1)) = true := by decide +kernel
theorem test_basket_flow : runs (.basketAccess (.writePackage 0x620008 0x1FFFF)) ready (fun t => decide (t.power.flow = 0xFFFF)) = true := by decide +kernel
theorem test_firmware : runs (.mctpMessage { address := none, body := .firmware 9 true }) ready (fun t => decide (t.life.slotVersion = [1, 10] ∧ t.life.newSlot = some 1 ∧
    t.life.pickSlot = some 1)) = true := by decide +kernel
/-- 17 R488: a message to another address is not this package's; 16 R467: one that comes while Basket restarts waits. -/
theorem test_witness_message : ready.life.waiting = [] ∧ ready.power.address = 0x4F ∧ (none : Option Nat).getD 0x4F = 0x4F ∧ restarting.restarting = true := by
  decide +kernel
theorem test_message_elsewhere : runs (.mctpMessage { address := some 0x4C, body := .firmware 9 true }) ready (fun t => decide (t = ready)) = true ∧
    runs (.mctpMessage { address := some 0x4F, body := .firmware 9 true }) restarting (fun t => decide (t.life.waiting = [.firmware 9 true] ∧ t.life.slotVersion = [1, 0])) = true := by
  decide +kernel

/-- A payload of 247 bytes is no flit. -/
theorem test_malformed : Instr.malformed (.seamFlitReceive 0 .ab { flit0 with payload := zeros 247 }) = true ∧
    Instr.malformed (.seamFlitReceive 0 .ab flit0) = false := by decide +kernel

end Sys2Proof.Tests
end

section
/-! The sync counter operations, the command COUNTER_WRITE, the tile operation WAIT and the check of a write of the core
shares (02 R53, R57, R62, R65). -/

open Sys2Proof Sys2Proof.Machine

namespace Sys2Proof.Machine

/-! ### Sync counters (02 R57) -/

/-- add's value is the sum, and 0xFFFF_FFFF where the sum passes it. -/
theorem addSat_toNat (a v : W32) : (addSat a v).1.toNat = min (a.toNat + v.toNat) 0xFFFFFFFF := by
  unfold addSat
  split
  · rw [Nat.min_eq_right (by omega)]
    rfl
  · have hsum : (a + v).toNat = a.toNat + v.toNat := BitVec.toNat_add_of_lt (by omega)
    rw [hsum, Nat.min_eq_left (by omega)]

theorem maxW_toNat (a v : W32) : (maxW a v).toNat = max a.toNat v.toNat := by
  unfold maxW
  split
  · exact (Nat.max_eq_right (by assumption)).symm
  · exact (Nat.max_eq_left (by omega)).symm

theorem addSat_right_comm (a v w : W32) : (addSat (addSat a v).1 w).1 = (addSat (addSat a w).1 v).1 := by
  apply BitVec.eq_of_toNat_eq
  simp only [addSat_toNat]
  omega

theorem maxW_right_comm (a v w : W32) : maxW (maxW a v) w = maxW (maxW a w) v := by
  apply BitVec.eq_of_toNat_eq
  simp only [maxW_toNat]
  exact Nat.max_right_comm _ _ _

theorem Part.satisfied_iff (P : Part) (c : Nat) (v : W32) : P.satisfied c v = true ↔ v.toNat ≤ (P.counter c).toNat := by
  simp [Part.satisfied]

@[simp] theorem Part.counter_counterAdd (P : Part) (c : Nat) (v : W32) :
    (P.counterAdd c v).counter c = (addSat (P.counter c) v).1 := Part.counter_setCounter _ _ _

@[simp] theorem Part.counter_counterSet (P : Part) (c : Nat) (v : W32) :
    (P.counterSet c v).counter c = maxW (P.counter c) v := Part.counter_setCounter _ _ _

theorem Part.counter_counterAdd_other (P : Part) {c d : Nat} (v : W32) (h : d ≠ c) :
    (P.counterAdd c v).counter d = P.counter d := Part.counter_setCounter_other _ _ h

theorem Part.counter_counterSet_other (P : Part) {c d : Nat} (v : W32) (h : d ≠ c) :
    (P.counterSet c v).counter d = P.counter d := Part.counter_setCounter_other _ _ h

/-! ### COUNTER_WRITE (02 R62) -/

/-- A command that names no range walks no page table. -/
@[simp] theorem State.walkPoison_nil (s : State) (p : Fin 4) : s.walkPoison p [] = none := by
  unfold State.walkPoison
  split <;> rfl

theorem counterFieldsOk_iff {c : Bytes} (hz : zeroAt c 0x28 88 = true) :
    counterFieldsOk c = true ↔ at_ c 0x20 2 + at_ c 0x22 2 ≤ 65535 := by
  simp [counterFieldsOk, hz]

/-- The state that the COUNTER_WRITE `e` leaves when its fields pass: it is accepted, starts, fills its range and is done. -/
def State.counterWritten (s : State) (p : Fin 4) (e : Entry) : State :=
  (((s.accepted (e.cid p 0) [] []).begin (e.cid p 0)).modPart p (fun P =>
    P.counterFill (at_ e.cmd 0x20 2) (BitVec.ofNat 32 (at_ e.cmd 0x24 4)) (at_ e.cmd 0x22 2 + 1))).executed (e.cid p 0) id

theorem exec_counterWrite_ok {s : State} {p : Fin 4} {e : Entry} (h : AtHead s p 0 0x10 e)
    (hok : counterFieldsOk e.cmd = true) : exec (.counterWrite p) s = .next (s.counterWritten p e) :=
  congrArg Host.Outcome.next (State.commandRow_ok h _ _ (if_pos hok) (State.walkPoison_nil s p))

/-- One whose fields fail is refused as INVALID_COMMAND. -/
theorem exec_counterWrite_error {s : State} {p : Fin 4} {e : Entry} (h : AtHead s p 0 0x10 e)
    (hbad : counterFieldsOk e.cmd = false) :
    exec (.counterWrite p) s = .next (s.refuse (e.cid p 0) .invalid) :=
  congrArg Host.Outcome.next (State.commandRow_error h _ _ (if_neg (by simp [hbad])))

theorem Part.counterFill_queues (v : W32) : ∀ (k : Nat) (P : Part) (c : Nat), (P.counterFill c v k).queues = P.queues
  | 0, _, _ => rfl
  | k + 1, P, c => Part.counterFill_queues v k (P.setCounter c v) (c + 1)

/-- A fill in partition p, as every partition's counters see it. -/
theorem State.counter_modPart_counterFill (s : State) (p : Fin 4) (c : Nat) (v : W32) (n : Nat) (r : Fin 4) (k : Nat) :
    ((s.modPart p (fun P => P.counterFill c v n)).part r).counter k =
      if r = p ∧ c ≤ k ∧ k < c + n then v else (s.part r).counter k := by
  by_cases hr : r = p
  · subst hr
    simp only [State.part_modPart, Part.counter_counterFill, true_and]
  · rw [State.part_modPart_other s _ hr, if_neg (fun hc => hr hc.1)]

theorem State.counterWritten_entry {s : State} {p : Fin 4} {e : Entry} (h : AtHead s p 0 0x10 e) :
    ∃ x, (s.counterWritten p e).entry (e.cid p 0) = some x ∧ x.phase = .executed := by
  unfold State.counterWritten
  rw [State.executed_entry _ _ id (fun _ => rfl),
    State.entry_modPart _ _ _ _ (fun P => Part.counterFill_queues _ _ _ _), State.started_entry h]
  exact ⟨_, rfl, rfl⟩

theorem State.counterWritten_counter (s : State) (p : Fin 4) (e : Entry) (r : Fin 4) (k : Nat) :
    ((s.counterWritten p e).part r).counter k =
      if r = p ∧ at_ e.cmd 0x20 2 ≤ k ∧ k < at_ e.cmd 0x20 2 + (at_ e.cmd 0x22 2 + 1) then
        BitVec.ofNat 32 (at_ e.cmd 0x24 4)
      else (s.part r).counter k := by
  unfold State.counterWritten
  rw [State.executed_counter, State.counter_modPart_counterFill, State.begin_counter, State.accepted_counter]

/-! ### WAIT (02 R53) -/

/-- Whether the counter of a thread's WAIT is at least its VALUE. -/
abbrev State.waitMet (s : State) (i : Tid) (x : Running) : Bool :=
  (s.part i.cid.p).satisfied (syncCounter x.e.cmd x.op x.h.t) (syncValue x.op)

theorem exec_wait {s : State} {i : Tid} {x : Running} (h : s.running i 0x40 = some x) :
    exec (.wait i) s = .next (if s.waitMet i x = true then s.opRetired i x.h.core
      else s.modThread i (fun h => { h with wait := .waiting })) := by
  show Host.Outcome.next (wait i s) = _
  simp only [wait, h]

theorem exec_waitSatisfied {s : State} {i : Tid} {x : Running} (h : s.runningOr i 0x40 .waiting = some x) :
    exec (.waitSatisfied i) s = .next (if x.h.wait = .waiting ∧ s.waitMet i x = true then s.opRetired i x.h.core else s) := by
  show Host.Outcome.next (waitSatisfied i s) = _
  simp only [waitSatisfied, h]

/-- A thread whose operation retires goes on as `Thread.retireOp`. -/
theorem State.opRetired_threadOf_running {s : State} {i : Tid} {opcode : Nat} {wt : ThreadWait} {x : Running}
    (h : s.runningOr i opcode wt = some x) : (s.opRetired i x.h.core).threadOf i = some x.h.retireOp := by
  rw [State.opRetired_threadOf, State.running_threadOf h, Option.map_some]

/-- A thread that is not ready performs no operation. -/
theorem State.running_none_of_not_ready {s : State} {i : Tid} {h : Thread} (ht : s.threadOf i = some h)
    (hw : h.wait ≠ .ready) (opcode : Nat) : s.running i opcode = none := by
  cases hr : s.running i opcode with
  | none => rfl
  | some x =>
    obtain ⟨_, _, _, _, _, hready, _⟩ := State.running_some hr
    have hx : s.threadOf i = some x.h := State.running_threadOf hr
    rw [ht, Option.some.injEq] at hx
    exact absurd (hx ▸ hready) hw

/-- A thread set to wait stays resident with all it holds, and performs no operation. -/
theorem State.waiting_threadOf {s : State} {i : Tid} {opcode : Nat} {wt : ThreadWait} {x : Running}
    (h : s.runningOr i opcode wt = some x) :
    (s.modThread i (fun h => { h with wait := .waiting })).threadOf i = some { x.h with wait := .waiting } ∧
      ∀ op, (s.modThread i (fun h => { h with wait := .waiting })).running i op = none := by
  have ht : (s.modThread i (fun h => { h with wait := .waiting })).threadOf i = some { x.h with wait := .waiting } := by
    have hmod := State.threadOf_modThread s i (fun h => { h with wait := .waiting }) (fun _ => rfl)
    rwa [State.running_threadOf h] at hmod
  exact ⟨ht, State.running_none_of_not_ready ht (by simp)⟩

/-- What 02 R53 says of the model's WAIT. The thread that goes on is `Thread.retireOp`: at its next operation, ready, and
with nothing kept for an operation in part (`owed`, `done`). -/
theorem wait_retires_or_holds {s : State} {i : Tid} {x : Running} (h : s.running i 0x40 = some x) :
    ∃ t, exec (.wait i) s = .next t ∧ (∀ p k, (t.part p).counter k = (s.part p).counter k) ∧ t.mem = s.mem ∧
      t.host = s.host ∧
      (s.waitMet i x = true → t.threadOf i = some x.h.retireOp) ∧
      (s.waitMet i x = false → t.threadOf i = some { x.h with wait := .waiting } ∧ ∀ opcode, t.running i opcode = none) := by
  refine ⟨_, exec_wait h, ?_⟩
  by_cases hs : s.waitMet i x = true
  · obtain ⟨hmem, hhost, hcount⟩ := State.opRetired_frame s i x.h.core
    rw [if_pos hs]
    exact ⟨hcount, hmem, hhost, fun _ => State.opRetired_threadOf_running h, fun hno => absurd hs (by simp [hno])⟩
  · rw [if_neg hs]
    exact ⟨fun p k => State.counter_modEntry _ _ _ _ _, rfl, rfl, fun hyes => absurd hyes hs,
      fun _ => State.waiting_threadOf h⟩

/-- What 02 R53 says of the model's WAIT_SATISFIED. -/
theorem waitSatisfied_retires {s : State} {i : Tid} {x : Running} (h : s.runningOr i 0x40 .waiting = some x)
    (hw : x.h.wait = .waiting) (hs : s.waitMet i x = true) :
    ∃ t, exec (.waitSatisfied i) s = .next t ∧ t.threadOf i = some x.h.retireOp ∧
      (∀ p k, (t.part p).counter k = (s.part p).counter k) ∧ t.mem = s.mem ∧ t.host = s.host := by
  obtain ⟨hmem, hhost, hcount⟩ := State.opRetired_frame s i x.h.core
  refine ⟨_, exec_waitSatisfied h, ?_⟩
  rw [if_pos ⟨hw, hs⟩]
  exact ⟨State.opRetired_threadOf_running h, hcount, hmem, hhost⟩

/-- A thread at its first operation that still counts one row of a row operation as done. -/
def partDoneThread : Thread :=
  { t := 0, core := 0, context := 0, since := 0, op := 0, wait := .ready, ls := [], acc := [], regs := [], holdsRegs := false,
    preload := none, carry := [], unreb := false, events := [], owed := [], done := 1 }

/-- Its sweep: a program of one operation, WAIT for counter 0 to be at least 0 (02 R47, Table 2.10). -/
def partDoneSweep : Sweep :=
  { prog := 1 :: zeros 63 ++ 0x40 :: zeros 31, slots := [], coreList := [], compat := false, modeFixed := true, placed := 1,
    threads := [partDoneThread], retired := [], coreOf := [(0, 1)], coloc := none }

/-- Its command, number 0, running. -/
def partDoneEntry : Entry :=
  { Entry.fresh 0 (zeros 128) with phase := .running, accepted := true, sweep := some partDoneSweep }

/-- The block after reset but for that command in queue 16 of partition 0. -/
def partDoneState : State :=
  State.reset.setPart 0 { Part.reset with queues := [(16, { Queue.reset with entries := [partDoneEntry] })] }

/-- The thread's name. -/
def partDoneTid : Tid := { cid := { p := 0, q := 16, n := 0 }, t := 0 }

/-- The thread is ready to perform its WAIT. -/
theorem partDoneState_running : partDoneState.running partDoneTid 0x40 =
    some { e := partDoneEntry, w := partDoneSweep, h := partDoneThread, op := opAt partDoneSweep.prog 0 } := by
  rfl

/-! ### The core shares (02 R65) -/

theorem sharesOk_iff (low high : Nat) : sharesOk low high = true ↔
    (∀ k, k < 4 → shareMin low k ≤ 16 ∧ 1 ≤ shareMax low high k ∧ shareMax low high k ≤ 16 ∧
      shareMin low k ≤ shareMax low high k) ∧
    shareMin low 0 + shareMin low 1 + shareMin low 2 + shareMin low 3 ≤ 16 := by
  have hrange : ([0, 1, 2, 3] : List Nat) = List.range 4 := rfl
  simp only [sharesOk, hrange, Bool.and_eq_true, List.all_eq_true, List.mem_range, decide_eq_true_eq, and_assoc]

/-- A write of a share register puts both registers' resulting values in place when they may stand, and does nothing
otherwise. -/
theorem exec_streamShareWrite {s : State} {fn : Fn} {p : Fin 4} (high : Bool) (v : W32) {l h : W32}
    (hmay : s.mayWritePart fn p = true) (hl : l = if high then (s.part p).streamShare else v &&& 0x7FEFFFFF)
    (hh : h = if high then v &&& 0x3FF else (s.part p).streamShareHigh) :
    exec (.streamShareWrite fn p high v) s = .next
      (if sharesOk l.toNat h.toNat = true then
        s.setPart p { s.part p with streamShare := l, streamShareHigh := h } else s) := by
  subst hl hh
  show Host.Outcome.next (streamShareWrite fn p high v s) = _
  simp only [streamShareWrite, hmay, Bool.true_and]

end Sys2Proof.Machine

namespace Sys2Proof

/-- Settles O8: each clause is the law of `setCounter` with the arithmetic of `addSat` and `maxW`. -/
theorem counterOperations : Obligations.CounterOperations := by
  intro P c v
  refine ⟨P.satisfied_iff c v, ?_, ?_, fun d hd => ?_, fun w => ⟨?_, ?_⟩⟩
  · rw [Part.counter_counterAdd, addSat_toNat]
  · rw [Part.counter_counterSet, maxW_toNat]
  · exact ⟨Part.counter_counterAdd_other P v hd, Part.counter_counterSet_other P v hd⟩
  · simp only [Part.counter_counterAdd, addSat_right_comm]
  · simp only [Part.counter_counterSet, maxW_right_comm]

/-- Settles O7: a range within the counters passes the field checks and is filled after the start; one that passes counter
65,535 fails them and the command is refused. -/
theorem counterWriteSetsItsRange : Obligations.CounterWriteSetsItsRange := by
  intro s p e hhead hz
  refine ⟨fun hin => ?_, fun hpast => ?_⟩
  · obtain ⟨x, hx, hphase⟩ := State.counterWritten_entry hhead
    exact ⟨_, x, exec_counterWrite_ok hhead ((counterFieldsOk_iff hz).mpr hin), hx, hphase,
      State.counterWritten_counter s p e⟩
  · have hbad : counterFieldsOk e.cmd = false := by
      rw [Bool.eq_false_iff, Ne, counterFieldsOk_iff hz]
      omega
    obtain ⟨x, hx, hphase, hstatus, _⟩ :=
      State.refuse_entry s (e.cid p 0) .invalid (by decide) (e := e) hhead.named
    exact ⟨_, x, exec_counterWrite_error hhead hbad, hx, hphase, hstatus,
      State.refuse_counter s (e.cid p 0) .invalid (by decide)⟩

/-- Refutes O9: the statement lets the thread that goes on keep every other field, and a retiring operation clears `done`
(and `owed`). In `partDoneState` a thread at a satisfied WAIT has `done` 1, and afterwards 0. That is the statement's only
fault: `wait_retires_or_holds` and `waitSatisfied_retires` say all of it with `Thread.retireOp` for the thread. -/
theorem not_waitHoldsAndReleases : ¬ Obligations.WaitHoldsAndReleases := by
  intro ⟨hwait, _⟩
  have hs : partDoneState.waitMet partDoneTid
      { e := partDoneEntry, w := partDoneSweep, h := partDoneThread, op := opAt partDoneSweep.prog 0 } = true := by decide
  obtain ⟨t, ht, hclaimed, _⟩ := (hwait _ _ _ partDoneState_running).1 hs
  obtain ⟨u, hu, _, _, _, hactual, _⟩ := wait_retires_or_holds partDoneState_running
  obtain rfl : t = u := Host.Outcome.next.inj (ht.symm.trans hu)
  rw [hactual hs, Option.some.injEq] at hclaimed
  exact absurd (congrArg Thread.done hclaimed) (by decide)

/-- Settles O34: the cases of the rule are exactly where `sharesOk` is false of the values that would result. -/
theorem shareWritesAreChecked : Obligations.ShareWritesAreChecked := by
  intro s fn p high v l h hmay hl hh
  refine ⟨fun hbad => ?_, fun heach hsum => ?_⟩
  · have hno : ¬ sharesOk l.toNat h.toNat = true := by
      rw [sharesOk_iff]
      rintro ⟨heach, hsum⟩
      rcases hbad with ⟨k, hk, hcase⟩ | hover
      · have := heach k hk
        omega
      · omega
    rw [exec_streamShareWrite high v hmay hl hh, if_neg hno]
  · have hyes : sharesOk l.toNat h.toNat = true := (sharesOk_iff _ _).mpr ⟨heach, hsum⟩
    refine ⟨_, exec_streamShareWrite high v hmay hl hh, ?_⟩
    rw [if_pos hyes]
    exact ⟨State.part_setPart s p _, fun r hr => State.part_setPart_other s _ hr, rfl⟩

end Sys2Proof
end
